-- ==== Sys2Proof/Word.lean ====
section
/-! DEFINITION. The words of the D40 and the one sparse map that memory and every large register file use. -/

namespace Sys2Proof

/-- A 64-bit value: pointers, s and x registers, control words, instruction words (R84, R132). -/
abbrev Word := BitVec 64

/-- One lane's 32-bit register value (R84). -/
abbrev W32 := BitVec 32

/-- The 64 bytes of one line, the byte at the lowest address in bits [7:0] (R4). -/
abbrev LineData := BitVec 512

/-- A patina: 512 bits, numbered 0 to 511 (R284). -/
abbrev Patina := BitVec 512

/-- A sparse map from numbers to `w`-bit values in ONE canonical form: keys strictly rising, no entry
equal to the zero that an unlisted key reads as. Memory is an `SMap 8`, a list of `Host.Cell`. -/
abbrev SMap (w : Nat) := List (Nat × BitVec w)

namespace SMap

/-- The value at a key; an unlisted key reads as zero. -/
def get {w : Nat} : SMap w → Nat → BitVec w
  | [], _ => 0
  | (j, x) :: m, k => if j = k then x else get m k

/-- Writes a key whose new value is not zero, in its place of the order. -/
def put {w : Nat} : SMap w → Nat → BitVec w → SMap w
  | [], k, x => [(k, x)]
  | (j, y) :: m, k, x => if k < j then (k, x) :: (j, y) :: m else if k = j then (k, x) :: m else (j, y) :: put m k x

/-- Removes a key. -/
def drop {w : Nat} (m : SMap w) (k : Nat) : SMap w := m.filter fun e => e.1 != k

/-- Writes a key, keeping the canonical form: zero removes the entry. -/
def set {w : Nat} (m : SMap w) (k : Nat) (x : BitVec w) : SMap w := if x = 0 then drop m k else put m k x

/-- Sets every key of `[lo, lo + n)` to zero. -/
def clear {w : Nat} (m : SMap w) (lo n : Nat) : SMap w :=
  m.filter fun e => e.1 < lo || lo + n ≤ e.1

/-- Keys strictly rising above `b`, and no zero entry. -/
def wfFrom {w : Nat} : Nat → SMap w → Bool
  | _, [] => true
  | b, (j, x) :: m => decide (b ≤ j) && decide (x ≠ 0) && wfFrom (j + 1) m

/-- The canonical form of a sparse map. -/
def wf {w : Nat} (m : SMap w) : Bool := wfFrom 0 m

end SMap

end Sys2Proof
end

