-- ==== Sys2Proof/Config.lean ====
section
/-! DEFINITION. What an implementation fixes and the manual leaves open: free values are opaque constants without a body,
so nothing can be proved of the value they take. -/

namespace Sys2Proof.Config

/-! ### Free values: the manual gives the effect and not the value -/

/-- FREE VALUE (log 10). Whether `frsq` gives the upper or the lower neighbour of a result that is not representable: R213 bounds it and gives no bits. -/
opaque frsqUp : W32 → Bool
/-- FREE VALUE (log 10). The `fexp2` result for an input that R213 does not fix exactly. -/
opaque fexp2 : W32 → W32
/-- FREE VALUE (log 10). The `flog2` result for an input that R213 does not fix exactly. -/
opaque flog2 : W32 → W32
/-- FREE VALUE (log 10). The `fsin` result for an input that R213 does not fix exactly. -/
opaque fsin : W32 → W32
/-- FREE VALUE (log 10). The `fcos` result for an input that R213 does not fix exactly. -/
opaque fcos : W32 → W32

/-- FREE VALUE (log 11). A value the manual leaves undefined within R7, one per use of the state's free counter. -/
opaque free32 : Nat → W32
/-- FREE VALUE (log 11). The flags of a reduction phase whose members disagree on the operation (R339). -/
opaque free5 : Nat → BitVec 5
/-- FREE VALUE (log 12). Whether a fetch from a line whose code has changed takes the old word (R154). -/
opaque freeFetchOld : Nat → Bool

/-! ### Signed images: the manual gives no layout of an image and no key -/

/-- FREE VALUE (log 13). The VERSION an image's bytes carry (R423 gives no place for it). -/
opaque imgVersion : SMap 8 → BitVec 24
/-- FREE VALUE (log 13). The MINROLL an image's bytes carry. -/
opaque imgMinRoll : SMap 8 → BitVec 32
/-- FREE VALUE (log 13). Whether both signatures of an image verify and its digest matches (R423). -/
opaque imgVerifies : SMap 8 → Bool
/-- FREE VALUE (log 13). The spawn record of the supervisor's first task that an image carries (R388 gives no place for it). -/
opaque imgRecord : SMap 8 → BitVec 2048
/-- FREE VALUE (log 13). Whether both signatures of the maquette's 64 KiB verify and its digest matches (R423). -/
opaque maqVerifies : SMap 8 → Bool
/-- FREE VALUE (log 13). The SHA-384 digest of a signed object's bytes. -/
opaque digest : SMap 8 → BitVec 384
/-- FREE VALUE (log 13). The identity that SPDM answers with (R426 gives none). -/
opaque identity : BitVec 384

/-- FREE VALUE (log 14). What a CXL.io read returns, from the state's free counter, the address and the words written so far: R308 names the header, the
DVSECs, the DOE mailbox with CDAT and the component registers, and gives no bits. -/
opaque cfgRead : Nat → Nat → SMap 32 → W32

/-- FREE VALUE (log 44). The byte mask of a `DataM`'s third line: R298 gives every line one in a first continuation slot that has room for two. -/
opaque thirdMask : Nat → BitVec 64

/-! ### Figures the manual gives -/

/-- Fabric clocks after which an unanswered snoop to an owner times out (R266). -/
abbrev snpTimeout : Nat := 2 ^ 20
/-- Fabric clocks after which an unanswered request is reported (R263). -/
abbrev reqTimeout : Nat := 2 ^ 21
/-- Fabric clocks of a RESYNC window (R384). -/
abbrev resyncWindow : Nat := 10000
/-- Command slots of one block-transfer channel (R69). -/
abbrev chanSlots : Nat := 16
/-- Commands one residue array's queue holds (R128). -/
abbrev mmaQueue : Nat := 16
/-- Tiles of a core's accumulator store (R127). -/
abbrev coreTiles : Nat := 1536
/-- Cohort entries of a core (R319). -/
abbrev cohortEntries : Nat := 64
/-- Token entries of a slice (R312). -/
abbrev tokenDepth : Nat := 16

end Sys2Proof.Config
end

