-- ==== Sys2Proof/Machine/Bits.lean ====
section
/-! DEFINITION. Integers and bit fields: reading a pattern as signed or unsigned, cutting and clamping results, and the
little-endian bytes of a value (R3, R4, R11). -/

namespace Sys2Proof.Machine

/-- Bits [lo+len-1 : lo] of a number. -/
def fieldN (v lo len : Nat) : Nat := v / 2 ^ lo % 2 ^ len

/-- One bit of a number. -/
def bitN (v i : Nat) : Bool := v / 2 ^ i % 2 == 1

/-- The low `w` bits of a number read as two's complement. -/
def sextN (v w : Nat) : Int :=
  let x := v % 2 ^ w
  if x < 2 ^ (w - 1) then x else (x : Int) - 2 ^ w

/-- An integer cut to `w` bits (R11 `trunc`). -/
def truncI (x : Int) (w : Nat) : Nat := (x % (2 ^ w : Nat)).toNat

/-- The value of a `w`-bit pattern, signed or not. -/
def readI (signed : Bool) (v w : Nat) : Int := if signed then sextN v w else (v % 2 ^ w : Nat)

/-- The range of a `w`-bit integer type. -/
def rangeI (signed : Bool) (w : Nat) : Int × Int :=
  if signed then (-(2 ^ (w - 1) : Nat), (2 ^ (w - 1) : Nat) - 1) else (0, (2 ^ w : Nat) - 1)

/-- An integer clamped to a range. -/
def clampI (lo hi x : Int) : Int := if x < lo then lo else if hi < x then hi else x

/-- An integer saturated to a `w`-bit type. -/
def satI (signed : Bool) (w : Nat) (x : Int) : Int := clampI (rangeI signed w).1 (rangeI signed w).2 x

/-- Number of 1 bits among the low `w`. -/
def popN (v : Nat) : Nat → Nat
  | 0 => 0
  | w + 1 => popN v w + (if bitN v w then 1 else 0)

/-- Leading zeros among the low `w` bits. -/
def clzN (v : Nat) : Nat → Nat
  | 0 => 0
  | w + 1 => if bitN v w then 0 else 1 + clzN v w

/-- Trailing zeros from bit `i`, over `n` bits. -/
def ctzN (v i : Nat) : Nat → Nat
  | 0 => 0
  | n + 1 => if bitN v i then 0 else 1 + ctzN v (i + 1) n

/-- The low `w` bits in reversed order. -/
def revN (v : Nat) : Nat → Nat
  | 0 => 0
  | w + 1 => (if bitN v w then 1 else 0) + 2 * revN v w

/-- The `n` little-endian bytes of a number (R4). -/
def bytesN (v : Nat) : Nat → List (BitVec 8)
  | 0 => []
  | n + 1 => BitVec.ofNat 8 v :: bytesN (v / 256) n

/-- The number that little-endian bytes form. -/
def ofBytes : List (BitVec 8) → Nat
  | [] => 0
  | b :: bs => b.toNat + 256 * ofBytes bs

/-- The `n` numbers from `a`. -/
def rangeFrom (a : Nat) : Nat → List Nat
  | 0 => []
  | n + 1 => a :: rangeFrom (a + 1) n

/-- The first element that satisfies a test and its position's rest is not needed. -/
def findMap {α β : Type} (f : α → Option β) : List α → Option β
  | [] => none
  | x :: xs => match f x with | some y => some y | none => findMap f xs

/-- Replaces the first element that a test accepts, or appends the new one. -/
def upsert {α : Type} (hit : α → Bool) (y : α) : List α → List α
  | [] => [y]
  | x :: xs => if hit x then y :: xs else x :: upsert hit y xs

/-- The value at a number in an association list. -/
def assocD {β : Type} (d : β) : List (Nat × β) → Nat → β
  | [], _ => d
  | (j, y) :: xs, k => if j = k then y else assocD d xs k

/-- Sets the value at a number in an association list. -/
def assocSet {β : Type} : List (Nat × β) → Nat → β → List (Nat × β)
  | [], k, y => [(k, y)]
  | (j, x) :: xs, k, y => if j = k then (k, y) :: xs else (j, x) :: assocSet xs k y

/-- Whether bit `l` of a lane mask is set. -/
def laneIn (m : BitVec 32) (l : Nat) : Bool := m.getLsbD l

/-- The lanes of a mask, ascending. -/
def lanesOf (m : BitVec 32) : List Nat := (rangeFrom 0 32).filter (laneIn m)

/-- The mask with one lane. -/
def laneBit (l : Nat) : BitVec 32 := BitVec.ofNat 32 (2 ^ l)

/-- The mask that a test on lanes makes. -/
def maskOf (f : Nat → Bool) : BitVec 32 :=
  (rangeFrom 0 32).foldl (fun m l => if f l then m ||| laneBit l else m) 0

/-- The 512 bits with bit `i` set. -/
def bit512 (i : Nat) : BitVec 512 := BitVec.ofNat 512 (2 ^ i)

end Sys2Proof.Machine
end

