-- ==== Sys2Proof/Machine/Float.lean ====
section
/-! DEFINITION. Floating point: FP32 and BF16 by exact values rounded once (R98 to R101, R209 to R214), the narrow memory
formats (R102 to R108), the rounding modes (R109), and the flags each operation raises (R112). A BF16 value is handled
as the FP32 pattern whose high half it is (R100). -/

namespace Sys2Proof.Machine

/-- The exact value of a number pattern. -/
inductive FV where
  /-- A NaN, signalling or quiet. -/
  | nan (sig : Bool)
  | inf (neg : Bool)
  /-- (-1)^neg × m × 2^e. -/
  | fin (neg : Bool) (m : Nat) (e : Int)
  deriving DecidableEq, Repr

/-- Flags NV, DZ, OF, UF, NX in bits 4 to 0 (R112). -/
abbrev Flags := BitVec 5

/-- Invalid operation. -/
def fNV : Flags := 16
/-- Division by zero. -/
def fDZ : Flags := 8
/-- Overflow. -/
def fOF : Flags := 4
/-- Underflow. -/
def fUF : Flags := 2
/-- Inexact. -/
def fNX : Flags := 1

/-- The default NaN (R99). -/
def defNaN : W32 := 0x7FC00000

/-- The value of a binary32 pattern (R98). -/
def unpackF (x : W32) : FV :=
  let neg := x.getLsbD 31
  let e := (x.extractLsb' 23 8).toNat
  let f := (x.extractLsb' 0 23).toNat
  if e = 255 then (if f = 0 then .inf neg else .nan (!x.getLsbD 22))
  else if e = 0 then .fin neg f (-149)
  else .fin neg (f + 2 ^ 23) ((e : Int) - 150)

/-- A binary32 zero. -/
def zeroF (neg : Bool) : W32 := if neg then 0x80000000 else 0

/-- A binary32 infinity. -/
def infF (neg : Bool) : W32 := if neg then 0xFF800000 else 0x7F800000

/-- Whether a value that falls in (m, m + 1) by the fraction `r`/`d` rounds up (R109). -/
def roundUp (rm : BitVec 3) (neg : Bool) (m r d : Nat) : Bool :=
  if r = 0 then false
  else match rm.toNat with
    | 1 => false
    | 2 => neg
    | 3 => !neg
    | 4 => d ≤ 2 * r
    | _ => d < 2 * r || (d == 2 * r && m % 2 == 1)

/-- `m` × 2^`e` rounded to a multiple of 2^`q`: the multiple, and whether it differs. -/
def quantise (rm : BitVec 3) (neg : Bool) (m : Nat) (e q : Int) : Nat × Bool :=
  if q ≤ e then (m * 2 ^ (e - q).toNat, false)
  else
    let d := 2 ^ (q - e).toNat
    let r := m % d
    (m / d + (if roundUp rm neg (m / d) r d then 1 else 0), r != 0)

/-- The exponent of the last place of a `p`-bit result whose value is `m` × 2^`e`, not below that of the subnormals. -/
def lastPlace (p : Nat) (emin : Int) (m : Nat) (e : Int) : Int :=
  max (e + (Nat.log2 m : Int) - (p - 1 : Nat)) (emin - (p - 1 : Nat))

/-- Whether rounding to `p` bits with no lower bound on the exponent stays below 2^`emin`: tininess after rounding (R98). -/
def tinyF (rm : BitVec 3) (p : Nat) (emin : Int) (neg : Bool) (m : Nat) (e : Int) : Bool :=
  let q := e + (Nat.log2 m : Int) - (p - 1 : Nat)
  let r := quantise rm neg m e q
  if r.1 = 2 ^ p then q + (p : Int) < emin else q + (p - 1 : Nat) < emin

/-- The largest finite pattern of a `p`-bit format with FP32's exponents. -/
def maxFinite (p : Nat) (neg : Bool) : W32 :=
  BitVec.ofNat 32 (0x7F800000 - 2 ^ (24 - p)) ||| (if neg then 0x80000000 else 0)

/-- Whether overflow gives infinity under a mode (R124, R107). -/
def overToInf (rm : BitVec 3) (neg : Bool) : Bool :=
  match rm.toNat with
  | 1 => false
  | 2 => neg
  | 3 => !neg
  | _ => true

/-- (-1)^neg × m × 2^e rounded once to a `p`-bit format with FP32's exponents (24 for FP32, 8 for BF16), as a binary32
pattern, with its flags (R98). -/
def roundF (rm : BitVec 3) (p : Nat) (neg : Bool) (m : Nat) (e : Int) : W32 × Flags :=
  if m = 0 then (zeroF neg, 0)
  else
    let q := lastPlace p (-126) m e
    let r := quantise rm neg m e q
    let n := if r.1 = 2 ^ p then 2 ^ (p - 1) else r.1
    let q' := if r.1 = 2 ^ p then q + 1 else q
    let fl := if r.2 then (if tinyF rm p (-126) neg m e then fUF ||| fNX else fNX) else 0
    if n = 0 then (zeroF neg, fl)
    else if n < 2 ^ (p - 1) then (zeroF neg ||| BitVec.ofNat 32 (n * 2 ^ (24 - p)), fl)
    else
      let ef := q' + (p - 1 : Nat) + 127
      if 255 ≤ ef then ((if overToInf rm neg then infF neg else maxFinite p neg), fOF ||| fNX)
      else (zeroF neg ||| BitVec.ofNat 32 (ef.toNat * 2 ^ 23 + (n - 2 ^ (p - 1)) * 2 ^ (24 - p)), fl)

/-- Whether a value is a signalling NaN. -/
def FV.sig : FV → Bool
  | .nan s => s | .inf _ => false | .fin .. => false

/-- Whether a value is a NaN. -/
def FV.isNan : FV → Bool
  | .nan _ => true | .inf _ => false | .fin .. => false

/-- The exact product; `none` for 0 × ∞. -/
def FV.mul : FV → FV → Option FV
  | .nan s, y => some (.nan (s || y.sig))
  | x, .nan s => some (.nan (s || x.sig))
  | .inf a, .inf b => some (.inf (a != b))
  | .inf a, .fin b m _ => if m = 0 then none else some (.inf (a != b))
  | .fin a m _, .inf b => if m = 0 then none else some (.inf (a != b))
  | .fin a m e, .fin b n f => some (.fin (a != b) (m * n) (e + f))

/-- The negated value. -/
def FV.neg : FV → FV
  | .nan s => .nan s | .inf a => .inf (!a) | .fin a m e => .fin (!a) m e

/-- The least exponent of a list of finite values. -/
def minExp : List FV → Int
  | [] => 0
  | [.fin _ _ e] => e
  | .fin _ _ e :: xs => min e (minExp xs)
  | _ :: xs => minExp xs

/-- The exact sum of finite values, in units of 2^`q`. -/
def sumAt (q : Int) : List FV → Int
  | [] => 0
  | .fin neg m e :: xs =>
    (if neg then -((m * 2 ^ (e - q).toNat : Nat) : Int) else ((m * 2 ^ (e - q).toNat : Nat) : Int)) + sumAt q xs
  | _ :: xs => sumAt q xs

/-- Whether every value is a zero of this sign. -/
def allZero (neg : Bool) : List FV → Bool
  | [] => true
  | .fin n m _ :: xs => n == neg && m == 0 && allZero neg xs
  | _ :: _ => false

/-- The exact sum of values rounded once (R210): NaNs and opposite infinities give the default NaN, an exact zero is +0,
or −0 under RDN, or the common sign of zeros. -/
def sumF (rm : BitVec 3) (p : Nat) (xs : List FV) : W32 × Flags :=
  if xs.any FV.isNan then (defNaN, if xs.any FV.sig then fNV else 0)
  else
    let pos := xs.any fun x => x == .inf false
    let neg := xs.any fun x => x == .inf true
    if pos && neg then (defNaN, fNV)
    else if pos then (infF false, 0)
    else if neg then (infF true, 0)
    else
      let q := minExp xs
      let s := sumAt q xs
      if s = 0 then (zeroF (if xs.isEmpty then false else if allZero true xs then true
        else if allZero false xs then false else rm.toNat == 2), 0)
      else roundF rm p (decide (s < 0)) s.natAbs q

/-- A product and addends, each product exact, summed and rounded once; an invalid product raises NV even beside a quiet
NaN (R210). -/
def dotF (rm : BitVec 3) (p : Nat) (ps : List (FV × FV)) (c : List FV) : W32 × Flags :=
  let prods := ps.map fun x => x.1.mul x.2
  if prods.any Option.isNone then (defNaN, fNV)
  else sumF rm p (prods.filterMap id ++ c)

/-- a + b. -/
def addF (rm : BitVec 3) (p : Nat) (a b : W32) : W32 × Flags := sumF rm p [unpackF a, unpackF b]
/-- a − b. -/
def subF (rm : BitVec 3) (p : Nat) (a b : W32) : W32 × Flags := sumF rm p [unpackF a, (unpackF b).neg]
/-- a × b + c, rounded once. -/
def fmaF (rm : BitVec 3) (p : Nat) (a b c : W32) : W32 × Flags := dotF rm p [(unpackF a, unpackF b)] [unpackF c]

/-- A value rounded once. -/
def packF (rm : BitVec 3) (p : Nat) : FV → W32 × Flags
  | .nan s => (defNaN, if s then fNV else 0)
  | .inf n => (infF n, 0)
  | .fin n m e => roundF rm p n m e

/-- a × b. -/
def mulF (rm : BitVec 3) (p : Nat) (a b : W32) : W32 × Flags :=
  match (unpackF a).mul (unpackF b) with
  | none => (defNaN, fNV)
  | some v => packF rm p v

/-- The quotient of two positive mantissas to 64 bits below, its last bit sticky. -/
def divMant (m n : Nat) : Nat :=
  let k := 80
  2 * (m * 2 ^ k / n) + (if m * 2 ^ k % n = 0 then 0 else 1)

/-- a ÷ b (R210, R212). -/
def divF (rm : BitVec 3) (p : Nat) (a b : W32) : W32 × Flags :=
  match unpackF a, unpackF b with
  | .nan s, y => (defNaN, if s || y.sig then fNV else 0)
  | x, .nan s => (defNaN, if s || x.sig then fNV else 0)
  | .inf _, .inf _ => (defNaN, fNV)
  | .inf x, .fin y _ _ => (infF (x != y), 0)
  | .fin x _ _, .inf y => (zeroF (x != y), 0)
  | .fin x m e, .fin y n f =>
    if n = 0 then (if m = 0 then (defNaN, fNV) else (infF (x != y), fDZ))
    else if m = 0 then (zeroF (x != y), 0)
    else roundF rm p (x != y) (divMant m n) (e - f - 81)

/-- The integer square root, bit by bit from bit `i`. -/
def isqrtFrom (n : Nat) : Nat → Nat → Nat
  | r, 0 => if (r + 1) * (r + 1) ≤ n then r + 1 else r
  | r, i + 1 => isqrtFrom n (if (r + 2 ^ (i + 1)) * (r + 2 ^ (i + 1)) ≤ n then r + 2 ^ (i + 1) else r) i

/-- √a (R212). -/
def sqrtF (rm : BitVec 3) (p : Nat) (a : W32) : W32 × Flags :=
  match unpackF a with
  | .nan s => (defNaN, if s then fNV else 0)
  | .inf n => if n then (defNaN, fNV) else (infF false, 0)
  | .fin n m e =>
    if m = 0 then (zeroF n, 0)
    else if n then (defNaN, fNV)
    else
      let m' := if e % 2 = 0 then m * 2 ^ 64 else 2 * m * 2 ^ 64
      let e' := if e % 2 = 0 then e else e - 1
      let r := isqrtFrom m' 0 48
      roundF rm p false (2 * r + (if r * r = m' then 0 else 1)) (e' / 2 - 33)

/-- 1 ÷ a (R212). Every result is rounded correctly: a subnormal input overflows only where 1 ÷ a exceeds the format's range (log 39). -/
def rcpF (rm : BitVec 3) (p : Nat) (a : W32) : W32 × Flags := divF rm p 0x3F800000 a

/-- Orders two values that are not NaN: whether a < b, with −0 below +0 when `zeros` is set. -/
def ltF (zeros : Bool) : FV → FV → Bool
  | .inf a, .inf b => a && !b
  | .inf a, .fin .. => a
  | .fin .., .inf b => !b
  | .fin a m e, .fin b n f =>
    let q := min e f
    let x := sumAt q [.fin a m e]
    let y := sumAt q [.fin b n f]
    x < y || (zeros && x == y && m == 0 && a && !b)
  | _, _ => false

/-- Whether two values that are not NaN are equal. -/
def eqF (x y : FV) : Bool := !x.isNan && !y.isNan && !ltF false x y && !ltF false y x

/-- `minimumNumber` or `maximumNumber` (R211). -/
def minmaxF (mx : Bool) (a b : W32) : W32 × Flags :=
  let x := unpackF a
  let y := unpackF b
  let fl := if x.sig || y.sig then fNV else 0
  if x.isNan && y.isNan then (defNaN, fl)
  else if x.isNan then (b, fl)
  else if y.isNan then (a, fl)
  else if mx then ((if ltF true x y then b else a), fl)
  else ((if ltF true y x then b else a), fl)

/-- The outcome of a comparison and its flags (R211). -/
def cmpF (c : BitVec 3) (a b : W32) : Bool × Flags :=
  let x := unpackF a
  let y := unpackF b
  let un := x.isNan || y.isNan
  let sig := x.sig || y.sig
  let fl := match c.toNat with
    | 2 => un | 3 => un | 4 => un | 5 => un | _ => sig
  let r := match c.toNat with
    | 0 => eqF x y
    | 1 => un || !eqF x y
    | 2 => !un && ltF false x y
    | 3 => !un && !ltF false y x
    | 4 => !un && ltF false y x
    | 5 => !un && !ltF false x y
    | 6 => un
    | _ => !un
  (r, if fl then fNV else 0)

/-- The class mask (R214). -/
def classF (a : W32) : Nat :=
  let frac := (a.extractLsb' 0 23).toNat
  let ex := (a.extractLsb' 23 8).toNat
  match unpackF a with
  | .nan s => if s then 2 ^ 8 else 2 ^ 9
  | .inf n => if n then 2 ^ 0 else 2 ^ 7
  | .fin n m _ =>
    if m = 0 then (if n then 2 ^ 3 else 2 ^ 4)
    else if ex = 0 && frac != 0 then (if n then 2 ^ 2 else 2 ^ 5)
    else (if n then 2 ^ 1 else 2 ^ 6)

/-- A value rounded to an integer: the magnitude, and whether it differs. -/
def toIntMag (rm : BitVec 3) (neg : Bool) (m : Nat) (e : Int) : Nat × Bool := quantise rm neg m e 0

/-- `frnd` (R214). -/
def rndF (rm : BitVec 3) (p : Nat) (a : W32) : W32 × Flags :=
  match unpackF a with
  | .nan s => (defNaN, if s then fNV else 0)
  | .inf n => (infF n, 0)
  | .fin n m e => if m = 0 || 0 ≤ e then (a, 0) else ((roundF rm p n (toIntMag rm n m e).1 0).1, 0)

/-- `ffrac` (R214): a − floor(a), rounded; never 1.0, and +0 for an integral value. -/
def fracF (rm : BitVec 3) (p : Nat) (a : W32) : W32 × Flags :=
  match unpackF a with
  | .nan s => (defNaN, if s then fNV else 0)
  | .inf _ => (defNaN, fNV)
  | .fin n m e =>
    if m = 0 || 0 ≤ e then (0, 0)
    else
      let d := 2 ^ (-e).toNat
      let r := if n then (d - m % d) % d else m % d
      if r = 0 then (0, 0)
      else
        let y := roundF rm p false r e
        if y.1 = 0x3F800000 then (BitVec.ofNat 32 (0x3F800000 - 2 ^ (24 - p)), y.2) else y

/-- `fscale` (R214): a × 2^b rounded once. A scale beyond ±1000 gives the result of ±1000: every non-zero FP32 value has
then overflowed, or lies below half the least subnormal. -/
def scaleF (rm : BitVec 3) (p : Nat) (a : W32) (b : Int) : W32 × Flags :=
  match unpackF a with
  | .nan s => (defNaN, if s then fNV else 0)
  | .inf n => (infF n, 0)
  | .fin n m e => roundF rm p n m (e + clampI (-1000) 1000 b)

/-! ### The functions whose bits the manual does not give (R213, log 10) -/

/-- The integer that a finite value is, if it is one. -/
def intOf (neg : Bool) (m : Nat) (e : Int) : Option Int :=
  let v := if 0 ≤ e then some (m * 2 ^ (min e 200).toNat) else if m % 2 ^ (-e).toNat = 0 then some (m / 2 ^ (-e).toNat) else none
  v.map fun k => if neg then -(k : Int) else (k : Int)

/-- The exponent of a power of two. -/
def pow2Of (m : Nat) (e : Int) : Option Int :=
  if m = 2 ^ Nat.log2 m then some (e + (Nat.log2 m : Int)) else none

/-- 2^k as a binary32 pattern, for k in −149 to 127. -/
def pow2F (k : Int) : W32 := (roundF 0 24 false 1 k).1

/-- A pattern held between two patterns of positive numbers. -/
def clampPat (lo hi x : W32) : W32 := if x.toNat < lo.toNat then lo else if hi.toNat < x.toNat then hi else x

/-- `frsq`: exact for 4^k, else one of the two neighbours of 1/√a, each within 1 ulp; which one is free. -/
def frsqF (a : W32) : W32 × Flags :=
  match unpackF a with
  | .nan s => (defNaN, if s then fNV else 0)
  | .inf n => if n then (defNaN, fNV) else (0, 0)
  | .fin n m e =>
    if m = 0 then (infF n, fDZ)
    else if n then (defNaN, fNV)
    else match pow2Of m e with
      | some k => if k % 2 = 0 then (pow2F (-(k / 2)), 0) else (frsqNear m e (Config.frsqUp a), fNX)
      | none => (frsqNear m e (Config.frsqUp a), fNX)
where
  /-- The neighbour below or above 1/√(m × 2^e). -/
  frsqNear (m : Nat) (e : Int) (up : Bool) : W32 :=
    let m' := if e % 2 = 0 then m else 2 * m
    let e' := if e % 2 = 0 then e else e - 1
    let q := 2 ^ 160 / m'
    let r := isqrtFrom q 0 80
    (roundF (if up then 3 else 1) 24 false (2 * r + 1) (-(e' / 2) - 81)).1

/-- π × 2^320 and ln 2 × 2^128, rounded down. -/
abbrev piC : Nat := 0x3243f6a8885a308d313198a2e03707344a4093822299f31d0082efa98ec4e6c89452821e638d01377
abbrev ln2C : Nat := 0xb17217f7d1cf79abc9e3b39803f2f6af

/-- The free pattern `x` where it lies within `tol` of V, both scaled by 2^q, and V rounded to nearest where it does not.
`q` is at least 149, so that every finite pattern scales to an integer. -/
def heldF (x : W32) (v : Int) (q tol : Nat) : W32 :=
  let near := (roundF 0 24 (decide (v < 0)) v.natAbs (-(q : Int))).1
  match unpackF x with
  | .fin n m e =>
    let y : Int := (m * 2 ^ (e + q).toNat : Nat)
    if ((if n then -y else y) - v).natAbs ≤ tol then x else near
  | _ => near

/-- The flags of a result that differs from the exact value (R98). -/
def inexactF (r : W32) : Flags := if r &&& 0x7F800000 = 0 then fUF ||| fNX else fNX

/-- The sum of the series of which `term` is the `i`th term and each next one is the last times y over `i + 1`, scaled by 2^128. -/
def expSum (y : Nat) : Nat → Nat → Nat → Nat
  | 0, _, _ => 0
  | n + 1, i, term => term + expSum y n (i + 1) (term * y / 2 ^ 128 / (i + 1))

/-- The alternating series in y², scaled by 2^128. -/
def trigSum (y2 : Int) : Nat → Nat → Int → Int
  | 0, _, _ => 0
  | n + 1, i, term => term + trigSum y2 n (i + 2) (-(term * y2 / 2 ^ 128) / (((i + 1) * (i + 2) : Nat) : Int))

/-- The first `n` bits of the binary logarithm of t/2^128, for t/2^128 in [1, 2). -/
def log2Bits : Nat → Nat → Nat → Nat
  | 0, _, acc => acc
  | n + 1, t, acc =>
    let u := t * t / 2 ^ 128
    if 2 ^ 129 ≤ u then log2Bits n (u / 2) (2 * acc + 1) else log2Bits n u (2 * acc)

/-- 2^(k + f/2^128) × 2^300, for k from −149. -/
def exp2At (k : Int) (f : Nat) : Nat := expSum (f * ln2C / 2 ^ 128) 40 0 (2 ^ 128) * 2 ^ (172 + k).toNat

/-- `fexp2`: exact for an integer with a representable result; else free, within 2 ulp. -/
def fexp2F (a : W32) : W32 × Flags :=
  match unpackF a with
  | .nan s => (defNaN, if s then fNV else 0)
  | .inf n => if n then (0, 0) else (infF false, 0)
  | .fin n m e =>
    match intOf n m e with
    | some k =>
      if k < -149 then (clampPat 0 2 (Config.fexp2 a), fUF ||| fNX)
      else if 128 ≤ k then (infF false, fOF ||| fNX)
      else (pow2F k, 0)
    | none =>
      let d := 2 ^ (-e).toNat
      let fl : Nat := m / d
      if !n && 128 ≤ fl then (infF false, fOF ||| fNX)
      else
        let k : Int := if n then -(fl : Int) - 1 else (fl : Int)
        let f := m % d * 2 ^ 128 / d
        if k < -149 then (clampPat 0 2 (Config.fexp2 a), fUF ||| fNX)
        else
          let r := heldF (Config.fexp2 a) (exp2At k (if n then 2 ^ 128 - f else f)) 300 (2 ^ (max (k - 23) (-149) + 301).toNat)
          (r, inexactF r)

/-- `flog2`: exact for a power of two; else free, within 2^−22 for inputs from 0.5 to 2 and within 2 ulp elsewhere. -/
def flog2F (a : W32) : W32 × Flags :=
  match unpackF a with
  | .nan s => (defNaN, if s then fNV else 0)
  | .inf n => if n then (defNaN, fNV) else (infF false, 0)
  | .fin n m e =>
    if m = 0 then (infF true, fDZ)
    else if n then (defNaN, fNV)
    else match pow2Of m e with
      | some k => ((roundF 0 24 (decide (k < 0)) k.natAbs 0).1, 0)
      | none =>
        let l := Nat.log2 m
        let v : Int := (e + (l : Int)) * 2 ^ 149 + ((log2Bits 60 (m * 2 ^ (128 - l)) 0 * 2 ^ 89 : Nat) : Int)
        let r := heldF (Config.flog2 a) v 149 (if e + (l : Int) = -1 ∨ e + (l : Int) = 0 then 2 ^ 127 else 2 ^ (Nat.log2 v.natAbs - 22))
        (r, inexactF r)

/-- The sine or cosine of (-1)^n × m × 2^e, scaled by 2^149: the input less a multiple of 2π, less π. -/
def trigAt (cos n : Bool) (m : Nat) (e : Int) : Int :=
  let y : Int := (((m * 2 ^ (e + 320).toNat % (2 * piC) : Nat) : Int) - (piC : Int)) / 2 ^ 192
  let y2 := y * y / 2 ^ 128
  let v := if cos then trigSum y2 20 0 (2 ^ 128) else trigSum y2 20 1 y
  (if n && !cos then v else -v) * 2 ^ 21

/-- `fsin`: free, within 2^−21. -/
def fsinF (a : W32) : W32 × Flags :=
  match unpackF a with
  | .nan s => (defNaN, if s then fNV else 0)
  | .inf _ => (defNaN, fNV)
  | .fin n m e =>
    if m = 0 then (a, 0)
    else
      let r := heldF (Config.fsin a) (trigAt false n m e) 149 (2 ^ 128)
      (r, inexactF r)

/-- `fcos`: free, within 2^−21. -/
def fcosF (a : W32) : W32 × Flags :=
  match unpackF a with
  | .nan s => (defNaN, if s then fNV else 0)
  | .inf _ => (defNaN, fNV)
  | .fin n m e =>
    if m = 0 then (0x3F800000, 0)
    else
      let r := heldF (Config.fcos a) (trigAt true n m e) 149 (2 ^ 128)
      (r, inexactF r)

/-! ### BF16 (R100) -/

/-- The FP32 pattern of a BF16 value. -/
def bfUp (x : BitVec 16) : W32 := (x ++ 0#16 : BitVec (16 + 16))

/-- Element `k` of a BF16X2 lane, as an FP32 pattern. -/
def bfEl (x : W32) (k : Nat) : W32 := bfUp (x.extractLsb' (16 * k) 16)

/-- The lane of two BF16 values held as FP32 patterns. -/
def bfPair (lo hi : W32) : W32 := (hi.extractLsb' 16 16 ++ lo.extractLsb' 16 16 : BitVec (16 + 16))

/-- An FP32 result rounded to BF16 by RNE, its flags kept (R213). -/
def toBf (r : W32 × Flags) : W32 × Flags :=
  let y := packF 0 8 (unpackF r.1)
  (y.1, r.2 ||| y.2)

/-! ### Narrow formats (R102 to R108) -/

/-- A narrow floating format: mantissa bits, exponent bits, bias, whether the top exponent holds infinities and NaNs
(E5M2), whether the top code alone is NaN (E4M3), and the largest finite code. -/
structure NFmt where
  mb : Nat
  eb : Nat
  bias : Nat
  ieee : Bool
  topNan : Bool
  maxCode : Nat
  deriving DecidableEq, Repr

/-- FP8 E4M3. -/
def fmtE4M3 : NFmt := ⟨3, 4, 7, false, true, 0x7E⟩
/-- FP8 E5M2. -/
def fmtE5M2 : NFmt := ⟨2, 5, 15, true, false, 0x7B⟩
/-- FP6 E3M2. -/
def fmtE3M2 : NFmt := ⟨2, 3, 3, false, false, 0x1F⟩
/-- FP6 E2M3. -/
def fmtE2M3 : NFmt := ⟨3, 2, 1, false, false, 0x1F⟩
/-- FP4 E2M1. -/
def fmtE2M1 : NFmt := ⟨1, 2, 1, false, false, 0x7⟩

/-- The narrow floating format of a TYPE code 0x10 to 0x14 (R141). -/
def nfmtOf (ty : BitVec 5) : NFmt :=
  match ty.toNat with
  | 0x10 => fmtE4M3 | 0x11 => fmtE5M2 | 0x12 => fmtE3M2 | 0x13 => fmtE2M3 | _ => fmtE2M1

/-- The value of a narrow code (R102). -/
def unpackN (f : NFmt) (c : Nat) : FV :=
  let mant := c % 2 ^ f.mb
  let ex := c / 2 ^ f.mb % 2 ^ f.eb
  let neg := bitN c (f.mb + f.eb)
  if f.ieee && ex == 2 ^ f.eb - 1 then (if mant = 0 then .inf neg else .nan false)
  else if f.topNan && ex == 2 ^ f.eb - 1 && mant == 2 ^ f.mb - 1 then .nan false
  else if ex = 0 then .fin neg mant (1 - (f.bias : Int) - f.mb)
  else .fin neg (mant + 2 ^ f.mb) ((ex : Int) - f.bias - f.mb)

/-- The exact FP32 pattern of a narrow code (R106). -/
def widenN (f : NFmt) (c : Nat) : W32 := (packF 0 24 (unpackN f c)).1

/-- An FP32 value narrowed to a floating format (R107): the code and the flags. -/
def narrowF (f : NFmt) (rm : BitVec 3) (x : W32) : Nat × Flags :=
  let sgn (neg : Bool) (c : Nat) : Nat := if neg then c + 2 ^ (f.mb + f.eb) else c
  let emin : Int := 1 - (f.bias : Int)
  match unpackF x with
  | .nan s => if f.topNan || f.ieee then (if f.topNan then 2 ^ (f.mb + f.eb) - 1 else 0x7F, if s then fNV else 0) else (0, fNV)
  | .inf n => (sgn n f.maxCode, fOF ||| fNX)
  | .fin n m e =>
    if m = 0 then (sgn n 0, 0)
    else
      let q := lastPlace (f.mb + 1) emin m e
      let r := quantise rm n m e q
      let k := if r.1 = 2 ^ (f.mb + 1) then 2 ^ f.mb else r.1
      let q' := if r.1 = 2 ^ (f.mb + 1) then q + 1 else q
      let c := if k < 2 ^ f.mb then k else (q' + f.mb - emin + 1).toNat * 2 ^ f.mb + (k - 2 ^ f.mb)
      if f.maxCode < c then (sgn n f.maxCode, fOF ||| fNX)
      else (sgn n c, if r.2 then (if ltF false (.fin false m e) (.fin false 1 emin) then fUF ||| fNX else fNX) else 0)

/-- An FP32 value rounded to an integer and saturated to a `w`-bit type (R108, R215): the pattern and the flags. -/
def f2i (rm : BitVec 3) (signed : Bool) (w : Nat) (x : W32) : Nat × Flags :=
  match unpackF x with
  | .nan _ => (0, fNV)
  | .inf n => (truncI (if n then (rangeI signed w).1 else (rangeI signed w).2) w, fNV)
  | .fin n m e =>
    let r := toIntMag rm n m e
    let i : Int := if n then -(r.1 : Int) else r.1
    let s := satI signed w i
    (truncI s w, if s ≠ i then fNV else if r.2 then fNX else 0)

/-- An integer as FP32 (R215). -/
def i2f (rm : BitVec 3) (i : Int) : W32 × Flags := roundF rm 24 (decide (i < 0)) i.natAbs 0

end Sys2Proof.Machine
end

