-- ==== Sys2Proof/Machine/Atomic.lean ====
section
/-! DEFINITION. The types of memory instructions (R141, R161), what an atomic writes (R179), and what an update of a count barrier makes of
its object (R81, R194). -/

namespace Sys2Proof.Machine

/-- Bits of an element of a TYPE (R161). -/
def tyBits (ty : BitVec 5) : Nat :=
  match ty.toNat with
  | 0x00 => 8 | 0x01 => 16 | 0x02 => 32 | 0x03 => 64 | 0x04 => 8 | 0x05 => 16 | 0x06 => 32 | 0x07 => 64
  | 0x08 => 8 | 0x09 => 16 | 0x0A => 32 | 0x0B => 64 | 0x0C => 128 | 0x0D => 32 | 0x0E => 32
  | 0x10 => 8 | 0x11 => 8 | 0x12 => 6 | 0x13 => 6 | 0x14 => 4 | 0x15 => 8 | _ => 4

/-- A type that loads sign-extend. -/
def tySigned (ty : BitVec 5) : Bool := ty.toNat ≤ 3

/-- The alignment of a type in bytes (R161). -/
def tyAlign (ty : BitVec 5) : Nat := if tyBits ty < 8 then 1 else tyBits ty / 8

/-- The class of an atomic (R179): 0 A, 1 B, 2 C. -/
def aopClass (aop : BitVec 3) (ty : BitVec 5) : Nat := if aop.toNat < 2 then 0 else if ty = 0x0D then 2 else 1

/-- The new memory value of an atomic (R179). -/
def aopNew (aop : BitVec 3) (ty : BitVec 5) (old op cmp : Nat) : Nat :=
  let w := tyBits ty
  let lt := fun (a b : Nat) => decide (readI (tySigned ty) a w < readI (tySigned ty) b w)
  match aop.toNat with
  | 0 => op
  | 1 => if old = cmp then op else old
  | 2 => if ty = 0x0D then (addF 0 24 (BitVec.ofNat 32 old) (BitVec.ofNat 32 op)).1.toNat else (old + op) % 2 ^ w
  | 3 => if lt op old then op else old
  | 4 => if lt old op then op else old
  | 5 => old &&& op
  | 6 => old ||| op
  | _ => old ^^^ op

/-! ### Count barriers (R81) -/

/-- A barrier object's fields. -/
structure CBar where
  arrived : Nat
  expected : Nat
  phase : Bool
  err : Bool
  flips : Nat
  rest : Nat
  deriving DecidableEq, Repr

/-- The object that 32 bytes hold. -/
def cbarOf (v : Nat) : CBar := ⟨fieldN v 128 64, fieldN v 64 64, bitN v 63, bitN v 62, fieldN v 0 32, fieldN v 32 30⟩

/-- An object's low 24 bytes; the engine preserves the rest. -/
def CBar.bits (b : CBar) : Nat :=
  b.flips % 2 ^ 32 + b.rest * 2 ^ 32 + (if b.err then 2 ^ 62 else 0) + (if b.phase then 2 ^ 63 else 0) + b.expected * 2 ^ 64 + b.arrived * 2 ^ 128

/-- A flip of the phase. -/
def CBar.flip (b : CBar) : CBar := { b with phase := !b.phase, flips := (b.flips + 1) % 2 ^ 32 }

/-- The flip that a full phase takes. -/
def CBar.run (b : CBar) : CBar :=
  if b.expected ≠ 0 ∧ b.expected ≤ b.arrived then { b with arrived := b.arrived - b.expected }.flip else b

/-- An arrival of `n` bytes. -/
def CBar.arrive (b : CBar) (n : Nat) : CBar := { b with arrived := (b.arrived + n) % 2 ^ 64 }.run

/-- An error close. -/
def CBar.close (b : CBar) : CBar := { b with err := true, arrived := 0 }.flip

/-- Arming (R194): EXPECTED is set and ERR cleared, and a phase that is full then flips. -/
def CBar.arm (b : CBar) (n : Nat) : CBar := { b with expected := n % 2 ^ 64, err := false }.run

/-- What one update makes of an object: 0 an arrival, 1 an error close, 2 arming. -/
def CBar.update (b : CBar) (k n : Nat) : CBar := if k = 0 then b.arrive n else if k = 1 then b.close else b.arm n

end Sys2Proof.Machine
end

