-- ==== Sys2Proof/Syntax.lean ====
section
/-! DEFINITION. The steps of the D40: one constructor of `Instr` for each row of the opcode table. Rows 0 to 126 are
full-form instructions, 127 to 173 pair words named by their slot A, 174 to 293 the hardware's own steps and the
outside world's events. -/

namespace Sys2Proof

/-! ### Operand forms -/

/-- The guard of a full word: predicate and negation (R138). -/
structure Gd where
  prd : BitVec 4
  png : Bool
  deriving DecidableEq, Repr

/-- The head of an arithmetic word: guard and U form (R139). -/
structure Hd where
  prd : BitVec 4
  png : Bool
  u : Bool
  deriving DecidableEq, Repr

/-- A shaped SB (R136), with the value of a kind-0 prefix in place of the immediate (R148). -/
inductive Src where
  /-- SHAPE 0b00. -/
  | reg (n : BitVec 10)
  /-- SHAPE 0b01. -/
  | sreg (n : BitVec 10)
  /-- SHAPE 0b10. -/
  | nic (n : BitVec 10)
  /-- SHAPE 0b11: the immediate of SB and SC. -/
  | imm (v : BitVec 20)
  /-- SHAPE 0b11 behind a kind-0 prefix. -/
  | wide (v : BitVec 48)
  deriving DecidableEq, Repr

/-- An immediate: the 20 bits of the word or the 48 of a kind-0 prefix. -/
inductive Imm where
  | i20 (v : BitVec 20)
  | i48 (v : BitVec 48)
  deriving DecidableEq, Repr

/-- The offset of a memory access (R160): an index register, the 10-bit OFF, or a kind-0 prefix. -/
inductive MOff where
  | idx (n : BitVec 10)
  | off (v : BitVec 10)
  | wide (v : BitVec 48)
  deriving DecidableEq, Repr

/-- The bank permutation mode of a kind-1 prefix (R149), if one precedes. -/
abbrev Bpm := Option (BitVec 4)

/-! ### Pair slots (R143, R146) -/

/-- The pair opcodes, in the order of R146. -/
inductive Pop where
  | pnop | iadd | isub | imul | iminI | imaxI | iminN | imaxN | ineg | iabs | and | or | xor | not
  | shlImm | shrLImm | shrAImm | rotImm | shl | shrL | shrA | popc | clz | ctz | bfrev | mov | movi | movx
  | faddF | fsubF | fmulF | fminF | fmaxF | faddB | fsubB | fmulB | fminB | fmaxB | pack | unpk
  | cvtFI | cvtFN | cvtIF | cvtNF | icmpI | icmpN | fcmpF
  deriving DecidableEq, Repr

/-- The fields of one slot but its opcode: PPRD, PDST, PSRC, PMOD. -/
structure SlotArgs where
  prd : BitVec 3
  d : BitVec 8
  s : BitVec 8
  m : BitVec 6
  deriving DecidableEq, Repr

/-- One slot of a pair word. -/
structure Slot where
  op : Pop
  a : SlotArgs
  deriving DecidableEq, Repr

/-! ### What an event carries -/

/-- An Nderal message (R298). `txid`, `arg` and the rest are the header's fields; `req` is the die that a snoop's data
go to and `toSlice` marks the junction's leg to the home slice, which R298 gives no bits for (log 20). -/
structure Msg where
  dst : Nat
  src : Nat
  hops : Nat
  txid : Nat
  mir : Bool
  pri : Bool
  la : Nat
  arg : BitVec 46
  /-- Lines carried, each with its byte mask (all ones in an unmasked message). -/
  lines : List (BitVec 64 × LineData)
  req : Nat
  toSlice : Bool
  /-- The die where the message stands. -/
  at_ : Nat
  /-- The port of that die whose buffer holds it, if it came over one (R300). -/
  buf : Option Nat
  /-- The asker's number, under which its data are sent (R298). -/
  rtx : Nat
  deriving DecidableEq, Repr

/-- Message opcodes (R299). -/
inductive Mop where
  | rds | rdx | upg | wbd | evc | rdu | wru | atu | snpf | snpi | snpfi | recall
  | grant | ack | retry | err | gone | mirack | data | datam | mirror | remrd | remwr | remat | remrsp
  | disc | discr | shoot | shoota | probe | jfail | census | report
  deriving DecidableEq, Repr

/-- What a walk is for (R34). -/
inductive Acc where
  | load | store | fetch
  /-- An atomic of a class A, B or C (0, 1, 2), and whether its scope is `sys`. -/
  | atomic (cls : Nat) (sys : Bool)
  deriving DecidableEq, Repr

/-- A walk request: the die that walks, the context, the space's low bits, the address, the purpose. -/
structure WalkReq where
  die : Nat
  pasid : BitVec 20
  spc : BitVec 3
  va : BitVec 57
  acc : Acc
  deriving DecidableEq, Repr

/-- A host request of CXL.mem at a device line (R273, R309): a read, or a write of the masked bytes. -/
structure HostReq where
  la : Nat
  write : Bool
  mask : BitVec 64
  data : LineData
  deriving DecidableEq, Repr

/-- The place of an uncorrectable error (R430). -/
inductive UePlace where
  /-- A word in a memory line: HBM4E, an L2 slice or the cache part of a cluster store. -/
  | line (la : Nat)
  /-- An aligned 8-byte word of a scratchpad, by cluster and physical offset. -/
  | scratch (cl off : Nat)
  /-- An aligned 8-byte word of a vault, by vault and offset. -/
  | vault (vt off : Nat)
  | vreg (t : Nat) (n : BitVec 10)
  | sreg (t : Nat) (n : BitVec 6)
  | tile (t : Nat) (n : BitVec 6)
  deriving DecidableEq, Repr

/-- What an SPDM request asks for (R426). -/
inductive Spdm where
  | identity | imageDigest | maquetteDigest
  deriving DecidableEq, Repr

/-! ### The table -/

/-- One constructor for each row of the opcode table, in its order. -/
inductive Instr where
  -- control, synchronisation, system (R329)
  | nop (g : Gd)
  | bra (g : Gd) (ck : BitVec 2) (sa : BitVec 10) (off : Imm)
  | bri (g : Gd) (uni : Bool) (sb : BitVec 10)
  | call (dst : BitVec 10) (sb : Src)
  | ret (sa : BitVec 10)
  | exit (g : Gd)
  | mark (kind : BitVec 2) (off : Imm)
  | merge
  | brk (g : Gd)
  | cont (g : Gd)
  | regang
  | join (g : Gd) (dst : BitVec 10) (sb : Src)
  | leave (g : Gd) (sb : Src)
  | bar (g : Gd) (dst : BitVec 10) (sb : Src) (red : Bool) (rop : BitVec 3) (rty : BitVec 2) (sc : BitVec 10)
  | elect (g : Gd) (dst : BitVec 10)
  | trapUser (g : Gd) (imm : Imm)
  | trapBkpt (g : Gd) (imm : Imm)
  | rett (sa : BitVec 10) (skip : Bool)
  | svc (g : Gd) (dst sa : BitVec 10) (sb : Src) (sc : BitVec 10)
  | spawn (dst sa : BitVec 10) (sb : Src)
  | mwatch (sa : BitVec 10)
  | msleep (dst : BitVec 10) (sb : Src)
  | pause (sb : Src)
  | csrr (dst : BitVec 10) (num : Imm)
  | csrw (sa : BitVec 10) (num : Imm)
  | nw (dst sa : BitVec 10) (sb : Src) (w vs : Bool)
  | nrPeek (dst sa : BitVec 10)
  | nrTake (dst sa : BitVec 10)
  | nred (g : Gd) (dst sa : BitVec 10) (gop gty : BitVec 3)
  | nctlGather (dst : BitVec 10) (sb : Src) (gop gty : BitVec 3)
  | nctlBcast (dst : BitVec 10) (sb : Src)
  | nctlEmpty (dst : BitVec 10) (sb : Src)
  | hsr (dst : BitVec 10) (sb : Src)
  | hsw (sa : BitVec 10) (sb : Src)
  -- integer and bit (R199)
  | iadd (h : Hd) (dst sa : BitVec 10) (sb : Src) (it cy : BitVec 2) (cp : BitVec 3)
  | isub (h : Hd) (dst sa : BitVec 10) (sb : Src) (it cy : BitVec 2) (cp : BitVec 3)
  | imul (h : Hd) (dst sa : BitVec 10) (sb : Src) (it hw : BitVec 2)
  | imad (h : Hd) (dst sa : BitVec 10) (sb : Src) (sc : BitVec 10) (it hw : BitVec 2)
  | idiv (h : Hd) (dst sa : BitVec 10) (sb : Src) (it : BitVec 2) (rem : Bool)
  | imin (h : Hd) (dst sa : BitVec 10) (sb : Src) (it : BitVec 2)
  | imax (h : Hd) (dst sa : BitVec 10) (sb : Src) (it : BitVec 2)
  | iabs (h : Hd) (dst sa : BitVec 10) (it : BitVec 2) (sat : Bool)
  | ineg (h : Hd) (dst sa : BitVec 10) (it : BitVec 2) (sat : Bool)
  | icmp (h : Hd) (dst sa : BitVec 10) (sb : Src) (it : BitVec 2) (cmp : BitVec 3)
  | idp4 (h : Hd) (dst sa : BitVec 10) (sb : Src) (sc : BitVec 10) (pk : BitVec 2) (sat : Bool)
  | lea (h : Hd) (dst sa : BitVec 10) (sb : Src) (w : BitVec 2) (sh : BitVec 5)
  | and (h : Hd) (dst sa : BitVec 10) (sb : Src) (w : BitVec 2)
  | or (h : Hd) (dst sa : BitVec 10) (sb : Src) (w : BitVec 2)
  | xor (h : Hd) (dst sa : BitVec 10) (sb : Src) (w : BitVec 2)
  | not (h : Hd) (dst sa : BitVec 10) (w : BitVec 2)
  | shl (h : Hd) (dst sa : BitVec 10) (sb : Src) (w : BitVec 2)
  | shr (h : Hd) (dst sa : BitVec 10) (sb : Src) (w : BitVec 2) (a : Bool)
  | rot (h : Hd) (dst sa : BitVec 10) (sb : Src) (w : BitVec 2)
  | bfe (h : Hd) (dst sa : BitVec 10) (sb : Src) (sc : BitVec 10) (w : BitVec 2) (sx : Bool)
  | bfi (h : Hd) (dst sa : BitVec 10) (sb : Src) (sc : BitVec 10) (w : BitVec 2)
  | bfrev (h : Hd) (dst sa : BitVec 10) (w : BitVec 2)
  | bcnt (h : Hd) (dst sa : BitVec 10) (w bop : BitVec 2)
  | sad (h : Hd) (dst sa : BitVec 10) (sb : Src) (sc : BitVec 10) (pk : BitVec 2) (sat : Bool)
  -- moves and predicates (R205 to R208)
  | mov (h : Hd) (dst : BitVec 10) (sb : Src) (w : BitVec 2)
  | movi (h : Hd) (dst : BitVec 10) (imm : Imm) (mt : BitVec 3)
  | sel (g : Gd) (dst sa : BitVec 10) (sb : Src) (sc : BitVec 10)
  | movx (g : Gd) (dst sa : BitVec 10) (tag : BitVec 4)
  | plog (g : Gd) (dst sa sb : BitVec 10) (lut : BitVec 4)
  | pmov (g : Gd) (dst sa : BitVec 10) (dir : BitVec 2)
  | sreg (g : Gd) (dst : BitVec 10) (sel : BitVec 4)
  -- floating point (R209)
  | fadd (h : Hd) (dst sa : BitVec 10) (sb : Src) (bf : Bool) (rnd : BitVec 3)
  | fsub (h : Hd) (dst sa : BitVec 10) (sb : Src) (bf : Bool) (rnd : BitVec 3)
  | fmul (h : Hd) (dst sa : BitVec 10) (sb : Src) (bf : Bool) (rnd : BitVec 3)
  | fma (h : Hd) (dst sa : BitVec 10) (sb : Src) (sc : BitVec 10) (bf : Bool) (rnd : BitVec 3)
  | fmin (h : Hd) (dst sa : BitVec 10) (sb : Src) (bf : Bool)
  | fmax (h : Hd) (dst sa : BitVec 10) (sb : Src) (bf : Bool)
  | fcmp (h : Hd) (dst sa : BitVec 10) (sb : Src) (bf : Bool) (cmp : BitVec 3)
  | frcp (h : Hd) (dst sa : BitVec 10) (bf : Bool) (rnd : BitVec 3)
  | frsq (h : Hd) (dst sa : BitVec 10) (bf : Bool)
  | fsqrt (h : Hd) (dst sa : BitVec 10) (bf : Bool) (rnd : BitVec 3)
  | fexp2 (h : Hd) (dst sa : BitVec 10) (bf : Bool)
  | flog2 (h : Hd) (dst sa : BitVec 10) (bf : Bool)
  | fsin (h : Hd) (dst sa : BitVec 10) (bf : Bool)
  | fcos (h : Hd) (dst sa : BitVec 10) (bf : Bool)
  | fdiv (h : Hd) (dst sa : BitVec 10) (sb : Src) (bf : Bool) (rnd : BitVec 3)
  | frnd (h : Hd) (dst sa : BitVec 10) (bf : Bool) (rnd : BitVec 3)
  | fclass (h : Hd) (dst sa : BitVec 10) (bf : Bool)
  | fscale (h : Hd) (dst sa : BitVec 10) (sb : Src) (bf : Bool) (rnd : BitVec 3)
  | ffrac (h : Hd) (dst sa : BitVec 10) (bf : Bool) (rnd : BitVec 3)
  | fdot2 (h : Hd) (dst sa : BitVec 10) (sb : Src) (sc : BitVec 10) (rnd : BitVec 3)
  -- conversions (R215 to R217)
  | cvt (h : Hd) (dst sa : BitVec 10) (cv : BitVec 4) (rnd : BitVec 3)
  | pack (h : Hd) (dst sa : BitVec 10) (sb : Src) (pk rnd : BitVec 3)
  | unpk (h : Hd) (dst sa : BitVec 10) (uk : BitVec 3) (el : BitVec 2)
  -- lanes (R219 to R223)
  | vote (g : Gd) (dst sa : BitVec 10) (vop : BitVec 2)
  | shfl (g : Gd) (dst sa : BitVec 10) (sb : Src) (segl : BitVec 3) (sop : BitVec 2)
  | prmt (g : Gd) (dst sa : BitVec 10) (sb : Src) (sc : BitVec 10)
  | redg (g : Gd) (dst sa : BitVec 10) (rop : BitVec 3) (rty : BitVec 2) (rnd : BitVec 3)
  | scan (g : Gd) (dst sa : BitVec 10) (rop : BitVec 3) (rty : BitVec 2) (rnd : BitVec 3) (excl : Bool)
  | matchv (g : Gd) (dst sa : BitVec 10) (mop : Bool)
  -- memory (R158)
  | ld (g : Gd) (dst sa : BitVec 10) (off : MOff) (scope pol : BitVec 3) (now : Bool) (ord : BitVec 3) (ty : BitVec 5) (bpm : Bpm)
  | st (g : Gd) (dst sa : BitVec 10) (off : MOff) (scope pol rnd ord : BitVec 3) (ty : BitVec 5) (bpm : Bpm)
  | sld (dst sa : BitVec 10) (off : MOff) (scope pol : BitVec 3) (now : Bool) (ord : BitVec 3) (ty : BitVec 5) (bpm : Bpm)
  | sst (dst sa : BitVec 10) (off : MOff) (scope pol ord : BitVec 3) (ty : BitVec 5) (bpm : Bpm)
  | atom (g : Gd) (dst sa : BitVec 10) (off : MOff) (scope aop ord : BitVec 3) (ty : BitVec 5) (bpm : Bpm)
  | satom (dst sa : BitVec 10) (off : MOff) (scope aop ord : BitVec 3) (ty : BitVec 5) (bpm : Bpm)
  | srel (dst sa : BitVec 10) (off : MOff) (scope : BitVec 3) (fresh : Bool) (sop : BitVec 2) (w : Bool)
  | sacq (dst sa : BitVec 10) (off : MOff) (scope : BitVec 3) (clr w : Bool)
  | fence (scope ord : BitVec 3)
  | wait (ldn stn cpn mxn : BitVec 6)
  | prf (g : Gd) (sa : BitVec 10) (off : MOff) (lvl : Bool)
  | cmoWb (g : Gd) (sa : BitVec 10) (off : MOff) (scope : BitVec 3)
  | cmoWbinv (g : Gd) (sa : BitVec 10) (off : MOff) (scope : BitVec 3)
  | cmoIinv (g : Gd) (sa : BitVec 10) (off : MOff) (scope : BitVec 3)
  | dcf (sa sb : BitVec 10) (scope : BitVec 3)
  | pclr (dst sa sb : BitVec 10)
  | cbarWait (dst sa sb : BitVec 10) (scope : BitVec 3)
  | cbarTest (dst sa sb : BitVec 10) (scope : BitVec 3)
  | cbarArm (sa sb : BitVec 10) (scope : BitVec 3)
  | cbarArrive (sa sb : BitVec 10) (scope : BitVec 3)
  | cpq (sa sb : BitVec 10) (ch : BitVec 3)
  -- matrix and tile (R224)
  | tcfg (dst : BitVec 10) (sb : Src) (zm : Bool)
  | trel
  | tzero (dst : BitVec 10) (cnt : BitVec 6)
  | mma (dst sa sb : BitVec 10) (rnd : BitVec 3) (sca scb : Bool) (nb : BitVec 5) (kb : BitVec 2) (x3 : Bool) (ty : BitVec 5)
  | tld (dst sa : BitVec 10) (off : MOff) (pol : BitVec 3) (sc : BitVec 6) (now : Bool) (ty : BitVec 5)
  | tst (dst sa : BitVec 10) (off : MOff) (pol : BitVec 3) (sc : BitVec 6) (rnd : BitVec 3) (ty : BitVec 5)
  | tmovTov (dst sa : BitVec 10)
  | tmovFromv (dst sa : BitVec 10)
  | tmovTot (dst sa : BitVec 10)
  | mbat (dst : BitVec 10)
  | mwait (dst : BitVec 10) (all : Bool) (sb : Src)
  | tscl (dst sa : BitVec 10) (sb : Src) (sc : BitVec 10) (relu : Bool) (rnd : BitVec 3)
  -- pair words, named by slot A (R146)
  | pairPnop (a : SlotArgs) (b : Slot) | pairIadd (a : SlotArgs) (b : Slot)
  | pairIsub (a : SlotArgs) (b : Slot) | pairImul (a : SlotArgs) (b : Slot)
  | pairIminI (a : SlotArgs) (b : Slot) | pairImaxI (a : SlotArgs) (b : Slot)
  | pairIminN (a : SlotArgs) (b : Slot) | pairImaxN (a : SlotArgs) (b : Slot)
  | pairIneg (a : SlotArgs) (b : Slot) | pairIabs (a : SlotArgs) (b : Slot)
  | pairAnd (a : SlotArgs) (b : Slot) | pairOr (a : SlotArgs) (b : Slot)
  | pairXor (a : SlotArgs) (b : Slot) | pairNot (a : SlotArgs) (b : Slot)
  | pairShlImm (a : SlotArgs) (b : Slot) | pairShrLImm (a : SlotArgs) (b : Slot)
  | pairShrAImm (a : SlotArgs) (b : Slot) | pairRotImm (a : SlotArgs) (b : Slot)
  | pairShl (a : SlotArgs) (b : Slot) | pairShrL (a : SlotArgs) (b : Slot)
  | pairShrA (a : SlotArgs) (b : Slot) | pairPopc (a : SlotArgs) (b : Slot)
  | pairClz (a : SlotArgs) (b : Slot) | pairCtz (a : SlotArgs) (b : Slot)
  | pairBfrev (a : SlotArgs) (b : Slot) | pairMov (a : SlotArgs) (b : Slot)
  | pairMovi (a : SlotArgs) (b : Slot) | pairMovx (a : SlotArgs) (b : Slot)
  | pairFaddF (a : SlotArgs) (b : Slot) | pairFsubF (a : SlotArgs) (b : Slot)
  | pairFmulF (a : SlotArgs) (b : Slot) | pairFminF (a : SlotArgs) (b : Slot)
  | pairFmaxF (a : SlotArgs) (b : Slot) | pairFaddB (a : SlotArgs) (b : Slot)
  | pairFsubB (a : SlotArgs) (b : Slot) | pairFmulB (a : SlotArgs) (b : Slot)
  | pairFminB (a : SlotArgs) (b : Slot) | pairFmaxB (a : SlotArgs) (b : Slot)
  | pairPack (a : SlotArgs) (b : Slot) | pairUnpk (a : SlotArgs) (b : Slot)
  | pairCvtFI (a : SlotArgs) (b : Slot) | pairCvtFN (a : SlotArgs) (b : Slot)
  | pairCvtIF (a : SlotArgs) (b : Slot) | pairCvtNF (a : SlotArgs) (b : Slot)
  | pairIcmpI (a : SlotArgs) (b : Slot) | pairIcmpN (a : SlotArgs) (b : Slot)
  | pairFcmpF (a : SlotArgs) (b : Slot)
  -- issue and threads
  | issueSelect
  | pendingGangPromote
  | pauseExpire (t k : Nat)
  | msleepTimeout (t : Nat)
  -- block-transfer engine
  | copyStart (t : Nat) (ch : BitVec 3) (data : Word)
  | copyAbort (t : Nat) (ch : BitVec 3)
  | copyQuery (t : Nat) (ch : BitVec 3)
  | copySectorCommit (die cl ch : Nat)
  | copyComplete (die cl ch : Nat)
  | copyCommandDequeue (die cl ch : Nat)
  -- translation and memory
  | pageWalk (w : WalkReq)
  | loadReturn (t : Nat)
  | storePerformed (t : Nat)
  | storeHoldResolved (t : Nat)
  | lineEvict (die cl la : Nat)
  | tldComplete (t : Nat)
  -- residue arrays
  | mmaCommandStart (die core part : Nat)
  | mmaMigrate (die core part : Nat)
  | mmaBlockAccumulate (die core part : Nat)
  | mmaCommandComplete (die core part : Nat)
  -- slice directory
  | sliceRds (die cl la : Nat) (mir : Bool)
  | sliceRdx (die cl la : Nat) (mir : Bool)
  | sliceUpg (die cl la : Nat) (mir : Bool)
  | sliceWbd (die cl la : Nat)
  | sliceEvc (die cl la : Nat)
  -- messages
  | rds (m : Msg) | rdx (m : Msg) | upg (m : Msg) | wbd (m : Msg) | evc (m : Msg)
  | rdu (m : Msg) | wru (m : Msg) | atu (m : Msg)
  | snpf (m : Msg) | snpi (m : Msg) | snpfi (m : Msg) | recall (m : Msg)
  | grant (m : Msg) | ack (m : Msg) | retry (m : Msg) | err (m : Msg) | gone (m : Msg) | mirack (m : Msg)
  | data (m : Msg) | datam (m : Msg) | mirror (m : Msg)
  | remrd (m : Msg) | remwr (m : Msg) | remat (m : Msg) | remrsp (m : Msg)
  | disc (m : Msg) (port : Nat) | discr (m : Msg) (port : Nat)
  | shoot (m : Msg) | shoota (m : Msg) | probe (m : Msg) | jfail (m : Msg) | census (m : Msg) | report (m : Msg)
  -- junction timers
  | censusComplete (die : Nat)
  | junctionResponseTimeout (die txid : Nat)
  | snpOwnerTimeout (die la : Nat)
  | lossRecordDrain (die : Nat)
  -- host
  | snpinv (la : Nat)
  | snpdata (la : Nat)
  | snpcur (la : Nat)
  | hostM2sRequest (q : HostReq)
  | birsp (la : Nat)
  | biconflict (q : HostReq)
  -- links
  | flitReceive (die port : Nat) (flit : BitVec 2048)
  | idleFlit (die port : Nat) (flit : BitVec 2048)
  | replayRequest (die port : Nat) (flit : BitVec 2048)
  | portAckTimeout (die port : Nat)
  | portRetrain (die port : Nat) (ok : Bool)
  | classStarvation (die port cls : Nat)
  | portTrained (die port : Nat)
  | discoverTimeout (die port : Nat)
  | hostPortTrainTimeout (die : Nat)
  -- boot
  | dieReset (die : Nat)
  | bootStartTimeout (die : Nat)
  | doeStatus (die : Nat)
  | doeStage (off : Nat) (bytes : List (BitVec 8))
  | doeRestart
  | spdmRequest (q : Spdm)
  -- atelier and voted machines
  | leaseRenewal (die : Nat)
  | leaseWatch (die : Nat)
  | leaseTakeover (die : Nat)
  | voterOutput (die mach : Nat) (a b c : Word)
  | resyncEnd (die mach : Nat)
  | voteInject (die mach copy : Nat)
  | injectDiscard (die mach : Nat)
  -- shoot-downs and reports
  | shootdownPage (die : Nat) (spc : BitVec 3) (sz : BitVec 2) (pasid : BitVec 20)
  | shootdownPasidSpace (die : Nat) (spc : BitVec 3) (pasid : BitVec 20)
  | shootdownPasid (die : Nat) (pasid : BitVec 20)
  | shootdownAll (die : Nat)
  | shootdownComplete (die : Nat)
  | pageReadyReport (die : Nat) (spc : BitVec 3) (pasid : BitVec 20) (vpn : BitVec 41)
  | patinaForce (t : Nat)
  | preemptRequest (task : BitVec 32)
  | preemptTake (t : Nat)
  | threadRestore (t : Nat)
  -- scheduler and dispatcher
  | queueTailAdvance (die : Nat) (pasid : BitVec 20) (qn : BitVec 16)
  | spawnRecord (die : Nat) (pasid : BitVec 20) (qn : BitVec 16)
  | copyTask (die : Nat) (pasid : BitVec 20) (qn : BitVec 16)
  | countBarrierWait (die : Nat) (pasid : BitVec 20) (qn : BitVec 16)
  | list (die : Nat) (pasid : BitVec 20) (qn : BitVec 16)
  | countBarrierWaitComplete (task : BitVec 32)
  | taskPlace (die : Nat)
  | threadEnd (t : Nat)
  | taskComplete (task : BitVec 32)
  -- reliability and outside
  | temperatureChange (die deg : Nat)
  | correctedError (die arr : Nat)
  | uncorrectableError (die : Nat) (p : UePlace)
  | scrubPeriod (die : Nat)
  | clusterOffline (die cl : Nat)
  | cxlCacheHostResponse (la : Nat) (data : LineData)
  | configurationSpaceAccess (addr : Nat) (write : Bool) (data : W32)
  | probeFailure (die target : Nat)
  | controlFault (die cl : Nat)
  | pfringRecordDrain (die : Nat)
  | monitorRingSpaceFreed (die : Nat)
  deriving DecidableEq, Repr

end Sys2Proof
end

