-- ==== Sys2Proof/Decode.lean ====
section
/-! DEFINITION. The decoder, total on any two words (R132 to R157), and the encoder written from the same layouts.
The order of the checks is R151's. Every bit that a layout leaves unused is checked at once: the word must be the one
that the encoder writes for the instruction read from it. -/

namespace Sys2Proof

/-- The three decode traps (R151). -/
inductive DecTrap where
  | illEnc | illOpc | tileRange
  deriving DecidableEq, Repr

/-- What decoding depends on: the core, the vector allotment, the tile count, the gang's lane count. -/
structure DCtx where
  arm : Bool
  allot : Nat
  tiles : Nat
  lanes : Nat
  deriving DecidableEq, Repr

/-- The prefix before a full word (R147 to R149). -/
inductive Pre where
  | none
  | wide (p : BitVec 48)
  | bpm (m : BitVec 4)
  deriving DecidableEq, Repr

/-- The fields of a full word (R134). -/
structure Fld where
  opc : BitVec 7
  prd : BitVec 4
  png : Bool
  dst : BitVec 10
  sa : BitVec 10
  sb : BitVec 10
  sc : BitVec 10
  shape : BitVec 2
  md : BitVec 8
  deriving DecidableEq, Repr

/-- One bit as a vector. -/
abbrev bit (b : Bool) : BitVec 1 := BitVec.ofBool b

/-- The fields of a full word. -/
def Fld.split (w : Word) : Fld :=
  { opc := w.extractLsb' 55 7, prd := w.extractLsb' 51 4, png := w.getLsbD 50, dst := w.extractLsb' 40 10,
    sa := w.extractLsb' 30 10, sb := w.extractLsb' 20 10, sc := w.extractLsb' 10 10, shape := w.extractLsb' 8 2,
    md := w.extractLsb' 0 8 }

/-- The full word with these fields (R134). -/
def Fld.join (f : Fld) : Word :=
  (0b00#2 ++ f.opc ++ f.prd ++ bit f.png ++ f.dst ++ f.sa ++ f.sb ++ f.sc ++ f.shape ++ f.md :
    BitVec (2 + 7 + 4 + 1 + 10 + 10 + 10 + 10 + 2 + 8))

/-- The prefix word of each kind (R147). -/
def Pre.word : Pre → Option Word
  | .none => Option.none
  | .wide p => some (0b10#2 ++ 0#4 ++ p ++ 0#10 : BitVec (2 + 4 + 48 + 10))
  | .bpm m => some (0b10#2 ++ 1#4 ++ 1#1 ++ m ++ 0#43 ++ 0#10 : BitVec (2 + 4 + 1 + 4 + 43 + 10))

/-! ### Operand fields -/

/-- The SB field of a shaped operand. -/
def Src.sb : Src → BitVec 10
  | .reg n => n | .sreg n => n | .nic n => n | .imm v => v.extractLsb' 10 10 | .wide _ => 0

/-- The SC field, which an immediate consumes. -/
def Src.sc (sc : BitVec 10) : Src → BitVec 10
  | .imm v => v.extractLsb' 0 10 | .wide _ => 0 | .reg _ => sc | .sreg _ => sc | .nic _ => sc

/-- SHAPE (R136). -/
def Src.shape : Src → BitVec 2
  | .reg _ => 0 | .sreg _ => 1 | .nic _ => 2 | .imm _ => 3 | .wide _ => 3

/-- The prefix that a shaped operand needs. -/
def Src.pre : Src → Pre
  | .wide p => .wide p | .reg _ => .none | .sreg _ => .none | .nic _ => .none | .imm _ => .none

/-- An immediate as a shaped operand. -/
def Imm.src : Imm → Src
  | .i20 v => .imm v | .i48 v => .wide v

/-- The SB field of a memory offset. -/
def MOff.sb : MOff → BitVec 10
  | .idx n => n | .off v => v | .wide _ => 0

/-- IX: the offset is an index register. -/
def MOff.ix : MOff → Bool
  | .idx _ => true | .off _ => false | .wide _ => false

/-- The prefix that an offset or a permutation mode needs; the offset's comes first. -/
def MOff.pre (b : Bpm) : MOff → Pre
  | .wide p => .wide p
  | .idx _ => match b with | some m => .bpm m | none => .none
  | .off _ => match b with | some m => .bpm m | none => .none

/-- The shaped operand of a word. -/
def Fld.src (f : Fld) (pre : Pre) : Src :=
  if f.shape = 0 then .reg f.sb else if f.shape = 1 then .sreg f.sb else if f.shape = 2 then .nic f.sb
  else match pre with
    | .wide p => .wide p
    | .none => .imm (f.sb ++ f.sc : BitVec (10 + 10))
    | .bpm _ => .imm (f.sb ++ f.sc : BitVec (10 + 10))

/-- The immediate of a word whose SHAPE is 0b11. -/
def Fld.imm (f : Fld) (pre : Pre) : Imm :=
  match pre with
  | .wide p => .i48 p
  | .none => .i20 (f.sb ++ f.sc : BitVec (10 + 10))
  | .bpm _ => .i20 (f.sb ++ f.sc : BitVec (10 + 10))

/-- SC where an immediate does not consume it. -/
def Fld.scOf (f : Fld) : BitVec 10 := if f.shape = 3 then 0 else f.sc

/-- The offset of a word that has IX in SC[3]. -/
def Fld.moff (f : Fld) (pre : Pre) : MOff :=
  if f.sc.getLsbD 3 then .idx f.sb
  else match pre with | .wide p => .wide p | .none => .off f.sb | .bpm _ => .off f.sb

/-- The offset of a word without IX. -/
def Fld.uoff (f : Fld) (pre : Pre) : MOff :=
  match pre with | .wide p => .wide p | .none => .off f.sb | .bpm _ => .off f.sb

/-- The permutation mode of a kind-1 prefix. -/
def Pre.bpmOf : Pre → Bpm
  | .bpm m => some m | .none => Option.none | .wide _ => Option.none

/-- The guard of a word. -/
def Fld.gd (f : Fld) : Gd := ⟨f.prd, f.png⟩

/-- The head of an arithmetic word. -/
def Fld.hd (f : Fld) : Hd := ⟨f.prd, f.png, f.md.getLsbD 7⟩

/-! ### The encoder -/

/-- A full word without a guard. -/
def encW (opc : BitVec 7) (dst sa sb sc : BitVec 10) (shape : BitVec 2) (md : BitVec 8) : Fld :=
  ⟨opc, 0, false, dst, sa, sb, sc, shape, md⟩

/-- A guarded full word. -/
def encG (g : Gd) (opc : BitVec 7) (dst sa sb sc : BitVec 10) (shape : BitVec 2) (md : BitVec 8) : Fld :=
  ⟨opc, g.prd, g.png, dst, sa, sb, sc, shape, md⟩

/-- An arithmetic word: U is MOD[7]. -/
def encH (h : Hd) (opc : BitVec 7) (dst sa sb sc : BitVec 10) (shape : BitVec 2) (md : BitVec 7) : Fld :=
  ⟨opc, h.prd, h.png, dst, sa, sb, sc, shape, (bit h.u ++ md : BitVec (1 + 7))⟩

/-- An arithmetic word with a shaped SB. -/
def encHS (h : Hd) (opc : BitVec 7) (dst sa : BitVec 10) (s : Src) (sc : BitVec 10) (md : BitVec 7) : Option (Pre × Fld) :=
  some (s.pre, encH h opc dst sa s.sb (s.sc sc) s.shape md)

/-- A word with a shaped SB, guarded or not. -/
def encGS (g : Gd) (opc : BitVec 7) (dst sa : BitVec 10) (s : Src) (sc : BitVec 10) (md : BitVec 8) : Option (Pre × Fld) :=
  some (s.pre, encG g opc dst sa s.sb (s.sc sc) s.shape md)

/-- No guard. -/
def Gd.none : Gd := ⟨0, false⟩

/-- FT and RND of a floating-point word (R209). -/
def ftRnd (bf : Bool) (rnd : BitVec 3) : BitVec 7 := (bit bf ++ rnd ++ 0#3 : BitVec (1 + 3 + 3))

/-- SCOPE in SC[9:7] and zeros below. -/
def scopeSc (s : BitVec 3) : BitVec 10 := (s ++ 0#7 : BitVec (3 + 7))

/-- The prefix and the fields of a full-form instruction; none for a pair word or an event. -/
def encF : Instr → Option (Pre × Fld)
  | .nop g => some (.none, encG g 0x00 0 0 0 0 0 0)
  | .bra g ck sa off => encGS g 0x01 0 sa off.src 0 (0#6 ++ ck : BitVec (6 + 2))
  | .bri g uni sb => some (.none, encG g 0x02 0 0 sb 0 (if uni then 1 else 0) 0)
  | .call dst sb => encGS .none 0x03 dst 0 sb 0 0
  | .ret sa => some (.none, encW 0x04 0 sa 0 0 0 0)
  | .exit g => some (.none, encG g 0x05 0 0 0 0 0 0)
  | .mark kind off => encGS .none 0x06 0 0 off.src 0 (0#6 ++ kind : BitVec (6 + 2))
  | .merge => some (.none, encW 0x07 0 0 0 0 0 0)
  | .brk g => some (.none, encG g 0x08 0 0 0 0 0 0)
  | .cont g => some (.none, encG g 0x09 0 0 0 0 0 0)
  | .regang => some (.none, encW 0x0A 0 0 0 0 0 0)
  | .join g dst sb => encGS g 0x0B dst 0 sb 0 0
  | .leave g sb => encGS g 0x0C 0 0 sb 0 0
  | .bar g dst sb red rop rty sc => encGS g 0x0D dst 0 sb sc (bit red ++ rop ++ rty ++ 0#2 : BitVec (1 + 3 + 2 + 2))
  | .elect g dst => some (.none, encG g 0x0E dst 0 0 0 0 0)
  | .trapUser g imm => encGS g 0x0F 0 0 imm.src 0 0
  | .trapBkpt g imm => encGS g 0x0F 0 0 imm.src 0 1
  | .rett sa skip => some (.none, encW 0x10 0 sa 0 0 0 (0#7 ++ bit skip : BitVec (7 + 1)))
  | .svc g dst sa sb sc => encGS g 0x11 dst sa sb sc 0
  | .spawn dst sa sb => encGS .none 0x12 dst sa sb 0 0
  | .mwatch sa => some (.none, encW 0x13 0 sa 0 0 0 0)
  | .msleep dst sb => encGS .none 0x14 dst 0 sb 0 0
  | .pause sb => encGS .none 0x15 0 0 sb 0 0
  | .csrr dst num => encGS .none 0x16 dst 0 num.src 0 0
  | .csrw sa num => encGS .none 0x17 0 sa num.src 0 0
  | .nw dst sa sb w vs => encGS .none 0x18 dst sa sb 0 (0#6 ++ bit w ++ bit vs : BitVec (6 + 1 + 1))
  | .nrPeek dst sa => some (.none, encW 0x19 dst sa 0 0 0 0)
  | .nrTake dst sa => some (.none, encW 0x19 dst sa 0 0 0 1)
  | .nred g dst sa gop gty => some (.none, encG g 0x1A dst sa 0 0 0 (gop ++ gty ++ 0#2 : BitVec (3 + 3 + 2)))
  | .nctlGather dst sb gop gty => encGS .none 0x1B dst 0 sb 0 (0#2 ++ gop ++ gty : BitVec (2 + 3 + 3))
  | .nctlBcast dst sb => encGS .none 0x1B dst 0 sb 0 0b01000000
  | .nctlEmpty dst sb => encGS .none 0x1B dst 0 sb 0 0b10000000
  | .hsr dst sb => encGS .none 0x1C dst 0 sb 0 0
  | .hsw sa sb => encGS .none 0x1D 0 sa sb 0 0
  | .iadd h dst sa sb it cy cp => encHS h 0x20 dst sa sb 0 (it ++ cy ++ cp : BitVec (2 + 2 + 3))
  | .isub h dst sa sb it cy cp => encHS h 0x21 dst sa sb 0 (it ++ cy ++ cp : BitVec (2 + 2 + 3))
  | .imul h dst sa sb it hw => encHS h 0x22 dst sa sb 0 (it ++ hw ++ 0#3 : BitVec (2 + 2 + 3))
  | .imad h dst sa sb sc it hw => encHS h 0x23 dst sa sb sc (it ++ hw ++ 0#3 : BitVec (2 + 2 + 3))
  | .idiv h dst sa sb it rem => encHS h 0x24 dst sa sb 0 (it ++ bit rem ++ 0#4 : BitVec (2 + 1 + 4))
  | .imin h dst sa sb it => encHS h 0x25 dst sa sb 0 (it ++ 0#5 : BitVec (2 + 5))
  | .imax h dst sa sb it => encHS h 0x26 dst sa sb 0 (it ++ 0#5 : BitVec (2 + 5))
  | .iabs h dst sa it sat => some (.none, encH h 0x27 dst sa 0 0 0 (it ++ bit sat ++ 0#4 : BitVec (2 + 1 + 4)))
  | .ineg h dst sa it sat => some (.none, encH h 0x28 dst sa 0 0 0 (it ++ bit sat ++ 0#4 : BitVec (2 + 1 + 4)))
  | .icmp h dst sa sb it cmp => encHS h 0x29 dst sa sb 0 (it ++ cmp ++ 0#2 : BitVec (2 + 3 + 2))
  | .idp4 h dst sa sb sc pk sat => encHS h 0x2A dst sa sb sc (pk ++ bit sat ++ 0#4 : BitVec (2 + 1 + 4))
  | .lea h dst sa sb w sh => encHS h 0x2B dst sa sb 0 (w ++ sh : BitVec (2 + 5))
  | .and h dst sa sb w => encHS h 0x2C dst sa sb 0 (w ++ 0#5 : BitVec (2 + 5))
  | .or h dst sa sb w => encHS h 0x2D dst sa sb 0 (w ++ 0#5 : BitVec (2 + 5))
  | .xor h dst sa sb w => encHS h 0x2E dst sa sb 0 (w ++ 0#5 : BitVec (2 + 5))
  | .not h dst sa w => some (.none, encH h 0x2F dst sa 0 0 0 (w ++ 0#5 : BitVec (2 + 5)))
  | .shl h dst sa sb w => encHS h 0x30 dst sa sb 0 (w ++ 0#5 : BitVec (2 + 5))
  | .shr h dst sa sb w a => encHS h 0x31 dst sa sb 0 (w ++ bit a ++ 0#4 : BitVec (2 + 1 + 4))
  | .rot h dst sa sb w => encHS h 0x32 dst sa sb 0 (w ++ 0#5 : BitVec (2 + 5))
  | .bfe h dst sa sb sc w sx => encHS h 0x33 dst sa sb sc (w ++ bit sx ++ 0#4 : BitVec (2 + 1 + 4))
  | .bfi h dst sa sb sc w => encHS h 0x34 dst sa sb sc (w ++ 0#5 : BitVec (2 + 5))
  | .bfrev h dst sa w => some (.none, encH h 0x35 dst sa 0 0 0 (w ++ 0#5 : BitVec (2 + 5)))
  | .bcnt h dst sa w bop => some (.none, encH h 0x36 dst sa 0 0 0 (w ++ bop ++ 0#3 : BitVec (2 + 2 + 3)))
  | .sad h dst sa sb sc pk sat => encHS h 0x37 dst sa sb sc (pk ++ bit sat ++ 0#4 : BitVec (2 + 1 + 4))
  | .mov h dst sb w => encHS h 0x38 dst 0 sb 0 (w ++ 0#5 : BitVec (2 + 5))
  | .movi h dst imm mt => encHS h 0x39 dst 0 imm.src 0 (mt ++ 0#4 : BitVec (3 + 4))
  | .sel g dst sa sb sc => encGS g 0x3A dst sa sb sc 0
  | .movx g dst sa tag => some (.none, encG g 0x3B dst sa 0 0 0 (0#4 ++ tag : BitVec (4 + 4)))
  | .plog g dst sa sb lut => some (.none, encG g 0x3C dst sa sb 0 0 (0#4 ++ lut : BitVec (4 + 4)))
  | .pmov g dst sa dir => some (.none, encG g 0x3D dst sa 0 0 0 (0#6 ++ dir : BitVec (6 + 2)))
  | .sreg g dst sel => some (.none, encG g 0x3E dst 0 0 0 0 (0#4 ++ sel : BitVec (4 + 4)))
  | .fadd h dst sa sb bf rnd => encHS h 0x40 dst sa sb 0 (ftRnd bf rnd)
  | .fsub h dst sa sb bf rnd => encHS h 0x41 dst sa sb 0 (ftRnd bf rnd)
  | .fmul h dst sa sb bf rnd => encHS h 0x42 dst sa sb 0 (ftRnd bf rnd)
  | .fma h dst sa sb sc bf rnd => encHS h 0x43 dst sa sb sc (ftRnd bf rnd)
  | .fmin h dst sa sb bf => encHS h 0x44 dst sa sb 0 (ftRnd bf 0)
  | .fmax h dst sa sb bf => encHS h 0x45 dst sa sb 0 (ftRnd bf 0)
  | .fcmp h dst sa sb bf cmp => encHS h 0x46 dst sa sb 0 (bit bf ++ 0#3 ++ cmp : BitVec (1 + 3 + 3))
  | .frcp h dst sa bf rnd => some (.none, encH h 0x47 dst sa 0 0 0 (ftRnd bf rnd))
  | .frsq h dst sa bf => some (.none, encH h 0x48 dst sa 0 0 0 (ftRnd bf 0))
  | .fsqrt h dst sa bf rnd => some (.none, encH h 0x49 dst sa 0 0 0 (ftRnd bf rnd))
  | .fexp2 h dst sa bf => some (.none, encH h 0x4A dst sa 0 0 0 (ftRnd bf 0))
  | .flog2 h dst sa bf => some (.none, encH h 0x4B dst sa 0 0 0 (ftRnd bf 0))
  | .fsin h dst sa bf => some (.none, encH h 0x4C dst sa 0 0 0 (ftRnd bf 0))
  | .fcos h dst sa bf => some (.none, encH h 0x4D dst sa 0 0 0 (ftRnd bf 0))
  | .fdiv h dst sa sb bf rnd => encHS h 0x4E dst sa sb 0 (ftRnd bf rnd)
  | .frnd h dst sa bf rnd => some (.none, encH h 0x4F dst sa 0 0 0 (ftRnd bf rnd))
  | .fclass h dst sa bf => some (.none, encH h 0x50 dst sa 0 0 0 (ftRnd bf 0))
  | .fscale h dst sa sb bf rnd => encHS h 0x51 dst sa sb 0 (ftRnd bf rnd)
  | .ffrac h dst sa bf rnd => some (.none, encH h 0x52 dst sa 0 0 0 (ftRnd bf rnd))
  | .fdot2 h dst sa sb sc rnd => encHS h 0x53 dst sa sb sc (ftRnd true rnd)
  | .cvt h dst sa cv rnd => some (.none, encH h 0x58 dst sa 0 0 0 (cv ++ rnd : BitVec (4 + 3)))
  | .pack h dst sa sb pk rnd => encHS h 0x59 dst sa sb 0 (pk ++ 0#1 ++ rnd : BitVec (3 + 1 + 3))
  | .unpk h dst sa uk el => some (.none, encH h 0x5A dst sa 0 0 0 (uk ++ 0#2 ++ el : BitVec (3 + 2 + 2)))
  | .vote g dst sa vop => some (.none, encG g 0x5C dst sa 0 0 0 (0#6 ++ vop : BitVec (6 + 2)))
  | .shfl g dst sa sb segl sop => encGS g 0x5D dst sa sb 0 (0#3 ++ segl ++ sop : BitVec (3 + 3 + 2))
  | .prmt g dst sa sb sc => encGS g 0x5E dst sa sb sc 0
  | .redg g dst sa rop rty rnd => some (.none, encG g 0x5F dst sa 0 0 0 (rop ++ rty ++ rnd : BitVec (3 + 2 + 3)))
  | .scan g dst sa rop rty rnd excl =>
    some (.none, encG g 0x60 dst sa 0 (0#9 ++ bit excl : BitVec (9 + 1)) 0 (rop ++ rty ++ rnd : BitVec (3 + 2 + 3)))
  | .matchv g dst sa mop => some (.none, encG g 0x61 dst sa 0 0 0 (0#7 ++ bit mop : BitVec (7 + 1)))
  | .ld g dst sa off scope pol now ord ty bpm =>
    some (off.pre bpm, encG g 0x64 dst sa off.sb (scope ++ pol ++ bit off.ix ++ 0#2 ++ bit now : BitVec (3 + 3 + 1 + 2 + 1)) 0
      (ord ++ ty : BitVec (3 + 5)))
  | .st g dst sa off scope pol rnd ord ty bpm =>
    some (off.pre bpm, encG g 0x65 dst sa off.sb (scope ++ pol ++ bit off.ix ++ rnd : BitVec (3 + 3 + 1 + 3)) 0
      (ord ++ ty : BitVec (3 + 5)))
  | .sld dst sa off scope pol now ord ty bpm =>
    some (off.pre bpm, encW 0x66 dst sa off.sb (scope ++ pol ++ 0#3 ++ bit now : BitVec (3 + 3 + 3 + 1)) 0
      (ord ++ ty : BitVec (3 + 5)))
  | .sst dst sa off scope pol ord ty bpm =>
    some (off.pre bpm, encW 0x67 dst sa off.sb (scope ++ pol ++ 0#4 : BitVec (3 + 3 + 4)) 0 (ord ++ ty : BitVec (3 + 5)))
  | .atom g dst sa off scope aop ord ty bpm =>
    some (off.pre bpm, encG g 0x68 dst sa off.sb (scope ++ aop ++ bit off.ix ++ 0#3 : BitVec (3 + 3 + 1 + 3)) 0
      (ord ++ ty : BitVec (3 + 5)))
  | .satom dst sa off scope aop ord ty bpm =>
    some (off.pre bpm, encW 0x69 dst sa off.sb (scope ++ aop ++ 0#4 : BitVec (3 + 3 + 4)) 0 (ord ++ ty : BitVec (3 + 5)))
  | .srel dst sa off scope fresh sop w =>
    some (off.pre none, encW 0x6A dst sa off.sb (scopeSc scope) 0 (bit fresh ++ sop ++ bit w ++ 0#4 : BitVec (1 + 2 + 1 + 4)))
  | .sacq dst sa off scope clr w =>
    some (off.pre none, encW 0x6B dst sa off.sb (scopeSc scope) 0 (bit clr ++ 0#2 ++ bit w ++ 0#4 : BitVec (1 + 2 + 1 + 4)))
  | .fence scope ord => some (.none, encW 0x6C 0 0 0 (scopeSc scope) 0 (ord ++ 0#5 : BitVec (3 + 5)))
  | .wait ldn stn cpn mxn =>
    some (.none, encW 0x6D (0#4 ++ ldn : BitVec (4 + 6)) (0#4 ++ stn : BitVec (4 + 6)) (0#4 ++ cpn : BitVec (4 + 6))
      (0#4 ++ mxn : BitVec (4 + 6)) 0 0)
  | .prf g sa off lvl =>
    some (off.pre none, encG g 0x6E 0 sa off.sb (0#6 ++ bit off.ix ++ 0#2 ++ bit lvl : BitVec (6 + 1 + 2 + 1)) 0 0)
  | .cmoWb g sa off scope =>
    some (off.pre none, encG g 0x6F 0 sa off.sb (scope ++ 0#3 ++ bit off.ix ++ 0#3 : BitVec (3 + 3 + 1 + 3)) 0 0)
  | .cmoWbinv g sa off scope =>
    some (off.pre none, encG g 0x6F 0 sa off.sb (scope ++ 0#3 ++ bit off.ix ++ 0#3 : BitVec (3 + 3 + 1 + 3)) 0 1)
  | .cmoIinv g sa off scope =>
    some (off.pre none, encG g 0x6F 0 sa off.sb (scope ++ 0#3 ++ bit off.ix ++ 0#3 : BitVec (3 + 3 + 1 + 3)) 0 2)
  | .dcf sa sb scope => some (.none, encW 0x70 0 sa sb (scopeSc scope) 0 0)
  | .pclr dst sa sb => some (.none, encW 0x71 dst sa sb 0 0 0)
  | .cbarWait dst sa sb scope => some (.none, encW 0x72 dst sa sb (scopeSc scope) 0 0)
  | .cbarTest dst sa sb scope => some (.none, encW 0x72 dst sa sb (scopeSc scope) 0 1)
  | .cbarArm sa sb scope => some (.none, encW 0x72 0 sa sb (scopeSc scope) 0 2)
  | .cbarArrive sa sb scope => some (.none, encW 0x72 0 sa sb (scopeSc scope) 0 3)
  | .cpq sa sb ch => some (.none, encW 0x73 0 sa sb 0 0 (0#5 ++ ch : BitVec (5 + 3)))
  | .tcfg dst sb zm => encGS .none 0x74 dst 0 sb 0 (0#7 ++ bit zm : BitVec (7 + 1))
  | .trel => some (.none, encW 0x75 0 0 0 0 0 0)
  | .tzero dst cnt => some (.none, encW 0x76 dst 0 0 0 0 (0#2 ++ cnt : BitVec (2 + 6)))
  | .mma dst sa sb rnd sca scb nb kb x3 ty =>
    some (.none, encW 0x77 dst sa sb (rnd ++ bit sca ++ bit scb ++ nb : BitVec (3 + 1 + 1 + 5)) 0 (kb ++ bit x3 ++ ty : BitVec (2 + 1 + 5)))
  | .tld dst sa off pol sc now ty =>
    some (off.pre none, encW 0x78 dst sa off.sb (pol ++ 0#1 ++ sc : BitVec (3 + 1 + 6)) 0 (0#2 ++ bit now ++ ty : BitVec (2 + 1 + 5)))
  | .tst dst sa off pol sc rnd ty =>
    some (off.pre none, encW 0x79 dst sa off.sb (pol ++ 0#1 ++ sc : BitVec (3 + 1 + 6)) 0 (rnd ++ ty : BitVec (3 + 5)))
  | .tmovTov dst sa => some (.none, encW 0x7A dst sa 0 0 0 0)
  | .tmovFromv dst sa => some (.none, encW 0x7A dst sa 0 0 0 1)
  | .tmovTot dst sa => some (.none, encW 0x7A dst sa 0 0 0 2)
  | .mbat dst => some (.none, encW 0x7B dst 0 0 0 0 0)
  | .mwait dst all sb => encGS .none 0x7C dst 0 sb 0 (0#7 ++ bit all : BitVec (7 + 1))
  | .tscl dst sa sb sc relu rnd => encGS .none 0x7D dst sa sb sc (bit relu ++ 0#1 ++ rnd ++ 0#3 : BitVec (1 + 1 + 3 + 3))
  | _ => none

/-! ### Reading a full word -/

/-- RND codes (R109). -/
def rndOk (r : BitVec 3) : Bool := r != 5 && r != 6

/-- The instruction that a full word's defined fields name, its unused bits aside. None where the opcode, the field that splits it
into table rows, or the RND of an opcode that does not round and so keeps none (R142, R209), is unassigned (ILL_OPC). -/
def parseF (pre : Pre) (f : Fld) : Option Instr :=
  let b (i : Nat) : Bool := f.md.getLsbD i
  let m (lo len : Nat) : BitVec len := f.md.extractLsb' lo len
  let c (lo len : Nat) : BitVec len := f.sc.extractLsb' lo len
  let s := f.src pre
  let g := f.gd
  let h := f.hd
  let bf := b 6
  let rnd := m 3 3
  let bp := pre.bpmOf
  match f.opc.toNat with
  | 0x00 => some (.nop g)
  | 0x01 => some (.bra g (m 0 2) f.sa (f.imm pre))
  | 0x02 => some (.bri g (f.shape == 1) f.sb)
  | 0x03 => some (.call f.dst s)
  | 0x04 => some (.ret f.sa)
  | 0x05 => some (.exit g)
  | 0x06 => some (.mark (m 0 2) (f.imm pre))
  | 0x07 => some .merge
  | 0x08 => some (.brk g)
  | 0x09 => some (.cont g)
  | 0x0A => some .regang
  | 0x0B => some (.join g f.dst s)
  | 0x0C => some (.leave g s)
  | 0x0D => some (.bar g f.dst s (b 7) (m 4 3) (m 2 2) f.scOf)
  | 0x0E => some (.elect g f.dst)
  | 0x0F => some (if b 0 then .trapBkpt g (f.imm pre) else .trapUser g (f.imm pre))
  | 0x10 => some (.rett f.sa (b 0))
  | 0x11 => some (.svc g f.dst f.sa s f.scOf)
  | 0x12 => some (.spawn f.dst f.sa s)
  | 0x13 => some (.mwatch f.sa)
  | 0x14 => some (.msleep f.dst s)
  | 0x15 => some (.pause s)
  | 0x16 => some (.csrr f.dst (f.imm pre))
  | 0x17 => some (.csrw f.sa (f.imm pre))
  | 0x18 => some (.nw f.dst f.sa s (b 1) (b 0))
  | 0x19 => some (if b 0 then .nrTake f.dst f.sa else .nrPeek f.dst f.sa)
  | 0x1A => some (.nred g f.dst f.sa (m 5 3) (m 2 3))
  | 0x1B =>
    if 6 ≤ (m 3 3).toNat || 5 ≤ (m 0 3).toNat then none
    else if m 6 2 = 0 then some (.nctlGather f.dst s (m 3 3) (m 0 3))
    else if m 6 2 = 1 then some (.nctlBcast f.dst s)
    else if m 6 2 = 2 then some (.nctlEmpty f.dst s) else none
  | 0x1C => some (.hsr f.dst s)
  | 0x1D => some (.hsw f.sa s)
  | 0x20 => some (.iadd h f.dst f.sa s (m 5 2) (m 3 2) (m 0 3))
  | 0x21 => some (.isub h f.dst f.sa s (m 5 2) (m 3 2) (m 0 3))
  | 0x22 => some (.imul h f.dst f.sa s (m 5 2) (m 3 2))
  | 0x23 => some (.imad h f.dst f.sa s f.sc (m 5 2) (m 3 2))
  | 0x24 => some (.idiv h f.dst f.sa s (m 5 2) (b 4))
  | 0x25 => some (.imin h f.dst f.sa s (m 5 2))
  | 0x26 => some (.imax h f.dst f.sa s (m 5 2))
  | 0x27 => some (.iabs h f.dst f.sa (m 5 2) (b 4))
  | 0x28 => some (.ineg h f.dst f.sa (m 5 2) (b 4))
  | 0x29 => some (.icmp h f.dst f.sa s (m 5 2) (m 2 3))
  | 0x2A => some (.idp4 h f.dst f.sa s f.sc (m 5 2) (b 4))
  | 0x2B => some (.lea h f.dst f.sa s (m 5 2) (m 0 5))
  | 0x2C => some (.and h f.dst f.sa s (m 5 2))
  | 0x2D => some (.or h f.dst f.sa s (m 5 2))
  | 0x2E => some (.xor h f.dst f.sa s (m 5 2))
  | 0x2F => some (.not h f.dst f.sa (m 5 2))
  | 0x30 => some (.shl h f.dst f.sa s (m 5 2))
  | 0x31 => some (.shr h f.dst f.sa s (m 5 2) (b 4))
  | 0x32 => some (.rot h f.dst f.sa s (m 5 2))
  | 0x33 => some (.bfe h f.dst f.sa s f.scOf (m 5 2) (b 4))
  | 0x34 => some (.bfi h f.dst f.sa s f.scOf (m 5 2))
  | 0x35 => some (.bfrev h f.dst f.sa (m 5 2))
  | 0x36 => some (.bcnt h f.dst f.sa (m 5 2) (m 3 2))
  | 0x37 => some (.sad h f.dst f.sa s f.sc (m 5 2) (b 4))
  | 0x38 => some (.mov h f.dst s (m 5 2))
  | 0x39 => some (.movi h f.dst (f.imm pre) (m 4 3))
  | 0x3A => if b 7 then none else some (.sel g f.dst f.sa s f.sc)
  | 0x3B => if b 7 then none else some (.movx g f.dst f.sa (m 0 4))
  | 0x3C => if b 7 then none else some (.plog g f.dst f.sa f.sb (m 0 4))
  | 0x3D => if b 7 then none else some (.pmov g f.dst f.sa (m 0 2))
  | 0x3E => if b 7 then none else some (.sreg g f.dst (m 0 4))
  | 0x40 => some (.fadd h f.dst f.sa s bf rnd)
  | 0x41 => some (.fsub h f.dst f.sa s bf rnd)
  | 0x42 => some (.fmul h f.dst f.sa s bf rnd)
  | 0x43 => some (.fma h f.dst f.sa s f.sc bf rnd)
  | 0x44 => if rndOk rnd then some (.fmin h f.dst f.sa s bf) else none
  | 0x45 => if rndOk rnd then some (.fmax h f.dst f.sa s bf) else none
  | 0x46 => if rndOk rnd then some (.fcmp h f.dst f.sa s bf (m 0 3)) else none
  | 0x47 => some (.frcp h f.dst f.sa bf rnd)
  | 0x48 => if rndOk rnd then some (.frsq h f.dst f.sa bf) else none
  | 0x49 => some (.fsqrt h f.dst f.sa bf rnd)
  | 0x4A => if rndOk rnd then some (.fexp2 h f.dst f.sa bf) else none
  | 0x4B => if rndOk rnd then some (.flog2 h f.dst f.sa bf) else none
  | 0x4C => if rndOk rnd then some (.fsin h f.dst f.sa bf) else none
  | 0x4D => if rndOk rnd then some (.fcos h f.dst f.sa bf) else none
  | 0x4E => some (.fdiv h f.dst f.sa s bf rnd)
  | 0x4F => some (.frnd h f.dst f.sa bf rnd)
  | 0x50 => if rndOk rnd then some (.fclass h f.dst f.sa bf) else none
  | 0x51 => some (.fscale h f.dst f.sa s bf rnd)
  | 0x52 => some (.ffrac h f.dst f.sa bf rnd)
  | 0x53 => if bf then some (.fdot2 h f.dst f.sa s f.sc rnd) else none
  | 0x58 => some (.cvt h f.dst f.sa (m 3 4) (m 0 3))
  | 0x59 => some (.pack h f.dst f.sa s (m 4 3) (m 0 3))
  | 0x5A => some (.unpk h f.dst f.sa (m 4 3) (m 0 2))
  | 0x5C => some (.vote g f.dst f.sa (m 0 2))
  | 0x5D => some (.shfl g f.dst f.sa s (m 2 3) (m 0 2))
  | 0x5E => some (.prmt g f.dst f.sa s f.scOf)
  | 0x5F => some (.redg g f.dst f.sa (m 5 3) (m 3 2) (m 0 3))
  | 0x60 => some (.scan g f.dst f.sa (m 5 3) (m 3 2) (m 0 3) (f.sc.getLsbD 0))
  | 0x61 => some (.matchv g f.dst f.sa (b 0))
  | 0x64 => some (.ld g f.dst f.sa (f.moff pre) (c 7 3) (c 4 3) (f.sc.getLsbD 0) (m 5 3) (m 0 5) bp)
  | 0x65 => some (.st g f.dst f.sa (f.moff pre) (c 7 3) (c 4 3) (c 0 3) (m 5 3) (m 0 5) bp)
  | 0x66 => some (.sld f.dst f.sa (f.uoff pre) (c 7 3) (c 4 3) (f.sc.getLsbD 0) (m 5 3) (m 0 5) bp)
  | 0x67 => some (.sst f.dst f.sa (f.uoff pre) (c 7 3) (c 4 3) (m 5 3) (m 0 5) bp)
  | 0x68 => some (.atom g f.dst f.sa (f.moff pre) (c 7 3) (c 4 3) (m 5 3) (m 0 5) bp)
  | 0x69 => some (.satom f.dst f.sa (f.uoff pre) (c 7 3) (c 4 3) (m 5 3) (m 0 5) bp)
  | 0x6A => some (.srel f.dst f.sa (f.uoff pre) (c 7 3) (b 7) (m 5 2) (b 4))
  | 0x6B => some (.sacq f.dst f.sa (f.uoff pre) (c 7 3) (b 7) (b 4))
  | 0x6C => some (.fence (c 7 3) (m 5 3))
  | 0x6D => some (.wait (f.dst.extractLsb' 0 6) (f.sa.extractLsb' 0 6) (f.sb.extractLsb' 0 6) (f.sc.extractLsb' 0 6))
  | 0x6E => some (.prf g f.sa (f.moff pre) (f.sc.getLsbD 0))
  | 0x6F =>
    if m 0 2 = 0 then some (.cmoWb g f.sa (f.moff pre) (c 7 3))
    else if m 0 2 = 1 then some (.cmoWbinv g f.sa (f.moff pre) (c 7 3))
    else if m 0 2 = 2 then some (.cmoIinv g f.sa (f.moff pre) (c 7 3)) else none
  | 0x70 => some (.dcf f.sa f.sb (c 7 3))
  | 0x71 => some (.pclr f.dst f.sa f.sb)
  | 0x72 =>
    if m 0 3 = 0 then some (.cbarWait f.dst f.sa f.sb (c 7 3))
    else if m 0 3 = 1 then some (.cbarTest f.dst f.sa f.sb (c 7 3))
    else if m 0 3 = 2 then some (.cbarArm f.sa f.sb (c 7 3))
    else if m 0 3 = 3 then some (.cbarArrive f.sa f.sb (c 7 3)) else none
  | 0x73 => some (.cpq f.sa f.sb (m 0 3))
  | 0x74 => some (.tcfg f.dst s (b 0))
  | 0x75 => some .trel
  | 0x76 => some (.tzero f.dst (m 0 6))
  | 0x77 => some (.mma f.dst f.sa f.sb (c 7 3) (f.sc.getLsbD 6) (f.sc.getLsbD 5) (c 0 5) (m 6 2) (b 5) (m 0 5))
  | 0x78 => some (.tld f.dst f.sa (f.uoff pre) (c 7 3) (c 0 6) (b 5) (m 0 5))
  | 0x79 => some (.tst f.dst f.sa (f.uoff pre) (c 7 3) (c 0 6) (m 5 3) (m 0 5))
  | 0x7A =>
    if m 0 2 = 0 then some (.tmovTov f.dst f.sa)
    else if m 0 2 = 1 then some (.tmovFromv f.dst f.sa)
    else if m 0 2 = 2 then some (.tmovTot f.dst f.sa) else none
  | 0x7B => some (.mbat f.dst)
  | 0x7C => some (.mwait f.dst (b 0) s)
  | 0x7D => some (.tscl f.dst f.sa s f.sc (b 7) (m 3 3))
  | _ => none

/-! ### The checks of R151 -/

/-- The assigned control words (R352, R393). -/
def csrAssigned (n : BitVec 12) : Bool :=
  let k := n.toNat
  k ≤ 0x005 || (0x010 ≤ k && k ≤ 0x013) || (0x018 ≤ k && k ≤ 0x01C) || (0x020 ≤ k && k ≤ 0x023) || (0x030 ≤ k && k ≤ 0x03F)

/-- Control words held per gang, which the armature thread lacks (R351, R352). -/
def csrGangOnly (n : BitVec 12) : Bool := n == 0x005 || n == 0x012 || n == 0x013

/-- The low bits of an immediate. -/
def Imm.low (n : Nat) : Imm → BitVec n
  | .i20 v => v.setWidth n | .i48 v => v.setWidth n

/-- The immediate has no bit at or above `n`. -/
def Imm.fits (n : Nat) : Imm → Bool
  | .i20 v => v.toNat < 2 ^ n | .i48 v => v.toNat < 2 ^ n

/-- The immediate of a shaped operand, unsigned. -/
def Src.immNat : Src → Option Nat
  | .imm v => some v.toNat | .wide v => some v.toNat | .reg _ => none | .sreg _ => none | .nic _ => none

/-- A TYPE code that is assigned (R141). -/
def tyAssigned (t : BitVec 5) : Bool := t.toNat ≤ 0x16 && t != 0x0F

/-- The types of `sld` and `sst` (R165). -/
def tyScalar (t : BitVec 5) : Bool := t.toNat ≤ 0x0B || t == 0x0D || t == 0x0E

/-- The types of `mma`, `tld` and `tst` (R226). -/
def tyMat (t : BitVec 5) : Bool := t == 0x0D || t == 0x0E || (0x10 ≤ t.toNat && t.toNat ≤ 0x16)

/-- The types that narrow (R107, R108). -/
def tyNarrow (t : BitVec 5) : Bool := 0x10 ≤ t.toNat && t.toNat ≤ 0x16

/-- Registers that a type fills in one lane (R161). -/
def tyRegs (t : BitVec 5) : Nat :=
  if t == 0x03 || t == 0x07 || t == 0x0B then 2 else if t == 0x0C then 4 else 1

/-- The pairs of AOP and TYPE (R179). -/
def aopOk (aop : BitVec 3) (t : BitVec 5) : Bool :=
  let isB := t == 0x0A || t == 0x0B
  let isI := t == 0x02 || t == 0x03 || t == 0x06 || t == 0x07
  match aop.toNat with
  | 0 => isB | 1 => isB
  | 2 => isI || t == 0x0D
  | 3 => isI | 4 => isI
  | _ => isB

/-- Registers that an `atom` reads and writes (R179). -/
def atomRegs (aop : BitVec 3) (t : BitVec 5) : Nat :=
  (if t == 0x03 || t == 0x07 || t == 0x0B then 2 else 1) * (if aop == 1 then 2 else 1)

/-- A reduction code and type that go together (R222, R356). -/
def redOk (op : Nat) (isF : Bool) : Bool := op < 6 && !(isF && 3 ≤ op)

/-- An `n`-register group at a register (R86): aligned and within the allotment. -/
def vGrp (c : DCtx) (n : BitVec 10) (k : Nat) : Bool := n.toNat % k == 0 && n.toNat + k ≤ c.allot

/-- A field that names one of 64 registers (R135). -/
def r6 (n : BitVec 10) : Bool := n.toNat < 64

/-- A field that names a predicate (R135). -/
def pf (n : BitVec 10) : Bool := n.toNat < 16

/-- The guard (R138, R152). -/
def gOk (c : DCtx) (g : Gd) : Bool :=
  if c.arm then g.prd == 0 && !g.png else !(g.png && g.prd == 0)

/-- The head of an arithmetic word (R138, R139, R152). -/
def hOk (c : DCtx) (h : Hd) : Bool :=
  if c.arm then h.prd == 0 && !h.png && !h.u
  else if h.u then h.prd == 0 && !h.png else !(h.png && h.prd == 0)

/-- Scalar form: the U form or the armature core. -/
def scal (c : DCtx) (h : Hd) : Bool := c.arm || h.u

/-- A register of an arithmetic word: a group of `k` vector registers, or one s or x register. -/
def rH (c : DCtx) (h : Hd) (n : BitVec 10) (k : Nat := 1) : Bool := if scal c h then r6 n else vGrp c n k

/-- A shaped SB of an arithmetic word (R136, R139, R152). -/
def sH (c : DCtx) (h : Hd) (s : Src) (k : Nat := 1) : Bool :=
  match s with
  | .reg n => rH c h n k
  | .sreg n => !scal c h && r6 n
  | .nic n => r6 n
  | .imm _ => true
  | .wide _ => true

/-- A shaped SB that may not be an immediate. -/
def notImm : Src → Bool
  | .imm _ => false | .wide _ => false | .reg _ => true | .sreg _ => true | .nic _ => true

/-- A 20-bit immediate below 2^16 where its high four bits must be zero (R137, R203, R221). The bits above 15 of a prefix's PAYLOAD are
not tested: R148 asks nothing of them (log 36). -/
def imm16 : Src → Bool
  | .imm v => v.toNat < 65536 | .wide _ => true | .reg _ => true | .sreg _ => true | .nic _ => true

/-- "s register or immediate" of R329: on the armature core an x register under SHAPE 0b00 (R330). -/
def sI (c : DCtx) : Src → Bool
  | .reg n => c.arm && r6 n
  | .sreg n => !c.arm && r6 n
  | .nic _ => false
  | .imm _ => true
  | .wide _ => true

/-- The offset of `ld`, `st`, `atom`, `prf` and `cmo` (R158, R159, R150). -/
def moffOk (c : DCtx) (o : MOff) (b : Bpm) : Bool :=
  match o with
  | .idx n => !c.arm && n.toNat < c.allot
  | .off _ => true
  | .wide _ => b.isNone

/-- The offset of an opcode without IX. -/
def uoffOk (o : MOff) (b : Bpm) : Bool :=
  match o with
  | .idx _ => false
  | .off _ => true
  | .wide _ => b.isNone

/-- A data register of a memory access: a group of vector registers, or an x register. -/
def rM (c : DCtx) (n : BitVec 10) (k : Nat) : Bool := if c.arm then r6 n else vGrp c n k

/-- Opcodes that the armature core lacks, and the two that only it has (R152). -/
def avail (arm : Bool) : Instr → Bool
  | .mark .. | .merge | .brk _ | .cont _ | .regang | .join .. | .leave .. | .bar .. | .elect .. | .nred .. => !arm
  | .sel .. | .movx .. | .plog .. | .pmov .. | .sreg .. | .fdot2 .. | .pack .. | .unpk .. => !arm
  | .vote .. | .shfl .. | .prmt .. | .redg .. | .scan .. | .matchv .. | .sld .. | .sst .. | .satom .. => !arm
  | .tcfg .. | .trel | .tzero .. | .mma .. | .tld .. | .tst .. | .tmovTov .. | .tmovFromv .. | .tmovTot .. => !arm
  | .mbat .. | .mwait .. | .tscl .. => !arm
  | .hsr .. | .hsw .. => arm
  | .fadd _ _ _ _ bf _ | .fsub _ _ _ _ bf _ | .fmul _ _ _ _ bf _ | .fdiv _ _ _ _ bf _ | .fscale _ _ _ _ bf _ => !(arm && bf)
  | .fma _ _ _ _ _ bf _ | .fmin _ _ _ _ bf | .fmax _ _ _ _ bf | .fcmp _ _ _ _ bf _ => !(arm && bf)
  | .frcp _ _ _ bf _ | .fsqrt _ _ _ bf _ | .frnd _ _ _ bf _ | .ffrac _ _ _ bf _ => !(arm && bf)
  | .frsq _ _ _ bf | .fexp2 _ _ _ bf | .flog2 _ _ _ bf | .fsin _ _ _ bf | .fcos _ _ _ bf | .fclass _ _ _ bf => !(arm && bf)
  | _ => true

/-- The selector of `hsr` and `hsw`: part numbers (R358). -/
def hsPartOk (k : Nat) : Bool := k ≤ 9 || (16 ≤ k && k ≤ 80)

/-- Step 3 of R151: every defined field holds a code that the opcode accepts. -/
def codesOk (c : DCtx) : Instr → Bool
  | .bra _ ck _ _ => ck != 3
  | .mark kind _ => kind != 3
  | .bar _ _ _ red rop rty _ => rop.toNat < 6 && rty != 3 && !(red && rty == 2 && 3 ≤ rop.toNat)
  | .nred _ _ _ gop gty => gty.toNat < 5 && redOk gop.toNat (gty == 4)
  | .nctlGather _ _ gop gty => gty.toNat < 5 && redOk gop.toNat (gty == 4)
  | .csrr _ n => csrAssigned (n.low 12) && !(c.arm && csrGangOnly (n.low 12))
  | .csrw _ n => csrAssigned (n.low 12) && !(c.arm && csrGangOnly (n.low 12))
  | .hsr _ s => match s.immNat with | some v => hsPartOk (v / 256 % 128) | none => true
  | .hsw _ s => match s.immNat with | some v => hsPartOk (v / 256 % 128) | none => true
  | .iadd h _ _ _ it _ _ => scal c h || it.toNat < 2
  | .isub h _ _ _ it _ _ => scal c h || it.toNat < 2
  | .imul h _ _ _ it hw => hw != 3 && (scal c h || it.toNat < 2) && !(hw == 2 && 2 ≤ it.toNat)
  | .imad h _ _ _ _ it hw => hw != 3 && (scal c h || it.toNat < 2) && !(hw == 2 && 2 ≤ it.toNat)
  | .idiv h _ _ _ it _ => scal c h || it.toNat < 2
  | .imin h _ _ _ it => scal c h || it.toNat < 2
  | .imax h _ _ _ it => scal c h || it.toNat < 2
  | .iabs h _ _ it _ => (it == 0 || it == 2) && (scal c h || it.toNat < 2)
  | .ineg h _ _ it _ => (it == 0 || it == 2) && (scal c h || it.toNat < 2)
  | .icmp h _ _ _ it cmp => cmp.toNat < 6 && (scal c h || it.toNat < 2)
  | .lea h _ _ _ w _ => w == 0 || (w == 2 && scal c h)
  | .and h _ _ _ w => w == 0 || (w == 2 && scal c h)
  | .or h _ _ _ w => w == 0 || (w == 2 && scal c h)
  | .xor h _ _ _ w => w == 0 || (w == 2 && scal c h)
  | .not h _ _ w => w == 0 || (w == 2 && scal c h)
  | .shl h _ _ _ w => w == 0 || (w == 2 && scal c h)
  | .shr h _ _ _ w _ => w == 0 || (w == 2 && scal c h)
  | .rot h _ _ _ w => w == 0 || (w == 2 && scal c h)
  | .bfe h _ _ _ _ w _ => w == 0 || (w == 2 && scal c h)
  | .bfi h _ _ _ _ w => w == 0 || (w == 2 && scal c h)
  | .bfrev h _ _ w => w == 0 || (w == 2 && scal c h)
  | .bcnt h _ _ w bop => bop != 3 && (w == 0 || (w == 2 && scal c h))
  | .mov _ _ _ w => w == 0 || w == 2
  | .movi _ _ _ mt => mt != 7
  | .sreg _ _ sel => sel.toNat < 11
  | .fadd _ _ _ _ _ r => rndOk r
  | .fsub _ _ _ _ _ r => rndOk r
  | .fmul _ _ _ _ _ r => rndOk r
  | .fma _ _ _ _ _ _ r => rndOk r
  | .frcp _ _ _ _ r => rndOk r
  | .fsqrt _ _ _ _ r => rndOk r
  | .fdiv _ _ _ _ _ r => rndOk r
  | .frnd _ _ _ _ r => rndOk r
  | .fscale _ _ _ _ _ r => rndOk r
  | .ffrac _ _ _ _ r => rndOk r
  | .fdot2 _ _ _ _ _ r => rndOk r
  | .cvt h _ _ cv r => cv.toNat < 14 && rndOk r && (scal c h || !(4 ≤ cv.toNat && cv.toNat ≤ 11))
  | .pack _ _ _ _ pk r => pk.toNat < 5 && rndOk r
  | .unpk _ _ _ uk el => uk.toNat < 5 && !(uk.toNat ≤ 2 && 2 ≤ el.toNat)
  | .shfl _ _ _ _ segl _ => segl.toNat < 6
  | .redg _ _ _ rop rty r => rty != 3 && redOk rop.toNat (rty == 2) && rndOk r
  | .scan _ _ _ rop rty r _ => rty != 3 && redOk rop.toNat (rty == 2) && rndOk r
  | .ld _ _ _ _ scope pol _ ord ty _ => scope.toNat < 5 && pol.toNat < 5 && ord.toNat < 2 && tyAssigned ty && !(c.arm && ty == 0x0C)
  | .st _ _ _ _ scope pol r ord ty _ =>
    scope.toNat < 5 && pol.toNat < 4 && rndOk r && (ord == 0 || ord == 2) && tyAssigned ty && !(c.arm && ty == 0x0C)
  | .sld _ _ _ scope pol _ ord ty _ => scope.toNat < 5 && pol.toNat < 5 && ord.toNat < 2 && tyScalar ty
  | .sst _ _ _ scope pol ord ty _ => scope.toNat < 5 && pol.toNat < 4 && (ord == 0 || ord == 2) && tyScalar ty
  | .atom _ _ _ _ scope aop ord ty _ => scope.toNat < 5 && ord.toNat < 5 && aopOk aop ty
  | .satom _ _ _ scope aop ord ty _ => scope.toNat < 5 && ord.toNat < 5 && aopOk aop ty
  | .srel _ _ _ scope _ sop _ => 1 ≤ scope.toNat && scope.toNat < 5 && sop != 3
  | .sacq _ _ _ scope _ _ => 1 ≤ scope.toNat && scope.toNat < 5
  | .fence scope ord => scope.toNat < 5 && 1 ≤ ord.toNat && ord.toNat < 5
  | .cmoWb _ _ _ scope => 2 ≤ scope.toNat && scope.toNat < 5
  | .cmoWbinv _ _ _ scope => 2 ≤ scope.toNat && scope.toNat < 5
  | .cmoIinv _ _ _ scope => scope == 1
  | .dcf _ _ scope => 2 ≤ scope.toNat && scope.toNat < 5
  | .cbarWait _ _ _ scope => 1 ≤ scope.toNat && scope.toNat < 5
  | .cbarTest _ _ _ scope => 1 ≤ scope.toNat && scope.toNat < 5
  | .cbarArm _ _ scope => scope == 0
  | .cbarArrive _ _ scope => scope.toNat < 5
  | .mma _ _ _ r _ _ _ kb x3 ty => rndOk r && kb != 3 && tyMat ty && (!x3 || ty == 0x0E)
  | .tld _ _ _ pol _ _ ty => pol.toNat < 5 && tyMat ty
  | .tst _ _ _ pol _ r ty => pol.toNat < 4 && rndOk r && tyMat ty
  | .tscl _ _ _ _ _ r => rndOk r
  | _ => true

/-- Vector registers that `tmov` uses: 256 elements over the gang's lanes, rounded up (R243). -/
def tmovRegs (lanes : Nat) : Nat := if lanes = 0 then 256 else (256 + lanes - 1) / lanes

/-- Step 4 of R151 but for the unused bits: guards, shapes, field values and register numbers. -/
def encOk (c : DCtx) : Instr → Bool
  | .nop g => gOk c g
  | .bra g ck sa _ => gOk c g && (if ck == 0 then sa == 0 else r6 sa)
  | .bri g uni sb => gOk c g && (if uni then !c.arm && r6 sb else rM c sb 2)
  | .call dst sb => r6 dst && sI c sb
  | .ret sa => r6 sa
  | .exit g => gOk c g
  | .brk g => gOk c g
  | .cont g => gOk c g
  | .join g dst sb => gOk c g && vGrp c dst 1 && (match sb with | .reg n => vGrp c n 1 | _ => sI c sb)
  | .leave g sb => gOk c g && (match sb with | .reg n => vGrp c n 1 | _ => sI c sb)
  | .bar g dst sb red rop rty sc =>
    gOk c g && sI c sb
      && (if red then notImm sb && vGrp c dst 1 && vGrp c sc 1 else dst == 0 && rop == 0 && rty == 0 && sc == 0)
  | .elect g dst => gOk c g && pf dst
  | .trapUser g _ => gOk c g
  | .trapBkpt g _ => gOk c g
  | .rett sa _ => r6 sa
  | .svc g dst sa sb sc => gOk c g && r6 dst && rM c sa 2 && notImm sb && sI c sb && r6 sc
  | .spawn dst sa sb => r6 dst && r6 sa && sI c sb
  | .mwatch sa => r6 sa
  | .msleep dst sb => r6 dst && sI c sb
  | .pause sb => sI c sb
  | .csrr dst n => r6 dst && n.fits 12
  | .csrw sa n => r6 sa && n.fits 12
  | .nw dst sa sb w vs =>
    r6 dst && sI c sb && (match sb.immNat with | some v => v < 256 | none => true)
      && (if vs then !c.arm && vGrp c sa (if w then 2 else 1) else !w && r6 sa)
  | .nrPeek dst sa => r6 dst && r6 sa
  | .nrTake dst sa => r6 dst && r6 sa
  | .nred g dst sa _ gty => gOk c g && r6 dst && vGrp c sa (if gty == 2 || gty == 3 then 2 else 1)
  | .nctlGather dst sb _ _ => r6 dst && sI c sb && (match sb.immNat with | some v => 1 ≤ v && v < 256 | none => true)
  | .nctlBcast dst sb => r6 dst && sI c sb && (match sb.immNat with | some v => v == 0 | none => sb.sb == 0)
  | .nctlEmpty dst sb => r6 dst && sI c sb && (match sb.immNat with | some v => v == 0 | none => sb.sb == 0)
  | .hsr dst sb =>
    r6 dst && (match sb with | .reg n => r6 n | .sreg _ => false | .nic _ => false | _ => true)
      && (match sb.immNat with | some v => v < 2 ^ 15 && v / 64 % 4 == 0 | none => true)
  | .hsw sa sb =>
    r6 sa && (match sb with | .reg n => r6 n | .sreg _ => false | .nic _ => false | _ => true)
      && (match sb.immNat with | some v => v < 2 ^ 15 && v / 64 % 4 == 0 | none => true)
  | .iadd h dst sa sb _ cy cp =>
    hOk c h && rH c h dst && rH c h sa && sH c h sb && (if cy == 0 || cy == 3 then cp == 0 else !scal c h)
  | .isub h dst sa sb _ cy cp =>
    hOk c h && rH c h dst && rH c h sa && sH c h sb && (if cy == 0 || cy == 3 then cp == 0 else !scal c h)
  | .imul h dst sa sb _ hw => hOk c h && rH c h dst (if hw == 2 then 2 else 1) && rH c h sa && sH c h sb
  | .imad h dst sa sb sc _ hw =>
    hOk c h && rH c h dst (if hw == 2 then 2 else 1) && rH c h sa && sH c h sb && notImm sb && rH c h sc (if hw == 2 then 2 else 1)
  | .idiv h dst sa sb _ _ => hOk c h && rH c h dst && rH c h sa && sH c h sb
  | .imin h dst sa sb _ => hOk c h && rH c h dst && rH c h sa && sH c h sb
  | .imax h dst sa sb _ => hOk c h && rH c h dst && rH c h sa && sH c h sb
  | .iabs h dst sa _ _ => hOk c h && rH c h dst && rH c h sa
  | .ineg h dst sa _ _ => hOk c h && rH c h dst && rH c h sa
  | .icmp h dst sa sb _ _ => hOk c h && (if scal c h then r6 dst else pf dst) && rH c h sa && sH c h sb
  | .idp4 h dst sa sb sc _ _ => hOk c h && rH c h dst && rH c h sa && sH c h sb && notImm sb && rH c h sc
  | .lea h dst sa sb _ _ => hOk c h && rH c h dst && rH c h sa && sH c h sb
  | .and h dst sa sb _ => hOk c h && rH c h dst && rH c h sa && sH c h sb
  | .or h dst sa sb _ => hOk c h && rH c h dst && rH c h sa && sH c h sb
  | .xor h dst sa sb _ => hOk c h && rH c h dst && rH c h sa && sH c h sb
  | .not h dst sa _ => hOk c h && rH c h dst && rH c h sa
  | .shl h dst sa sb _ => hOk c h && rH c h dst && rH c h sa && sH c h sb
  | .shr h dst sa sb _ _ => hOk c h && rH c h dst && rH c h sa && sH c h sb
  | .rot h dst sa sb _ => hOk c h && rH c h dst && rH c h sa && sH c h sb
  | .bfe h dst sa sb sc _ _ =>
    hOk c h && rH c h dst && rH c h sa && sH c h sb && imm16 sb && (if notImm sb then rH c h sc else sc == 0)
  | .bfi h dst sa sb sc _ =>
    hOk c h && rH c h dst && rH c h sa && sH c h sb && imm16 sb && (if notImm sb then rH c h sc else sc == 0)
  | .bfrev h dst sa _ => hOk c h && rH c h dst && rH c h sa
  | .bcnt h dst sa _ _ => hOk c h && rH c h dst && rH c h sa
  | .sad h dst sa sb sc _ _ => hOk c h && rH c h dst && rH c h sa && sH c h sb && notImm sb && rH c h sc
  | .mov h dst sb w => hOk c h && rH c h dst (if w == 2 then 2 else 1) && sH c h sb (if w == 2 then 2 else 1)
  | .movi h dst imm mt => hOk c h && rH c h dst (if mt == 6 then 2 else 1) && (if mt == 3 then imm16 imm.src else true)
  | .sel g dst sa sb sc => gOk c g && vGrp c dst 1 && vGrp c sa 1 && sH c ⟨g.prd, g.png, false⟩ sb && notImm sb && pf sc
  | .movx g dst sa _ => gOk c g && vGrp c dst 1 && vGrp c sa 1
  | .plog g dst sa sb _ => gOk c g && pf dst && pf sa && pf sb
  | .pmov g dst sa dir =>
    gOk c g && (if dir == 0 then vGrp c dst 1 && pf sa else if dir == 1 then pf dst && vGrp c sa 1
      else if dir == 2 then r6 dst && pf sa else pf dst && r6 sa)
  | .sreg g dst _ => gOk c g && vGrp c dst 1
  | .fadd h dst sa sb bf _ => hOk c h && rH c h dst && rH c h sa && sH c h sb && (!bf || imm16 sb)
  | .fsub h dst sa sb bf _ => hOk c h && rH c h dst && rH c h sa && sH c h sb && (!bf || imm16 sb)
  | .fmul h dst sa sb bf _ => hOk c h && rH c h dst && rH c h sa && sH c h sb && (!bf || imm16 sb)
  | .fma h dst sa sb sc _ _ => hOk c h && rH c h dst && rH c h sa && sH c h sb && notImm sb && rH c h sc
  | .fmin h dst sa sb bf => hOk c h && rH c h dst && rH c h sa && sH c h sb && (!bf || imm16 sb)
  | .fmax h dst sa sb bf => hOk c h && rH c h dst && rH c h sa && sH c h sb && (!bf || imm16 sb)
  | .fcmp h dst sa sb bf _ =>
    hOk c h && (if scal c h then r6 dst else pf dst && (!bf || dst.toNat % 2 == 0)) && rH c h sa && sH c h sb && (!bf || imm16 sb)
  | .frcp h dst sa _ _ => hOk c h && rH c h dst && rH c h sa
  | .frsq h dst sa _ => hOk c h && rH c h dst && rH c h sa
  | .fsqrt h dst sa _ _ => hOk c h && rH c h dst && rH c h sa
  | .fexp2 h dst sa _ => hOk c h && rH c h dst && rH c h sa
  | .flog2 h dst sa _ => hOk c h && rH c h dst && rH c h sa
  | .fsin h dst sa _ => hOk c h && rH c h dst && rH c h sa
  | .fcos h dst sa _ => hOk c h && rH c h dst && rH c h sa
  | .fdiv h dst sa sb bf _ => hOk c h && rH c h dst && rH c h sa && sH c h sb && (!bf || imm16 sb)
  | .frnd h dst sa _ _ => hOk c h && rH c h dst && rH c h sa
  | .fclass h dst sa _ => hOk c h && rH c h dst && rH c h sa
  | .fscale h dst sa sb _ _ => hOk c h && rH c h dst && rH c h sa && sH c h sb && notImm sb
  | .ffrac h dst sa _ _ => hOk c h && rH c h dst && rH c h sa
  | .fdot2 h dst sa sb sc _ => hOk c h && rH c h dst && rH c h sa && sH c h sb && notImm sb && rH c h sc
  | .cvt h dst sa cv r => hOk c h && rH c h dst && rH c h sa && (cv.toNat < 8 || r == 0)
  | .pack h dst sa sb pk r => hOk c h && rH c h dst && rH c h sa && sH c h sb && (pk == 0 || r == 0)
  | .unpk h dst sa _ _ => hOk c h && rH c h dst && rH c h sa
  | .vote g dst sa vop => gOk c g && pf sa && (if vop.toNat < 2 then pf dst else r6 dst)
  | .shfl g dst sa sb _ _ => gOk c g && vGrp c dst 1 && vGrp c sa 1 && sH c ⟨g.prd, g.png, false⟩ sb
  | .prmt g dst sa sb sc =>
    gOk c g && vGrp c dst 1 && vGrp c sa 1 && sH c ⟨g.prd, g.png, false⟩ sb && imm16 sb
      && (if notImm sb then vGrp c sc 1 else sc == 0)
  | .redg g dst sa rop rty r => gOk c g && vGrp c dst 1 && vGrp c sa 1 && (r == 0 || (rop == 0 && rty == 2))
  | .scan g dst sa rop rty r _ => gOk c g && vGrp c dst 1 && vGrp c sa 1 && (r == 0 || (rop == 0 && rty == 2))
  | .matchv g dst sa mop => gOk c g && vGrp c sa 1 && (if mop then pf dst else vGrp c dst 1)
  | .ld g dst sa off scope _ _ ord ty bpm =>
    gOk c g && rM c dst (tyRegs ty) && r6 sa && moffOk c off bpm && (ord != 0 || scope == 0)
  | .st g dst sa off scope _ r ord ty bpm =>
    gOk c g && rM c dst (tyRegs ty) && r6 sa && moffOk c off bpm && (ord != 0 || scope == 0) && (tyNarrow ty || r == 0)
  | .sld dst sa off scope _ _ ord _ bpm => r6 dst && r6 sa && uoffOk off bpm && (ord != 0 || scope == 0)
  | .sst dst sa off scope _ ord _ bpm => r6 dst && r6 sa && uoffOk off bpm && (ord != 0 || scope == 0)
  | .atom g dst sa off _ aop _ ty bpm =>
    gOk c g && (if c.arm then r6 dst && (aop != 1 || dst.toNat % 2 == 0) else vGrp c dst (atomRegs aop ty)) && r6 sa
      && moffOk c off bpm
  | .satom dst sa off _ aop _ _ bpm => r6 dst && (aop != 1 || dst.toNat % 2 == 0) && r6 sa && uoffOk off bpm
  | .srel dst sa off _ _ _ _ => r6 dst && r6 sa && uoffOk off none
  | .sacq dst sa off _ _ _ => r6 dst && r6 sa && uoffOk off none
  | .wait _ _ _ mxn => !c.arm || mxn == 63
  | .prf g sa off _ => gOk c g && r6 sa && moffOk c off none
  | .cmoWb g sa off _ => gOk c g && r6 sa && moffOk c off none
  | .cmoWbinv g sa off _ => gOk c g && r6 sa && moffOk c off none
  | .cmoIinv g sa off _ => gOk c g && r6 sa && moffOk c off none
  | .dcf sa sb _ => r6 sa && r6 sb
  | .pclr dst sa sb => r6 dst && r6 sa && r6 sb && sb.toNat % 8 == 0
  | .cbarWait dst sa sb _ => r6 dst && r6 sa && r6 sb
  | .cbarTest dst sa sb _ => r6 dst && r6 sa && r6 sb
  | .cbarArm sa sb _ => r6 sa && r6 sb
  | .cbarArrive sa sb _ => r6 sa && r6 sb
  | .cpq sa sb _ => r6 sa && sa.toNat % 8 == 0 && r6 sb
  | .tcfg dst sb _ => r6 dst && sI c sb
  | .tzero dst _ => r6 dst
  | .mma dst sa sb _ _ _ _ _ _ _ => r6 dst && sa.toNat ≤ 61 && sb.toNat ≤ 61
  | .tld dst sa off _ _ _ _ => r6 dst && r6 sa && uoffOk off none
  | .tst dst sa off _ _ r ty => r6 dst && r6 sa && uoffOk off none && (ty != 0x0D || r == 0)
  | .tmovTov dst sa => dst.toNat % 8 == 0 && dst.toNat + tmovRegs c.lanes ≤ c.allot && r6 sa
  | .tmovFromv dst sa => r6 dst && sa.toNat % 8 == 0 && sa.toNat + tmovRegs c.lanes ≤ c.allot
  | .tmovTot dst sa => r6 dst && r6 sa
  | .mbat dst => r6 dst
  | .mwait dst all sb => r6 dst && (if all then sb == .reg 0 else sI c sb)
  | .tscl dst sa sb sc _ _ =>
    r6 dst && r6 sa && (match sb with | .sreg n => r6 n | .nic n => r6 n | _ => false) && r6 sc
  | _ => true

/-- Step 5 of R151: every tile field lies below the gang's tile count (R89, R225). -/
def tilesOk (c : DCtx) : Instr → Bool
  | .tzero dst cnt => dst.toNat + cnt.toNat + 1 ≤ c.tiles
  | .mma dst _ _ _ _ _ _ _ _ _ => dst.toNat < c.tiles
  | .tld dst _ _ _ _ _ _ => dst.toNat < c.tiles
  | .tst dst _ _ _ _ _ _ => dst.toNat < c.tiles
  | .tmovTov _ sa => sa.toNat < c.tiles
  | .tmovFromv dst _ => dst.toNat < c.tiles
  | .tmovTot dst sa => dst.toNat < c.tiles && sa.toNat < c.tiles
  | .tscl dst sa _ _ _ _ => dst.toNat < c.tiles && sa.toNat < c.tiles
  | _ => true

/-- A full word behind a prefix, decoded in the order of R151. -/
def decodeFull (c : DCtx) (pre : Pre) (exact : Bool) (f : Fld) : Except DecTrap Instr :=
  match parseF pre f with
  | none => .error .illOpc
  | some i =>
    if !avail c.arm i then .error .illOpc
    else if !codesOk c i then .error .illOpc
    else if !exact || encF i != some (pre, f) || !encOk c i then .error .illEnc
    else if !tilesOk c i then .error .tileRange
    else .ok i

/-! ### Pair words (R143 to R146) -/

/-- The pair opcodes by code. -/
def popList : List Pop :=
  [.pnop, .iadd, .isub, .imul, .iminI, .imaxI, .iminN, .imaxN, .ineg, .iabs, .and, .or, .xor, .not, .shlImm, .shrLImm]
    ++ [.shrAImm, .rotImm, .shl, .shrL, .shrA, .popc, .clz, .ctz, .bfrev, .mov, .movi, .movx, .faddF, .fsubF, .fmulF, .fminF]
    ++ [.fmaxF, .faddB, .fsubB, .fmulB, .fminB, .fmaxB, .pack, .unpk, .cvtFI, .cvtFN, .cvtIF, .cvtNF, .icmpI, .icmpN, .fcmpF]

/-- The code of a pair opcode (R146). -/
def Pop.code (p : Pop) : BitVec 6 := BitVec.ofNat 6 (popList.idxOf p)

/-- The 31 bits of a slot (R143). -/
def Slot.word (s : Slot) : BitVec 31 :=
  (s.op.code ++ s.a.prd ++ s.a.d ++ s.a.s ++ s.a.m : BitVec (6 + 3 + 8 + 8 + 6))

/-- The slot in 31 bits, if its opcode is assigned. -/
def Slot.read (w : BitVec 31) : Option Slot :=
  match popList[(w.extractLsb' 25 6).toNat]? with
  | some op => some ⟨op, ⟨w.extractLsb' 22 3, w.extractLsb' 14 8, w.extractLsb' 6 8, w.extractLsb' 0 6⟩⟩
  | none => none

/-- The vector register that an 8-bit field names in slot A (`hi` false) or B (R144). -/
def slotReg (hi : Bool) (f : BitVec 8) : BitVec 10 :=
  (0#1 ++ f.extractLsb' 2 6 ++ bit hi ++ f.extractLsb' 0 2 : BitVec (1 + 6 + 1 + 2))

/-- RND in PMOD[2:0]. -/
def SlotArgs.rnd (a : SlotArgs) : BitVec 3 := a.m.extractLsb' 0 3

/-- The predicate of a compare: PMOD[5:3]. -/
def SlotArgs.k (a : SlotArgs) : BitVec 3 := a.m.extractLsb' 3 3

/-- How a pair opcode uses PMOD. -/
inductive PmodUse where
  | zero | sh | bits | tag | rnd | el | cmp
  deriving DecidableEq, Repr

/-- The use of PMOD by each pair opcode (R146). -/
def Pop.use : Pop → PmodUse
  | .pnop | .iadd | .isub | .imul | .iminI | .imaxI | .iminN | .imaxN | .ineg | .iabs | .and | .or | .xor | .not => .zero
  | .shl | .shrL | .shrA | .popc | .clz | .ctz | .bfrev | .mov | .fminF | .fmaxF | .fminB | .fmaxB => .zero
  | .shlImm | .shrLImm | .shrAImm | .rotImm => .sh
  | .movi => .bits
  | .movx => .tag
  | .faddF | .fsubF | .fmulF | .faddB | .fsubB | .fmulB | .pack | .cvtFI | .cvtFN | .cvtIF | .cvtNF => .rnd
  | .unpk => .el
  | .icmpI | .icmpN | .fcmpF => .cmp

/-- Assigned codes of a slot's PMOD (R146). -/
def Slot.codesOk (s : Slot) : Bool :=
  match s.op.use with
  | .rnd => rndOk s.a.rnd
  | .cmp => s.a.rnd.toNat < 6
  | _ => true

/-- Unused PMOD bits are zero and the registers lie within the allotment (R144, R146). -/
def Slot.encOk (allot : Nat) (hi : Bool) (s : Slot) : Bool :=
  let d := (slotReg hi s.a.d).toNat < allot
  let r := (slotReg hi s.a.s).toNat < allot
  (match s.op.use with
    | .zero => s.a.m == 0
    | .sh => s.a.m.toNat < 32
    | .bits => true
    | .tag => s.a.m.toNat < 16
    | .rnd => s.a.m.toNat < 8
    | .el => s.a.m == 0 || s.a.m == 8
    | .cmp => true)
  && (match s.op with
    | .pnop => s.a.prd == 0 && s.a.d == 0 && s.a.s == 0
    | .movi => d
    | _ => d && r)

/-- The predicate a slot writes, if it is a compare. -/
def Slot.pdst (s : Slot) : Option (BitVec 3) := if s.op.use = .cmp then some s.a.k else none

/-- The pair instruction of a slot A and a slot B. -/
def mkPair (a b : Slot) : Instr :=
  match a.op with
  | .pnop => .pairPnop a.a b | .iadd => .pairIadd a.a b | .isub => .pairIsub a.a b | .imul => .pairImul a.a b
  | .iminI => .pairIminI a.a b | .imaxI => .pairImaxI a.a b | .iminN => .pairIminN a.a b | .imaxN => .pairImaxN a.a b
  | .ineg => .pairIneg a.a b | .iabs => .pairIabs a.a b | .and => .pairAnd a.a b | .or => .pairOr a.a b
  | .xor => .pairXor a.a b | .not => .pairNot a.a b | .shlImm => .pairShlImm a.a b | .shrLImm => .pairShrLImm a.a b
  | .shrAImm => .pairShrAImm a.a b | .rotImm => .pairRotImm a.a b | .shl => .pairShl a.a b | .shrL => .pairShrL a.a b
  | .shrA => .pairShrA a.a b | .popc => .pairPopc a.a b | .clz => .pairClz a.a b | .ctz => .pairCtz a.a b
  | .bfrev => .pairBfrev a.a b | .mov => .pairMov a.a b | .movi => .pairMovi a.a b | .movx => .pairMovx a.a b
  | .faddF => .pairFaddF a.a b | .fsubF => .pairFsubF a.a b | .fmulF => .pairFmulF a.a b | .fminF => .pairFminF a.a b
  | .fmaxF => .pairFmaxF a.a b | .faddB => .pairFaddB a.a b | .fsubB => .pairFsubB a.a b | .fmulB => .pairFmulB a.a b
  | .fminB => .pairFminB a.a b | .fmaxB => .pairFmaxB a.a b | .pack => .pairPack a.a b | .unpk => .pairUnpk a.a b
  | .cvtFI => .pairCvtFI a.a b | .cvtFN => .pairCvtFN a.a b | .cvtIF => .pairCvtIF a.a b | .cvtNF => .pairCvtNF a.a b
  | .icmpI => .pairIcmpI a.a b | .icmpN => .pairIcmpN a.a b | .fcmpF => .pairFcmpF a.a b

/-- The slots of a pair instruction. -/
def pairSlots : Instr → Option (Slot × Slot)
  | .pairPnop a b => some (⟨.pnop, a⟩, b) | .pairIadd a b => some (⟨.iadd, a⟩, b) | .pairIsub a b => some (⟨.isub, a⟩, b)
  | .pairImul a b => some (⟨.imul, a⟩, b) | .pairIminI a b => some (⟨.iminI, a⟩, b) | .pairImaxI a b => some (⟨.imaxI, a⟩, b)
  | .pairIminN a b => some (⟨.iminN, a⟩, b) | .pairImaxN a b => some (⟨.imaxN, a⟩, b) | .pairIneg a b => some (⟨.ineg, a⟩, b)
  | .pairIabs a b => some (⟨.iabs, a⟩, b) | .pairAnd a b => some (⟨.and, a⟩, b) | .pairOr a b => some (⟨.or, a⟩, b)
  | .pairXor a b => some (⟨.xor, a⟩, b) | .pairNot a b => some (⟨.not, a⟩, b) | .pairShlImm a b => some (⟨.shlImm, a⟩, b)
  | .pairShrLImm a b => some (⟨.shrLImm, a⟩, b) | .pairShrAImm a b => some (⟨.shrAImm, a⟩, b)
  | .pairRotImm a b => some (⟨.rotImm, a⟩, b) | .pairShl a b => some (⟨.shl, a⟩, b) | .pairShrL a b => some (⟨.shrL, a⟩, b)
  | .pairShrA a b => some (⟨.shrA, a⟩, b) | .pairPopc a b => some (⟨.popc, a⟩, b) | .pairClz a b => some (⟨.clz, a⟩, b)
  | .pairCtz a b => some (⟨.ctz, a⟩, b) | .pairBfrev a b => some (⟨.bfrev, a⟩, b) | .pairMov a b => some (⟨.mov, a⟩, b)
  | .pairMovi a b => some (⟨.movi, a⟩, b) | .pairMovx a b => some (⟨.movx, a⟩, b) | .pairFaddF a b => some (⟨.faddF, a⟩, b)
  | .pairFsubF a b => some (⟨.fsubF, a⟩, b) | .pairFmulF a b => some (⟨.fmulF, a⟩, b) | .pairFminF a b => some (⟨.fminF, a⟩, b)
  | .pairFmaxF a b => some (⟨.fmaxF, a⟩, b) | .pairFaddB a b => some (⟨.faddB, a⟩, b) | .pairFsubB a b => some (⟨.fsubB, a⟩, b)
  | .pairFmulB a b => some (⟨.fmulB, a⟩, b) | .pairFminB a b => some (⟨.fminB, a⟩, b) | .pairFmaxB a b => some (⟨.fmaxB, a⟩, b)
  | .pairPack a b => some (⟨.pack, a⟩, b) | .pairUnpk a b => some (⟨.unpk, a⟩, b) | .pairCvtFI a b => some (⟨.cvtFI, a⟩, b)
  | .pairCvtFN a b => some (⟨.cvtFN, a⟩, b) | .pairCvtIF a b => some (⟨.cvtIF, a⟩, b) | .pairCvtNF a b => some (⟨.cvtNF, a⟩, b)
  | .pairIcmpI a b => some (⟨.icmpI, a⟩, b) | .pairIcmpN a b => some (⟨.icmpN, a⟩, b) | .pairFcmpF a b => some (⟨.fcmpF, a⟩, b)
  | _ => none

/-- Two compare slots write one predicate other than p0 (R145). -/
def pairClash (a b : Slot) : Bool :=
  match a.pdst, b.pdst with
  | some x, some y => x == y && x != 0
  | _, _ => false

/-- A pair word, decoded in the order of R151. -/
def decodePair (c : DCtx) (w : Word) : Except DecTrap Instr :=
  if c.arm then .error .illOpc
  else match Slot.read (w.extractLsb' 31 31), Slot.read (w.extractLsb' 0 31) with
    | some a, some b =>
      if !a.codesOk || !b.codesOk then .error .illOpc
      else if !a.encOk c.allot false || !b.encOk c.allot true || pairClash a b then .error .illEnc
      else .ok (mkPair a b)
    | _, _ => .error .illOpc

/-! ### Issue units -/

/-- The issue unit at two consecutive words: the instruction, or the trap of R151. Total on any two words. -/
def decodeUnit (c : DCtx) (w0 w1 : Word) : Except DecTrap Instr :=
  let form := w0.extractLsb' 62 2
  if form = 3 then .error .illEnc
  else if form = 2 then
    if w1.extractLsb' 62 2 ≠ 0 then .error .illEnc
    else
      let kind := w0.extractLsb' 58 4
      if kind = 0 then
        let pre := Pre.wide (w0.extractLsb' 10 48)
        decodeFull c pre (pre.word == some w0) (Fld.split w1)
      else if kind = 1 then
        let pre := Pre.bpm (w0.extractLsb' 53 4)
        decodeFull c pre (pre.word == some w0) (Fld.split w1)
      else .error .illOpc
  else if form = 1 then decodePair c w0
  else decodeFull c .none true (Fld.split w0)

/-- The words of an instruction: one, or a prefix and a full word; none for an event. -/
def encode (i : Instr) : List Word :=
  match pairSlots i with
  | some (a, b) => [(0b01#2 ++ a.word ++ b.word : BitVec (2 + 31 + 31))]
  | none =>
    match encF i with
    | some (pre, f) => match pre.word with | some p => [p, f.join] | none => [f.join]
    | none => []

/-- Bytes of the issue unit that starts with this word (R132): a prefix makes it two words long. -/
def unitBytes (w0 : Word) : Nat := if w0.extractLsb' 62 2 = 2 then 16 else 8

/-- The context in which the host's words are decoded: the largest gang. -/
def DCtx.full : DCtx := ⟨false, 1024, 64, 32⟩

/-- The armature core. -/
def DCtx.armature : DCtx := ⟨true, 0, 0, 1⟩

/-- The first word of an instruction whose bits are `w`: words are little-endian and 8-byte aligned (R132), so bit 0 of
the first word is bit 0 and the second word follows at bit 64. -/
def tableWord (k w : Nat) : Word := BitVec.ofNat 64 (w / 2 ^ (64 * k))

/-- The instruction read from an instruction whose bits are `w`: by a gang of the largest allotment, or, for the two
opcodes that only the armature core has, by an armature thread. -/
def decodeTableWord (nbits w : Nat) : Option Instr :=
  let v := w % 2 ^ nbits
  match decodeUnit .full (tableWord 0 v) (tableWord 1 v) with
  | .ok i => some i
  | .error _ =>
    match decodeUnit .armature (tableWord 0 v) (tableWord 1 v) with
    | .ok i => some i
    | .error _ => none

end Sys2Proof
end

