-- ==== Sys2Proof/Machine/State.lean ====
section
/-! DEFINITION. The state of the package: threads, clusters, dies, memory, caches and directories, engines, tasks, the
maquette and the outside, as plain data. `State.reset` is the machine right after die reset. -/

namespace Sys2Proof.Machine

/-! ### Threads -/

/-- A gang or an armature thread (R312, R322). -/
inductive TKind where
  | gang | armature
  deriving DecidableEq, Repr

/-- A token entry (R315). -/
structure Token where
  /-- 0 JOIN, 1 BREAK, 2 CONT, 3 PEND. -/
  kind : BitVec 2
  mask : BitVec 4
  target : BitVec 54
  deriving DecidableEq, Repr

/-- What a slice's group waits for. -/
inductive Wait where
  | none
  /-- At `regang` (R317). -/
  | regang
  /-- At a cohort barrier of this handle (R339). -/
  | bar (handle : Nat)
  /-- In a pause that ends at this arithmetic clock (R350). -/
  | pause (till : Nat)
  /-- Asleep (R349). -/
  | sleep
  /-- The unit's condition did not hold when it was last tried; `long` says whether the wait is a long-latency dependence. -/
  | again (long : Bool)
  /-- The unit has completed after a wait and STEP is due (R394). -/
  | step
  deriving DecidableEq, Repr

/-- A slice: program counter, masks, token stack with the top first, group, last issue, wait (R312 to R317). -/
structure Slice where
  pc : Word
  active : BitVec 4
  live : BitVec 4
  stack : List Token
  grp : Nat
  last : Nat
  wait : Wait
  deriving DecidableEq, Repr

/-- The registers of a thread (R84). -/
structure Regs where
  /-- Vector registers: register `n`, lane `l` at key 32 n + l. -/
  v : SMap 32
  vtag : SMap 4
  /-- s0 to s63, or x0 to x63. -/
  r : SMap 64
  rpois : BitVec 64
  /-- p1 to p15, one bit a lane. -/
  p : SMap 32
  ppois : BitVec 16
  /-- Tiles: tile `t`, element `e` at key 256 t + e. -/
  tile : SMap 32
  ttag : SMap 4
  /-- The bank of names 56 to 63 that is switched out (R395). -/
  hbank : SMap 64
  hpois : BitVec 8
  deriving DecidableEq, Repr

/-- The control words held per thread (R352, R393) and the running patina (R285). -/
structure Ctl where
  rmode : BitVec 3
  fflags : BitVec 5
  tagchk : Bool
  bpm : BitVec 4
  mxerr : BitVec 18
  prvSize : BitVec 32
  dbgctl : Word
  patina : Patina
  deriving DecidableEq, Repr

/-- Where a thread stands (R372, R445). Armature threads have core, partition and slot 0. -/
structure Place where
  die : Nat
  cl : Nat
  core : Nat
  part : Nat
  slot : Nat
  deriving DecidableEq, Repr

/-- An outstanding operation (R188, R245). -/
inductive OutOp where
  | load
  | store
  | tile (t : Nat)
  deriving DecidableEq, Repr

/-- An armed watch and whether its event is latched (R348). -/
structure Watch where
  la : Nat
  event : Bool
  deriving DecidableEq, Repr

/-- A sleep: where its reason goes, the clock at which it times out, 0 for none (R349), and the bytes of its unit. -/
structure SleepRec where
  dst : BitVec 10
  till : Nat
  len : Nat
  deriving DecidableEq, Repr

/-- A page by context, space and VA[56:16]. -/
structure Page where
  pasid : BitVec 20
  spc : BitVec 3
  vpn : BitVec 41
  deriving DecidableEq, Repr

/-- An open fault record (R397). -/
structure FRec where
  idx : Nat
  kind : BitVec 8
  reg : BitVec 16
  lmask : W32
  pc : Word
  pages : List Page
  addrs : List (Nat × Word)
  /-- The slices of the group that issued the load. -/
  gmask : BitVec 8
  deriving DecidableEq, Repr

/-- A cached translation: context, space, page size code, page number and the entry's 56 bits (R33, R38). -/
structure TlbE where
  pasid : BitVec 20
  spc : BitVec 3
  sz : BitVec 2
  page : Nat
  ent : BitVec 56
  deriving DecidableEq, Repr

/-- A cohort membership of one lane (R320). -/
structure Memb where
  lane : Nat
  handle : Nat
  key : W32
  deriving DecidableEq, Repr

/-- A resident thread, or one that is saved. -/
structure Thread where
  id : Nat
  resident : Bool
  kind : TKind
  loc : Place
  task : BitVec 32
  role : Bool
  gidx : BitVec 16
  pasid : BitVec 20
  nsl : Nat
  allot : Nat
  /-- The first register of its allotment in the partition's file (R372). -/
  rbase : Nat
  resv : Nat
  resvHeld : Bool
  tcount : Nat
  csaIdx : Nat
  regs : Regs
  ctl : Ctl
  slices : List Slice
  outs : List OutOp
  cntCp : Nat
  cntMx : Nat
  /-- Claimed tiles with their claim batch, none for the open batch (R239). -/
  claims : List (Nat × Option (BitVec 8))
  /-- Closed incomplete batches (R236). -/
  batches : List (BitVec 8)
  nextBat : BitVec 8
  watch : Option Watch
  sleep : Option SleepRec
  frs : List FRec
  missing : List Page
  lpr : List (Nat × TlbE)
  handler : Bool
  halted : Bool
  parked : Bool
  preempt : Bool
  restoring : Bool
  saved : Bool
  noWatch : Bool
  apDone : W32
  memb : List Memb
  /-- In the active set of its partition (R375), and the arithmetic clock since when. -/
  act : Bool
  actSince : Nat
  age : Nat
  /-- Ready when last looked at, and the arithmetic clock since when (R377); of a saved thread, its place among the ready tasks (R373). -/
  rdy : Bool
  readySince : Nat
  /-- The PC at which each slice's parking point stands, for the restart of R402. -/
  parkPc : List Word
  /-- Slices whose STEP was due when the handler was entered; it is due again once the handler returns (R394). -/
  steps : BitVec 8
  deriving DecidableEq, Repr

/-- The context words of a PASID (R74, R81, R393, R28). -/
structure Ctx where
  tmplBase : Word
  cbarBase : Word
  csaBase : Word
  vltBase : BitVec 29
  vltLimit : BitVec 29
  deriving DecidableEq, Repr

/-! ### Clusters and cores -/

/-- A cluster: position, sparing, split (R17, R53), its previous task's PASID (R55) and its niche count (R324). -/
structure Cluster where
  die : Nat
  cl : Nat
  pos : BitVec 4
  enabled : Bool
  retired : Bool
  offline : Bool
  spk : BitVec 4
  drain : Bool
  lastPasid : Option (BitVec 20)
  nn : Nat
  deriving DecidableEq, Repr

/-- A niche register (R325). -/
structure Niche where
  die : Nat
  cl : Nat
  n : Nat
  val : Word
  full : Bool
  gather : Bool
  gop : BitVec 3
  gty : BitVec 3
  decl : BitVec 8
  cnt : BitVec 8
  slot : Patina
  used : BitVec 4097
  /-- Groups of threads whose write waits, in the order they blocked (R326). -/
  writers : List (Nat × Nat)
  deriving DecidableEq, Repr

/-- A group that waits at a cohort barrier (R339). -/
structure BarWait where
  t : Nat
  lanes : W32
  gmask : BitVec 8
  red : Bool
  rop : BitVec 3
  rty : BitVec 2
  dst : BitVec 10
  /-- Each arrived lane's contribution. -/
  vals : List W32
  /-- Bytes of the waiting issue unit. -/
  len : Nat
  /-- Every lane joined while the phase was open: the arrival counts for the next one (R321). -/
  late : Bool
  deriving DecidableEq, Repr

/-- A cohort entry (R319): its core's table and number, key, spawn, members (thread, lane), arrivals, phase. -/
structure Cohort where
  die : Nat
  core : Nat
  ent : Nat
  key : W32
  task : BitVec 32
  members : List (Nat × Nat)
  /-- Members that joined while a phase was open (R321). -/
  late : List (Nat × Nat)
  waits : List BarWait
  phase : Bool
  deriving DecidableEq, Repr

/-! ### Caches and directories -/

/-- The state of a tracked copy (R250). -/
inductive Moesi where
  | m | o | e | s
  deriving DecidableEq, Repr

/-- How a cluster store holds a line (R57, R250, R45). -/
inductive LineKind where
  | tracked (st : Moesi) (mir : Bool)
  /-- Byte-dirty mask, FILLED. -/
  | untracked (mask : BitVec 64) (filled : Bool)
  /-- A private line of a thread: mask, FILLED, owner. -/
  | priv (mask : BitVec 64) (filled : Bool) (owner : Nat)
  deriving DecidableEq, Repr

/-- A line of a cluster store's cache part. -/
structure CLine where
  die : Nat
  cl : Nat
  la : Nat
  spc : BitVec 3
  kind : LineKind
  data : LineData
  deriving DecidableEq, Repr

/-- A line that an L2 slice holds apart from its home's memory: untracked and homed elsewhere, or one view of a
compressed granule (R49, R65). -/
structure L2Line where
  die : Nat
  la : Nat
  comp : Bool
  mask : BitVec 64
  filled : Bool
  data : LineData
  deriving DecidableEq, Repr

/-- A die's permission for a line (R250). -/
inductive Dp where
  | i | s | e | m | o
  deriving DecidableEq, Repr

/-- A request of a die that awaits an answer (R253): the cluster that asked, what it asked, and what has come back. -/
structure SReq where
  cl : Nat
  op : Mop
  txid : Nat
  mir : Bool
  retries : Nat
  data : Option LineData
  err : Bool
  sentAt : Nat
  /-- The die whose answer it awaits (R263). -/
  to_ : Nat
  /-- Its place in the order of the requests sent (R264). -/
  seq : Nat
  deriving DecidableEq, Repr

/-- A slice directory entry (R250). -/
structure SEnt where
  die : Nat
  la : Nat
  pres : List (Nat × Moesi)
  dp : Dp
  exp : Bool
  req : Option SReq
  /-- Requests of clusters that wait for the transaction in progress, in order of arrival: cluster, request, MIR (R253). -/
  wq : List (Nat × Mop × Bool)
  deriving DecidableEq, Repr

/-- States of a junction entry (R257). -/
inductive JSt where
  | absent | sh | own | os | lost
  deriving DecidableEq, Repr

/-- A junction's transaction in progress: the request, the dies whose acknowledgement it awaits, when its snoops left. -/
structure JTx where
  op : Mop
  m : Msg
  acks : List Nat
  /-- Whether the holder that supplies was dirty, from its acknowledgement. -/
  dirty : Bool
  /-- Whether the home keeps a copy, from its answer. -/
  kept : Bool
  sentAt : Nat
  /-- The request whose allocation started this recall (R260). -/
  next : Option (Mop × Msg)
  /-- The junction's number for it, which its snoops carry (R298). -/
  txid : Nat
  /-- The die whose copy was asked to supply the data (R257). -/
  sup : Option Nat
  deriving DecidableEq, Repr

/-- A junction directory entry (R257), with what a loss record needs (R270). -/
structure JEnt where
  die : Nat
  la : Nat
  st : JSt
  holders : List Nat
  owner : Nat
  mir : Bool
  host : Bool
  seq : Nat
  tx : Option JTx
  wq : List (Mop × Msg)
  errs : Nat
  fenced : List Nat
  /-- The number of the last request that was granted to each die, which a snoop to that die names: it waits there until that grant and
  its data have come (R253). -/
  grants : List (Nat × Nat)
  deriving DecidableEq, Repr

/-- A line in a buddy's mirror buffer (R267). -/
structure Mirror where
  die : Nat
  la : Nat
  owner : Nat
  mask : BitVec 64
  data : LineData
  deriving DecidableEq, Repr

/-- A write or an atomic that a home has accepted and not yet performed: it awaits the line's copies elsewhere, or the host's (R255, R273). -/
structure HomeWr where
  home : Nat
  la : Nat
  mask : BitVec 64
  data : LineData
  /-- An atomic: AOP, type, first byte, operand, comparand (R181). -/
  atom : Option (BitVec 3 × BitVec 5 × Nat × Nat × Nat)
  /-- The message that it answers. -/
  ack : Option Msg
  /-- A write of the host (R273). -/
  host : Bool
  /-- A write of the compressed view, over which what the device view wrote wins (R66). -/
  comp : Bool
  deriving DecidableEq, Repr

/-- An instruction-fetch copy of a line (R154). -/
structure ILine where
  die : Nat
  cl : Nat
  la : Nat
  data : LineData
  deriving DecidableEq, Repr

/-! ### Engines -/

/-- A copy command on a channel (R69, R70, R83). -/
structure Copy where
  /-- The issuing thread, 0 for a copy task. -/
  t : Nat
  task : BitVec 32
  pasid : BitVec 20
  super : Bool
  tmpl : BitVec 512
  data : Word
  rnd : BitVec 3
  committed : Nat
  running : Bool
  /-- Stopped on a page that is not present (R80). -/
  stopped : Option Page
  /-- Stopped on a LOST line (R269). -/
  lostLine : Option Nat
  ctx : Ctx
  /-- The task a decrement is reserved against (R79). -/
  resv : Option (BitVec 32)
  /-- Untracked lines of the committed sectors (R368). -/
  lines : Patina
  /-- The sector whose writes have left and that has not committed: its end, the lines that it adds to the barrier's slot, and whether the slot has been
  sent them (R78). -/
  sent : Option (Nat × Patina × Bool)
  /-- It ends in error: the code, and whether the barrier's error close has left (R78). -/
  ending : Option (Nat × Bool)
  deriving DecidableEq, Repr

/-- A channel of a block-transfer engine: its commands in order, the translations it keeps, and the last error of each
thread for a query (R73). -/
structure Chan where
  die : Nat
  cl : Nat
  ch : Nat
  cmds : List Copy
  src : Option TlbE
  dst : Option TlbE
  errs : List (Nat × BitVec 8)
  deriving DecidableEq, Repr

/-- A matrix command's operand record and progress (R121, R234). -/
structure MCmd where
  t : Nat
  cl : Nat
  la : BitVec 96
  lb : BitVec 96
  kb : Nat
  nb : Nat
  ty : BitVec 5
  x3 : Bool
  sca : Bool
  scb : Bool
  mode : BitVec 3
  tile : Nat
  bat : Option (BitVec 8)
  blk : Nat
  started : Bool
  moved : Bool
  /-- Completed in error, or skipped (R248). -/
  failed : Bool
  seq : Nat
  deriving DecidableEq, Repr

/-- A residue array's queue (R128). -/
structure MQueue where
  die : Nat
  core : Nat
  part : Nat
  cmds : List MCmd
  deriving DecidableEq, Repr

/-! ### Tasks and queues -/

/-- How far a task has come: in the ring, in the window, ready, with every thread placed or its copy started, completed. A
count-barrier wait that has halted its queue is `placed` and never completes (R370). -/
inductive TaskSt where
  | accepted | window | ready | placed | done
  deriving DecidableEq, Repr

/-- A task, from its acceptance to its completion (R367, R368). -/
structure Task where
  h : BitVec 32
  die : Nat
  pasid : BitVec 20
  qpasid : BitVec 20
  qn : BitVec 16
  /-- The 256 bytes of its record (R345, R365). -/
  image : BitVec 2048
  st : TaskSt
  xout : Nat
  resv : Nat
  /-- The record's ring position (R364, R370). -/
  pos : Nat
  /-- Submitted by `spawn`, whose checks it has passed (R364). -/
  bySpawn : Bool
  /-- Unfinished tasks it counted (R367). -/
  preds : List (BitVec 32)
  readySeq : Nat
  placed : List Nat
  ended : Nat
  spawnP : Patina
  complP : Patina
  startP : Patina
  ctx : Ctx
  /-- A page its barrier wait found not present (R365). -/
  page : Option Page
  deriving DecidableEq, Repr

/-- What the scheduler keeps of a queue beside its control block: open lists (address, records, next), its retired
patina, a list page that is not present (R366, R368). -/
structure Queue where
  die : Nat
  pasid : BitVec 20
  qn : BitVec 16
  lists : List (Word × Nat × Nat)
  pq : Patina
  page : Option Page
  /-- The scheduler has halted it (R370). -/
  halted : Bool
  /-- The control block as the scheduler saw or left it last, by which it finds that the supervisor has rewritten it (R362, R368). -/
  seen : Option Nat
  deriving DecidableEq, Repr

/-! ### The die -/

/-- A voted machine (R383 to R387). -/
structure Mach where
  /-- The copy in resync or last to dissent, 3 for none. -/
  copy : BitVec 2
  /-- 0 VOTING, 1 RESYNC, 2 STOPPED. -/
  st : BitVec 2
  till : Nat
  /-- Injections that wait for an output: the copy, and the fabric clock of each (R387). -/
  inj : List (Nat × Nat)
  /-- Injections held until RESYNC ends. -/
  held : List Nat
  deriving DecidableEq, Repr

/-- A junction port (R295 to R300, R304): `txSeq` is the SEQ of the next normal flit, `rxSeq` the SEQ next expected, `ackd` the oldest
unacknowledged one, which `flits` begins with. -/
structure Port where
  trained : Bool
  down : Bool
  retrained : Bool
  discovered : Bool
  txSeq : BitVec 12
  rxSeq : BitVec 12
  ackd : BitVec 12
  flits : List (BitVec 2048)
  credits : List Nat
  rpSeq : BitVec 12
  rpCnt : Nat
  sinceAck : Nat
  resync : Bool
  /-- The class placed first in the next flit (R300). -/
  first : Option Nat
  /-- Flits that each class has waited with a credit in hand (R300). -/
  waited : List Nat
  /-- The fabric clock of the last advance of ACKSEQ, or of the first flit then outstanding (R297). -/
  ackAt : Nat
  /-- Credits freed here that the next flit returns, by class (R300). -/
  owed : List Nat
  deriving DecidableEq, Repr

/-- The atelier core's share of the lease (R380 to R382). -/
structure Lease where
  leader : Bool
  epoch : Nat
  line : Nat
  word : Word
  dead : List Nat
  since : Nat
  deriving DecidableEq, Repr

/-- The boot status record's fields and the start (R424, R425). -/
structure Boot where
  reason : BitVec 8
  att : BitVec 8
  slot : BitVec 4
  mode : BitVec 4
  vers : BitVec 24
  since : Nat
  /-- The fabric clock at which training began (R304). -/
  trainAt : Nat
  /-- Steps of the start that are over: 0 none, 1 validated and training, 2 lease claimed and the supervisor's task made. -/
  stage : Nat
  deriving DecidableEq, Repr

/-- A loss record held back (R270). -/
structure LossRec where
  la : Nat
  kind : BitVec 4
  owner : Nat
  shr : BitVec 8
  waits : Nat
  fclk : Word
  deriving DecidableEq, Repr

/-- A `pfring` record (R393). -/
structure PfRec where
  page : Page
  src : BitVec 8
  who : Word
  fclk : Word
  deriving DecidableEq, Repr

/-- The state held per die. -/
structure Die where
  aclk : Word
  fclk : Word
  tclk : Word
  ptb0 : Word
  ptb1 : Word
  ptb2 : Word
  sdaddr : Word
  sdBusy : Bool
  sdAcks : List Nat
  /-- The number and the fabric clock of the shoot-down's messages (R42, R263). -/
  sdTx : Nat
  sdAt : Nat
  /-- Shoot-downs of other dies swept here whose acknowledgement waits for accesses (R42). -/
  sdOwed : List Msg
  lrbase : Word
  svcring : Word
  trapvec : Word
  pfring : Word
  monring : Word
  evcode : BitVec 16
  evcnt : SMap 32
  dcnt : BitVec 16
  sch : Mach
  dsp : Mach
  wlk : Mach
  failed : Bool
  unreach : Bool
  epochSeen : Nat
  lease : Lease
  boot : Boot
  ports : List Port
  /-- 0 none, 1 three of four clocks, 2 one of two, 3 tripped (R431). -/
  heat : Nat
  cerr : List (Nat × Nat)
  /-- The fabric clock at which the scrub period began (R429). -/
  scrubAt : Nat
  uerr : List (Nat × Nat)
  heldLoss : List LossRec
  lossSeq : W32
  heldPf : List PfRec
  monFull : Bool
  jseq : Nat
  census : List Nat
  /-- Requests at raised priority that wait for the first way of their set (R261). -/
  raised : List (Mop × Msg)
  /-- Dies whose alarm the leader has collected (R378). -/
  alarms : List Nat
  /-- The lease word of this die's lease line, which nothing but the ateliers reads or writes (R379). -/
  leaseLine : Word
  deriving DecidableEq, Repr

/-! ### The maquette (R302 to R305) -/

/-- A port of a die entry. -/
structure MPort where
  kind : BitVec 2
  pport : BitVec 2
  pid : BitVec 4
  egr : BitVec 4
  host : Bool
  deriving DecidableEq, Repr

/-- A die entry. -/
structure MDie where
  spare : BitVec 4
  buddy : BitVec 4
  ports : List MPort
  deriving DecidableEq, Repr

/-- A region entry (R303). -/
structure Region where
  base : BitVec 22
  limit : BitVec 22
  kind : BitVec 2
  home : BitVec 4
  egr : BitVec 4
  hdm : Bool
  deriving DecidableEq, Repr

/-- An egress record (R305). -/
structure Egress where
  cap : BitVec 3
  port : BitVec 2
  die : BitVec 4
  deriving DecidableEq, Repr

/-- The maquette's fields after boot. -/
structure Maq where
  ndies : Nat
  hostDie : Nat
  hostPort : Nat
  roll : BitVec 32
  dies : List MDie
  routes : List (BitVec 8)
  buckets : List (BitVec 8)
  regions : List Region
  egress : List Egress
  deriving DecidableEq, Repr

/-! ### The outside -/

/-- What the package hands to the outside. -/
inductive OutMsg where
  | hostData (la : Nat) (data : LineData)
  | hostDone (la : Nat)
  /-- A link-layer error: the host-port die is in minimal mode, or answers nothing (R425). -/
  | hostErr (la : Nat)
  | hostReq (op : Mop) (la : Nat) (data : Option LineData)
  | bisnp (la : Nat)
  | doe (status : Word)
  | spdm (digest : BitVec 384)
  | cfg (data : W32)
  | biack (la : Nat)
  | flit (die port : Nat) (f : BitVec 2048)
  deriving DecidableEq, Repr

/-- The host link's side: lines the host may cache in order of allocation, BISnp requests pending with what they hold
up, host requests that yielded, lines whose BIConflict is unanswered (R273, R274), and the written words of the CXL.io configuration space and of
BAR 0 (R308). -/
structure HostLink where
  filter : List Nat
  bis : List (Nat × Mop × Msg)
  yielded : List HostReq
  conflicts : List Nat
  cfg : SMap 32
  bar0 : SMap 32
  /-- Host snoops of lines whose entry is in transition: 0 SnpInv, 1 SnpData, 2 SnpCur, and the line (R272). -/
  snps : List (Nat × Nat)
  deriving DecidableEq, Repr

/-! ### The whole -/

/-- What the next step does. -/
inductive Phase where
  | issue | select | engine
  deriving DecidableEq, Repr

/-- The state of the package. -/
structure State where
  cur : Thread
  /-- The group of `cur` that issues. -/
  curGrp : Nat
  others : List Thread
  savedT : List Thread
  mem : SMap 8
  flash : SMap 8
  /-- Poisoned 8-byte words of scratchpads and vaults, by storage key (R430). -/
  bad : List Nat
  ctxs : List (Nat × Ctx)
  clusters : List Cluster
  niches : List Niche
  cohorts : List Cohort
  tlb : List (Nat × TlbE)
  ilines : List ILine
  clines : List CLine
  l2 : List L2Line
  sdir : List SEnt
  jdir : List JEnt
  mirrors : List Mirror
  /-- Writes and atomics that their homes have accepted and not yet performed, in order (R255, R273). -/
  hws : List HomeWr
  /-- Granules, by physical address over 256, whose form is PACKED (R64, R66). -/
  packed : List Nat
  chans : List Chan
  mqs : List MQueue
  dies : List Die
  maq : Maq
  tasks : List Task
  queues : List Queue
  nextTask : BitVec 32
  /-- Messages under way inside the package, each where it stands. -/
  msgs : List (Mop × Msg)
  /-- Flits between two dies of the package: the receiving die and port (R296). -/
  wires : List (Nat × Nat × BitVec 2048)
  nextTx : Nat
  host : HostLink
  out : List OutMsg
  /-- Events that come before the next issue: the outside's and the timers'. -/
  agenda : List Instr
  phase : Phase
  /-- Counter of the free values taken (log 11). -/
  free : Nat
  nextId : Nat
  /-- Count of turns taken, by which a group's last issue is known (log 17). -/
  issued : Nat
  deriving DecidableEq, Repr

/-! ### Stops -/

/-- Reasons to stop with a fault. Every trap, error reply and halt of the manual is a next state. -/
inductive Fault where
  /-- Raised by no meaning of the table; safe. -/
  | none
  deriving DecidableEq, Repr

/-- Reasons to refuse an instruction. -/
inductive Refusal where
  /-- Raised by an arm of `exec` that has no meaning yet; safe. -/
  | notModelled (mnemonic : String)
  deriving DecidableEq, Repr

/-! ### Reset -/

/-- Registers at thread start (R91). -/
def Regs.start : Regs := ⟨[], [], [], 0, [], 0, [], [], [], 0⟩

/-- Control words at thread start (R110, R112, R93, R61, R247, R394, R285). -/
def Ctl.start : Ctl := ⟨0, 0, true, 0, 0, 0, 0, 0⟩

/-- No thread: what `cur` holds while none is placed. -/
def Thread.nobody : Thread where
  id := 0
  resident := false
  kind := .gang
  loc := ⟨0, 0, 0, 0, 0⟩
  task := 0
  role := false
  gidx := 0
  pasid := 0
  nsl := 1
  allot := 32
  rbase := 0
  resv := 0
  resvHeld := false
  tcount := 0
  csaIdx := 0
  regs := .start
  ctl := .start
  slices := []
  outs := []
  cntCp := 0
  cntMx := 0
  claims := []
  batches := []
  nextBat := 0
  watch := none
  sleep := none
  frs := []
  missing := []
  lpr := []
  handler := false
  halted := false
  parked := false
  preempt := false
  restoring := false
  saved := false
  noWatch := false
  apDone := 0
  memb := []
  act := false
  actSince := 0
  age := 0
  rdy := false
  readySince := 0
  parkPc := []
  steps := 0

/-- A voted machine at reset: VOTING, no copy has dissented (R386). -/
def Mach.reset : Mach := ⟨3, 0, 0, [], []⟩

/-- A port at reset, with the credits of R300. -/
def Port.reset : Port := ⟨false, false, false, false, 0, 0, 0, [], [64, 32, 64, 192, 8, 32], 0, 0, 0, false, none, [0, 0, 0, 0, 0, 0], 0, [0, 0, 0, 0, 0, 0]⟩

/-- The atelier's lease fields at reset. -/
def Lease.reset : Lease := ⟨false, 0, 0, 0, [], 0⟩

/-- A die at reset: every control word at the value its map gives. -/
def Die.reset : Die where
  aclk := 0
  fclk := 0
  tclk := 0
  ptb0 := 0
  ptb1 := 0
  ptb2 := 0
  sdaddr := 0
  sdBusy := false
  sdAcks := []
  sdTx := 0
  sdAt := 0
  sdOwed := []
  lrbase := 0
  svcring := 0
  trapvec := 0
  pfring := 0
  monring := 0
  evcode := 0
  evcnt := []
  dcnt := 0
  sch := .reset
  dsp := .reset
  wlk := .reset
  failed := false
  unreach := false
  epochSeen := 0
  lease := .reset
  boot := ⟨0, 0, 0, 0, 0, 0, 0, 0⟩
  ports := [.reset, .reset, .reset, .reset]
  heat := 0
  cerr := []
  scrubAt := 0
  uerr := []
  heldLoss := []
  lossSeq := 0
  heldPf := []
  monFull := false
  jseq := 0
  census := []
  raised := []
  alarms := []
  leaseLine := 0

/-- No maquette is loaded: one die, no region, no route. -/
def Maq.unloaded : Maq := ⟨1, 0, 0, 0, [], [], [], [], []⟩

/-- The context words of a PASID that the supervisor has not set. -/
def Ctx.unset : Ctx := ⟨0, 0, 0, 0, 0⟩

/-- The machine right after reset: no thread, empty memory, every die at reset, nothing booted. -/
def State.reset : State where
  cur := .nobody
  curGrp := 0
  others := []
  savedT := []
  mem := []
  flash := []
  bad := []
  ctxs := []
  clusters := []
  niches := []
  cohorts := []
  tlb := []
  ilines := []
  clines := []
  l2 := []
  sdir := []
  jdir := []
  mirrors := []
  hws := []
  packed := []
  chans := []
  mqs := []
  dies := [.reset, .reset, .reset, .reset, .reset, .reset, .reset, .reset]
  maq := .unloaded
  tasks := []
  queues := []
  nextTask := 1
  msgs := []
  wires := []
  nextTx := 0
  host := ⟨[], [], [], [], [], [], []⟩
  out := []
  agenda := []
  phase := .engine
  free := 0
  nextId := 1
  issued := 0

end Sys2Proof.Machine
end

