-- ==== Sys2Proof/Machine/Base.lean ====
section
/-! DEFINITION. Access to the parts of the state: threads, registers with tags and poison, lanes and groups, dies, clusters,
niches. Every read and write of a register goes through here (R84 to R97). -/

namespace Sys2Proof.Machine

/-- The outcome of an instruction. -/
abbrev Out := Host.Outcome State Fault Refusal

/-! ### Threads -/

/-- The resident threads. -/
def State.threads (s : State) : List Thread := if s.cur.resident then s.cur :: s.others else s.others

/-- The resident thread with a number. -/
def State.thread? (s : State) (id : Nat) : Option Thread := s.threads.find? fun t => t.id == id

/-- Applies a change to the thread with a number, wherever it is held. -/
def State.modThread (s : State) (id : Nat) (f : Thread → Thread) : State :=
  if s.cur.resident && s.cur.id == id then { s with cur := f s.cur }
  else { s with others := s.others.map fun t => if t.id == id then f t else t }

/-- Applies a change to every resident thread. -/
def State.mapThreads (s : State) (f : Thread → Thread) : State :=
  { s with cur := if s.cur.resident then f s.cur else s.cur, others := s.others.map f }

/-- Applies a change to the current thread. -/
def State.onCur (s : State) (f : Thread → Thread) : State := { s with cur := f s.cur }

/-- Supervisor mode: PASID 0, or running a trap handler (R330). -/
def Thread.super (t : Thread) : Bool := t.pasid == 0 || t.handler

/-- The PASID that translates the thread's accesses (R395). -/
def Thread.tpasid (t : Thread) : BitVec 20 := if t.handler then 0 else t.pasid

/-- Whether the thread is an armature thread. -/
def Thread.arm (t : Thread) : Bool := t.kind == .armature

/-- Lanes that exist: four a slice, and lane 0 alone on the armature core (R312). -/
def Thread.nlanes (t : Thread) : Nat := if t.arm then 1 else 4 * t.nsl

/-- The mask of the lanes that exist. -/
def Thread.exist (t : Thread) : W32 := BitVec.ofNat 32 (2 ^ t.nlanes - 1)

/-- Slices of a group: live, and with the group's number (R314). -/
def Slice.inGrp (g : Nat) (c : Slice) : Bool := c.grp == g && c.live != 0

/-- Folds a mask out of the slices of a group, slice `k` at bit `4 k` or `k`. -/
def maskFrom (f : Slice → Nat) (g : Nat) : List Slice → Nat → Nat → Nat
  | [], _, _ => 0
  | c :: cs, k, w => (if c.inGrp g then f c * 2 ^ (w * k) else 0) + maskFrom f g cs (k + 1) w

/-- The active-mask bits of a group's slices (R138). -/
def Thread.mask (t : Thread) (g : Nat) : W32 := BitVec.ofNat 32 (maskFrom (fun c => c.active.toNat) g t.slices 0 4)

/-- The slices of a group, one bit each. -/
def Thread.gslices (t : Thread) (g : Nat) : BitVec 8 := BitVec.ofNat 8 (maskFrom (fun _ => 1) g t.slices 0 1)

/-- Applies a change to the slices of a group; the change sees the slice's number. -/
def mapGrp (g : Nat) (f : Nat → Slice → Slice) : List Slice → Nat → List Slice
  | [], _ => []
  | c :: cs, k => (if c.inGrp g then f k c else c) :: mapGrp g f cs (k + 1)

/-- Applies a change to the slices of a group of a thread. -/
def Thread.onGrp (t : Thread) (g : Nat) (f : Nat → Slice → Slice) : Thread :=
  { t with slices := mapGrp g f t.slices 0 }

/-- The program counter of a group: that of its first slice. -/
def Thread.pcOf (t : Thread) (g : Nat) : Word :=
  match t.slices.find? (Slice.inGrp g) with
  | some c => c.pc
  | none => 0

/-- The number of the first live slice whose group was `g` and whose counter is `pc`. -/
def firstAt (g : Nat) (pc : Word) : List Slice → Nat → Nat
  | [], k => k
  | c :: cs, k => if c.inGrp g && c.pc == pc then k else firstAt g pc cs (k + 1)

/-- Splits a group by program counter: each part takes the number of its lowest slice (R314). -/
def Thread.regroup (t : Thread) (g : Nat) : Thread :=
  t.onGrp g fun _ c => { c with grp := firstAt g c.pc t.slices 0 }

/-- The lowest lane of a mask. -/
def lowLane (m : W32) : Nat := ctzN m.toNat 0 32

/-! ### Registers -/

/-- A lane of a vector register. -/
def Regs.rdV (r : Regs) (n l : Nat) : W32 := r.v.get (32 * n + l)
/-- A vector register's tag. -/
def Regs.tag (r : Regs) (n : Nat) : BitVec 4 := r.vtag.get n
/-- An s or x register. -/
def Regs.rdR (r : Regs) (n : Nat) : Word := r.r.get n
/-- A predicate in a lane; p0 reads true (R88). -/
def Regs.rdP (r : Regs) (n l : Nat) : Bool := n == 0 || laneIn (r.p.get n) l
/-- A predicate's poison bit; p0 is never poisoned (R88). -/
def Regs.pPoison (r : Regs) (n : Nat) : Bool := n != 0 && r.ppois.getLsbD n
/-- An element of a tile. -/
def Regs.rdT (r : Regs) (t e : Nat) : W32 := r.tile.get (256 * t + e)
/-- A tile's tag. -/
def Regs.tTag (r : Regs) (t : Nat) : BitVec 4 := r.ttag.get t

/-- NIL, no format (R92). -/
def tNIL : BitVec 4 := 0
/-- One 32-bit integer. -/
def tI32 : BitVec 4 := 1
/-- One binary32 value. -/
def tFP32 : BitVec 4 := 2
/-- Two BF16 values. -/
def tBF : BitVec 4 := 3
/-- Two 16-bit integers. -/
def tI16 : BitVec 4 := 4
/-- Four 8-bit integers. -/
def tI8 : BitVec 4 := 5
/-- Poisoned. -/
def tPSN : BitVec 4 := 15

/-- Sets a bit of a vector of poison bits. -/
def setBit {w : Nat} (x : BitVec w) (n : Nat) (b : Bool) : BitVec w :=
  if b then x ||| BitVec.ofNat w (2 ^ n) else x &&& ~~~(BitVec.ofNat w (2 ^ n))

/-- The destination's tag after a write of lanes `act` (R97): kept with no lane; PSN stays unless every existing lane is written. -/
def newTag (old tag : BitVec 4) (act exist : W32) : BitVec 4 :=
  if act = 0 then old else if old = tPSN ∧ act ≠ exist then tPSN else tag

/-- Writes the lanes of a vector register (R97). -/
def Regs.wrV (r : Regs) (exist : W32) (n : Nat) (act : W32) (tag : BitVec 4) (f : Nat → W32) : Regs :=
  { r with v := (lanesOf act).foldl (fun m l => m.set (32 * n + l) (f l)) r.v
           vtag := r.vtag.set n (newTag (r.tag n) tag act exist) }

/-- Poisons a vector register: the tag PSN, with no lane's bits changed (R92, R96). -/
def Regs.psnV (r : Regs) (n : Nat) (act : W32) : Regs :=
  if act = 0 then r else { r with vtag := r.vtag.set n tPSN }

/-- Writes an s or x register, which clears its poison bit (R97). -/
def Regs.wrR (r : Regs) (n : Nat) (x : Word) : Regs :=
  { r with r := r.r.set n x, rpois := setBit r.rpois n false }

/-- Poisons an s or x register. -/
def Regs.psnR (r : Regs) (n : Nat) : Regs := { r with rpois := setBit r.rpois n true }

/-- Writes the lanes of a predicate; p0 ignores writes (R88), poison clears only on a whole write (R97). -/
def Regs.wrP (r : Regs) (exist : W32) (n : Nat) (act : W32) (f : Nat → Bool) : Regs :=
  if n = 0 ∨ act = 0 then r
  else { r with p := r.p.set n ((r.p.get n &&& ~~~act) ||| (maskOf f &&& act))
                ppois := if act = exist then setBit r.ppois n false else r.ppois }

/-- Poisons a predicate other than p0. -/
def Regs.psnP (r : Regs) (n : Nat) (act : W32) : Regs :=
  if n = 0 ∨ act = 0 then r else { r with ppois := setBit r.ppois n true }

/-- Writes a tile whole (R241): the tag takes the new value, PSN included. -/
def Regs.wrT (r : Regs) (t : Nat) (tag : BitVec 4) (f : Nat → W32) : Regs :=
  { r with tile := (rangeFrom 0 256).foldl (fun m e => m.set (256 * t + e) (f e)) r.tile
           ttag := r.ttag.set t tag }

/-- Poisons a tile. -/
def Regs.psnT (r : Regs) (t : Nat) : Regs := { r with ttag := r.ttag.set t tPSN }

/-- Zeroes a tile with tag NIL. -/
def Regs.clrT (r : Regs) (t : Nat) : Regs :=
  { r with tile := r.tile.clear (256 * t) 256, ttag := r.ttag.set t tNIL }

/-- Applies a change to the registers of the current thread. -/
def State.onRegs (s : State) (f : Regs → Regs) : State := s.onCur fun t => { t with regs := f t.regs }

/-- ORs flags into `fflags` (R112). -/
def Thread.orFlags (t : Thread) (f : BitVec 5) : Thread := { t with ctl := { t.ctl with fflags := t.ctl.fflags ||| f } }

/-! ### Dies, clusters, niches -/

/-- A die. -/
def State.die (s : State) (d : Nat) : Die := s.dies.getD d .reset

/-- Applies a change to a die. -/
def State.onDie (s : State) (d : Nat) (f : Die → Die) : State := { s with dies := s.dies.modify d f }

/-- A cluster by die and logical number; one that no boot has enabled reads disabled. -/
def State.cluster (s : State) (d c : Nat) : Cluster :=
  (s.clusters.find? fun x => x.die == d && x.cl == c).getD ⟨d, c, BitVec.ofNat 4 c, false, false, false, 0, false, none, 0⟩

/-- Applies a change to a cluster. -/
def State.onCluster (s : State) (d c : Nat) (f : Cluster → Cluster) : State :=
  { s with clusters := upsert (fun x => x.die == d && x.cl == c) (f (s.cluster d c)) s.clusters }

/-- A niche register; one not written since its task was placed is EMPTY with value 0 (R324). -/
def State.niche (s : State) (d c n : Nat) : Niche :=
  (s.niches.find? fun x => x.die == d && x.cl == c && x.n == n).getD ⟨d, c, n, 0, false, false, 0, 0, 0, 0, 0, 0, []⟩

/-- Writes a niche register. -/
def State.setNiche (s : State) (x : Niche) : State :=
  { s with niches := upsert (fun y => y.die == x.die && y.cl == x.cl && y.n == x.n) x s.niches }

/-- The context words of a PASID. -/
def State.ctx (s : State) (p : BitVec 20) : Ctx := assocD .unset s.ctxs p.toNat

/-- Applies a change to a PASID's context words. -/
def State.onCtx (s : State) (p : BitVec 20) (f : Ctx → Ctx) : State :=
  { s with ctxs := assocSet s.ctxs p.toNat (f (s.ctx p)) }

/-- Takes a number of the free counter. -/
def State.takeFree (s : State) : State := { s with free := s.free + 1 }

/-- Hands a message to the outside. -/
def State.emit (s : State) (o : OutMsg) : State := { s with out := s.out ++ [o] }

/-- The cluster of a thread. -/
def State.tcl (s : State) (t : Thread) : Cluster := s.cluster t.loc.die t.loc.cl

/-- Scratchpad bytes of a cluster under its split (R52). -/
def Cluster.scratch (c : Cluster) : Nat := c.spk.toNat * 0x20000

/-- NN, the niche count that the current thread's task declares (R324, R345). -/
def State.nicheCount (s : State) : Nat :=
  match s.tasks.find? fun k => k.h == s.cur.task with
  | some k => fieldN k.image.toNat 32 8
  | none => 0

/-- Whether a niche number is at or above the task's niche count (R324). -/
def State.nicheBad (s : State) (n : Nat) : Bool := s.nicheCount ≤ n

/-! ### The patina (R284) -/

/-- The four multipliers. -/
def patC : List Nat := [0x9E3779B97F4A7C15, 0xC2B2AE3D27D4EB4F, 0x165667B19E3779F9, 0xD6E8FEB86659FD93]

/-- The index of a line for one multiplier. -/
def patIdx (la c : Nat) : Nat := la * c % 2 ^ 64 / 2 ^ 55

/-- Records a line in a patina. -/
def patAdd (p : Patina) (la : Nat) : Patina := patC.foldl (fun q c => q ||| bit512 (patIdx la c)) p

/-- Whether a patina holds 256 or more bits. -/
def patSat (p : Patina) : Bool := 256 ≤ popN p.toNat 512

/-- Whether a line hits a patina. -/
def patHit (p : Patina) (la : Nat) : Bool := patSat p || patC.all fun c => p.getLsbD (patIdx la c)

/-- The saturated patina. -/
def patFull : Patina := BitVec.allOnes 512

/-! ### Trap codes (R392) -/

/-- A trap code. -/
abbrev Code := BitVec 16

end Sys2Proof.Machine
end

