-- ==== Sys2Proof/Machine/Cohere.lean ====
section
/-! DEFINITION. The return path (chapter 11): where a line lives, the slice directory, the junction directory, snoops, grants,
lost lines, the host's side of a line, untracked lines at their home. One function for each message or request. -/

namespace Sys2Proof.Machine

/-! ### Homes and storage keys -/

/-- Where a physical line lives (R303). -/
inductive HomeK where
  | dev (die : Nat) | host | remote (egr : Nat) | none
  deriving DecidableEq, Repr

/-- The region of the physical address map that holds a line (R303). -/
def State.region (s : State) (la : Nat) : Option Region :=
  s.maq.regions.find? fun r => r.base.toNat ≤ la / 2 ^ 24 && la / 2 ^ 24 ≤ r.limit.toNat

/-- The home of a line. -/
def State.home (s : State) (la : Nat) : HomeK :=
  match s.region la with
  | none => .none
  | some r => if r.kind = 0 then .dev r.home.toNat else if r.kind = 1 then .host
    else if r.kind = 2 then .remote r.egr.toNat else .none

/-- Whether a die homes a line. -/
def State.homedAt (s : State) (d la : Nat) : Bool := s.home la == .dev d

/-- Whether a die answers nothing: declared failed, unreachable (R263, R443), or in minimal mode, where its ports forward nothing (R304, R425). -/
def State.dead (s : State) (d : Nat) : Bool := (s.die d).failed || (s.die d).unreach || (s.die d).boot.mode == 2

/-- The key of a vault byte: the die and pointer bits [28:0] (R28, R50). -/
def vaultKey (d off : Nat) : Nat := 2 ^ 52 + d * 2 ^ 29 + off % 2 ^ 29

/-- The key of a scratchpad byte by physical offset. -/
def scratchKey (d cl phys : Nat) : Nat := 2 ^ 53 + (d * 16 + cl) * 2 ^ 21 + phys % 2 ^ 21

/-- The bank permutation pattern (R60). -/
def bankPat (m w : Nat) : Nat :=
  let f := fieldN w
  match m with
  | 0 => 0
  | 1 => f 0 5
  | 2 => f 0 4 * 2
  | 3 => f 0 3 * 4
  | 4 => f 0 2 * 8
  | 5 => f 0 1 * 16
  | 6 => f 0 4
  | 7 => f 0 3
  | 8 => f 0 2
  | 9 => f 0 1
  | 10 => f 5 5
  | 11 => f 0 5 ^^^ f 5 5
  | 12 => f 1 5
  | 13 => f 2 5
  | 14 => f 0 5 ^^^ f 1 4
  | _ => f 0 1 * 31

/-- The physical position of a logical scratchpad offset under a mode (R59). -/
def physOff (a m : Nat) : Nat :=
  a / 512 * 512 + (fieldN a 4 5 ^^^ bankPat m (fieldN a 9 12)) * 16 + a % 16

/-- The slice of a line on a die (R48). -/
def sliceOf (la : Nat) : Nat := fieldN la 2 4 ^^^ fieldN la 6 4 ^^^ fieldN la 10 4 ^^^ fieldN la 14 4

/-- The directory bucket of a line (R256). -/
def bucketOf (la : Nat) : Nat := fieldN la 0 8 ^^^ fieldN la 8 8 ^^^ fieldN la 16 8 ^^^ fieldN la 24 8

/-- The directory die of a line: the bucket's, or its shadow once that die has failed (R256, R263); the host-link die for a host line (R272). -/
def State.dirDie (s : State) (la : Nat) : Nat :=
  if s.home la = .host then s.maq.hostDie else
  let b := (s.maq.buckets.getD (bucketOf la) 0).toNat
  if (s.die (b % 16)).failed then b / 16 else b % 16

/-! ### Lines as data -/

/-- A line of memory. -/
def memLine (m : SMap 8) (la : Nat) : LineData :=
  BitVec.ofNat 512 (ofBytes ((rangeFrom (64 * la) 64).map m.get))

/-- Byte `i` of a line. -/
def lineByte (x : LineData) (i : Nat) : BitVec 8 := x.extractLsb' (8 * i) 8

/-- Writes the masked bytes of a line to memory (R57). -/
def putLine (m : SMap 8) (la : Nat) (mask : BitVec 64) (x : LineData) : SMap 8 :=
  (rangeFrom 0 64).foldl (fun m i => if mask.getLsbD i then m.set (64 * la + i) (lineByte x i) else m) m

/-- The 512 bits whose bytes a mask selects. -/
def wideMask (mask : BitVec 64) : LineData :=
  (rangeFrom 0 64).foldl (fun m i => if mask.getLsbD i then m ||| BitVec.ofNat 512 (255 * 2 ^ (8 * i)) else m) 0

/-- Masked bytes of `y` over `x`. -/
def mergeLine (x : LineData) (mask : BitVec 64) (y : LineData) : LineData :=
  (x &&& ~~~wideMask mask) ||| (y &&& wideMask mask)

/-- All 64 bytes. -/
def fullMask : BitVec 64 := BitVec.allOnes 64

/-! ### Access to the directories -/

/-- A cluster-store line. -/
def State.cline? (s : State) (d c la : Nat) : Option CLine := s.clines.find? fun x => x.die == d && x.cl == c && x.la == la

/-- Writes a cluster-store line. -/
def State.setCline (s : State) (x : CLine) : State :=
  { s with clines := upsert (fun y => y.die == x.die && y.cl == x.cl && y.la == x.la) x s.clines }

/-- Drops a cluster-store line. -/
def State.dropCline (s : State) (d c la : Nat) : State :=
  { s with clines := s.clines.filter fun x => !(x.die == d && x.cl == c && x.la == la) }

/-- A slice directory entry. -/
def State.sent (s : State) (d la : Nat) : SEnt :=
  (s.sdir.find? fun e => e.die == d && e.la == la).getD ⟨d, la, [], .i, false, none, []⟩

/-- Writes a slice directory entry; an empty one is dropped. -/
def State.setSent (s : State) (e : SEnt) : State :=
  if e.pres.isEmpty && e.dp == .i && !e.exp && e.req.isNone && e.wq.isEmpty then
    { s with sdir := s.sdir.filter fun x => !(x.die == e.die && x.la == e.la) }
  else { s with sdir := upsert (fun x => x.die == e.die && x.la == e.la) e s.sdir }

/-- A junction entry; a line without one is absent (R257). -/
def State.jent (s : State) (d la : Nat) : JEnt :=
  (s.jdir.find? fun e => e.die == d && e.la == la).getD ⟨d, la, .absent, [], 0, false, false, 0, none, [], 0, [], []⟩

/-- Writes a junction entry; one that is absent and idle is freed, and its home's EXP clears (R253, R257). -/
def State.setJent (s : State) (e : JEnt) : State :=
  if e.st == .absent && e.tx.isNone && e.wq.isEmpty then
    let s := { s with jdir := s.jdir.filter fun x => !(x.die == e.die && x.la == e.la) }
    match s.home e.la with
    | .dev h => s.setSent { s.sent h e.la with exp := false, dp := .i }
    | _ => s
  else { s with jdir := upsert (fun x => x.die == e.die && x.la == e.la) e s.jdir }

/-- Whether a kind is a tracked copy. -/
def LineKind.moesi? : LineKind → Option Moesi
  | .tracked st _ => some st
  | _ => none

/-- The tracked copies of a line on a die. -/
def State.copies (s : State) (d la : Nat) : List CLine :=
  s.clines.filter fun x => x.die == d && x.la == la && x.kind.moesi?.isSome

/-- A copy that is M or O. -/
def CLine.dirtyT (x : CLine) : Bool := x.kind.moesi? == some .m || x.kind.moesi? == some .o

/-- The data a die can supply: a dirty copy, any copy, or its home memory (R251). -/
def State.dieData (s : State) (d la : Nat) : LineData :=
  match (s.copies d la).find? CLine.dirtyT with
  | some x => x.data
  | none => match s.copies d la with
    | x :: _ => x.data
    | [] => memLine s.mem la

/-- Whether a die holds a dirty copy. -/
def State.dieDirty (s : State) (d la : Nat) : Bool := (s.copies d la).any CLine.dirtyT

/-- Records in the slice entry which clusters hold copies, and how (R250). -/
def State.sync (s : State) (d la : Nat) : State :=
  s.setSent { s.sent d la with pres := (s.copies d la).filterMap fun x => x.kind.moesi?.map fun st => (x.cl, st) }

/-! ### Watches (R348, R349) -/

/-- What a slice waits for once a unit that waited has completed: nothing, or the STEP that is due (R394). -/
def Thread.doneWait (t : Thread) : Wait := if t.ctl.dbgctl.getLsbD 63 && !t.handler then .step else .none

/-- Ends a sleep with a reason, which disarms the watch. -/
def Thread.wake (t : Thread) (reason : Word) : Thread :=
  match t.sleep with
  | none => t
  | some r => { t with
      regs := t.regs.wrR r.dst.toNat reason
      sleep := none
      watch := none
      slices := t.slices.map fun c => if c.wait == .sleep then { c with pc := c.pc + BitVec.ofNat 64 r.len, wait := t.doneWait } else c }

/-- Latches a watch's event, or ends the sleep on it. -/
def Thread.watchEvent (t : Thread) (la : Nat) : Thread :=
  match t.watch with
  | some w => if w.la == la then (if t.sleep.isSome then t.wake 0 else { t with watch := some { w with event := true } }) else t
  | none => t

/-- A write to a line, for every watch on it. -/
def State.watchWrite (s : State) (la : Nat) : State := s.mapThreads fun t => t.watchEvent la

/-- The loss of a cluster's copy. -/
def State.watchLoss (s : State) (d c la : Nat) : State :=
  s.mapThreads fun t => if t.loc.die == d && t.loc.cl == c then t.watchEvent la else t

/-- Drops the tracked copies of a line on a die but one cluster's (R251); `loss` latches watches. -/
def State.dropCopies (s : State) (d la : Nat) (keep : Option Nat) (loss : Bool) : State :=
  let gone := (s.copies d la).filter fun x => some x.cl != keep
  let s := { s with clines := s.clines.filter fun x =>
    !(x.die == d && x.la == la && x.kind.moesi?.isSome && some x.cl != keep) }
  if loss then gone.foldl (fun s x => s.watchLoss d x.cl la) s else s

/-- Demotes a die's copies for a reader elsewhere: M to O, E to S (R251). -/
def State.demote (s : State) (d la : Nat) (keep : Option Nat) : State :=
  { s with clines := s.clines.map fun x =>
      if x.die == d && x.la == la && some x.cl != keep then
        match x.kind with
        | .tracked .m mir => { x with kind := .tracked .o mir }
        | .tracked .e mir => { x with kind := .tracked .s mir }
        | _ => x
      else x }


/-! ### Routes (R297, R302) -/

/-- The port of a die entry. -/
def State.mport (s : State) (d p : Nat) : MPort := ((s.maq.dies.getD d ⟨0, 0, []⟩).ports).getD p ⟨0, 0, 0, 0, false⟩

/-- The identifier and the port at the other end of an identifier's port: a D40's by its die entry, a standalone junction's by the entry that
names it (R302). -/
def Maq.peer (m : Maq) (a p : Nat) : Option (Nat × Nat) :=
  let port := fun (d k : Nat) => ((m.dies.getD d ⟨0, 0, []⟩).ports).getD k ⟨0, 0, 0, 0, false⟩
  if a < 8 then
    let q := port a p
    if q.kind == 1 || q.kind == 3 then some (q.pid.toNat, q.pport.toNat) else none
  else ((rangeFrom 0 8).flatMap fun d => (rangeFrom 0 4).map fun k => (d, k)).find? fun x =>
    let q := port x.1 x.2
    q.kind == 3 && q.pid.toNat == a && q.pport.toNat == p

/-- The port by which an identifier sends toward another: the primary one, or the alternate one while that is down. -/
def State.nextPort (s : State) (a b : Nat) : Option Nat :=
  let r := (s.maq.routes.getD (16 * a + b) 0).toNat
  let down := fun p => (((s.die a).ports.getD p .reset).down)
  if !down (r % 4) then some (r % 4) else if bitN r 4 && !down (r / 4 % 4) then some (r / 4 % 4) else none

/-- Whether a live route of at most a number of hops leads from one identifier to another. -/
def State.routed (s : State) (a b : Nat) : Nat → Bool
  | 0 => a == b
  | n + 1 => a == b || match (s.nextPort a b).bind (s.maq.peer a) with
    | some q => (q.1 == b || !s.dead q.1) && s.routed q.1 b n
    | none => false

/-- Hops from an identifier to another over the primary routes (R302). -/
def State.hops (s : State) (a b : Nat) : Nat → Nat
  | 0 => 8
  | n + 1 =>
    if a == b then 0 else match s.maq.peer a ((s.maq.routes.getD (16 * a + b) 0).toNat % 4) with
      | some q => 1 + s.hops q.1 b n
      | none => 8

/-- Whether no message from a die reaches another: it answers nothing, or no live route leads to it (R443). -/
def State.cut (s : State) (a b : Nat) : Bool := a != b && (s.dead b || !s.routed a b 7)

/-! ### Sending (R298, R443) -/

/-- A message with its usual fields; it stands at its source. -/
def mkMsg (dst src la txid : Nat) : Msg := ⟨dst, src, 7, txid, false, false, la, 0, [], src, false, src, none, txid⟩

/-- Requests that are answered with `Err` where no route lives. -/
def isReqMop : Mop → Bool
  | .rds | .rdx | .upg | .rdu | .wru | .atu | .remrd | .remwr | .remat => true
  | _ => false

/-- Puts a message under way. -/
def State.post (s : State) (op : Mop) (m : Msg) : State := { s with msgs := s.msgs ++ [(op, m)] }

/-- The `Err` with which a junction answers a request. -/
def errFor (at_ : Nat) (m : Msg) : Msg := mkMsg m.req at_ m.la m.rtx

/-- Sends a message: the junction answers a request itself where the die cannot be reached (R443); else it is under way. -/
def State.send (s : State) (op : Mop) (m : Msg) : State :=
  if s.cut m.src m.dst then (if isReqMop op then s.post .err (errFor m.src m) else s) else s.post op m

/-- Whether a number is in use among the open transactions of a die (R298). -/
def State.txBusy (s : State) (d x : Nat) : Bool :=
  (s.sdir.any fun e => e.die == d && e.req.any fun q => q.txid == x) || (s.jdir.any fun j => j.die == d && j.tx.any fun t => t.txid == x)
    || ((s.die d).sdBusy && (s.die d).sdTx == x)

/-- The first number from one on that is free. -/
def pickTx (busy : Nat → Bool) (x : Nat) : Nat → Nat
  | 0 => x
  | n + 1 => if busy x then pickTx busy ((x + 1) % 4096) n else x

/-- A transaction number of a die that none of its open transactions has (R298). -/
def State.freshTx (s : State) (d : Nat) : Nat := pickTx (s.txBusy d) (s.nextTx % 4096) 4096

/-- A request of a die toward another, under a fresh number. -/
def State.newReq (s : State) (d cl : Nat) (op : Mop) (mir : Bool) (to_ : Nat) : SReq :=
  ⟨cl, op, s.freshTx d, mir, 0, none, false, (s.die d).fclk.toNat, to_, s.nextTx⟩

/-- Counts a number as used. -/
def State.bumpTx (s : State) : State := { s with nextTx := s.nextTx + 1 }

/-- The key, apart from the lines, of an operation that a die awaits: its kind, its own number, its line. -/
def opKey (kind x la : Nat) : Nat := ((x + 1) * 16 + kind) * 2 ^ 46 + la % 2 ^ 46
/-- The kind of a key. -/
def keyKind (k : Nat) : Nat := k / 2 ^ 46 % 16
/-- The line of a key. -/
def keyLine (k : Nat) : Nat := k % 2 ^ 46
/-- A mirror copy under way (R267). -/
def mirKey (tx la : Nat) : Nat := opKey 1 tx la
/-- A probe of a junction (R263). -/
def probeKey (target : Nat) : Nat := opKey 2 target 0
/-- The die that a probe's key names. -/
def probed (k : Nat) : Nat := k / 2 ^ 50 - 1
/-- An untracked read of a line. -/
def rduKey (la : Nat) : Nat := opKey 3 0 la
/-- A read of a remote line. -/
def remKey (la : Nat) : Nat := opKey 4 0 la
/-- A write under way to its home or egress. -/
def wrKey (tx la : Nat) : Nat := opKey 5 tx la
/-- A lane's atomic that was sent to another home. -/
def offKey (id lane la : Nat) : Nat := opKey 6 (id * 32 + lane) la
/-- An update of a count barrier under way to its home. -/
def barKey (tx la : Nat) : Nat := opKey 7 tx la

/-- Sends a request of a die, which awaits it under a key by a fresh number. -/
def State.askOff (s : State) (d key : Nat) (op : Mop) (m : Msg) : State :=
  let q := s.newReq d 0 op false m.dst
  ((s.setSent ⟨d, key, [], .i, false, some q, []⟩).bumpTx).send op { m with txid := q.txid, rtx := q.txid }

/-- Whether a die awaits an operation of a kind on a line. -/
def State.awaits (s : State) (d kind la : Nat) : Bool :=
  s.sdir.any fun e => e.die == d && decide (2 ^ 46 ≤ e.la) && keyKind e.la == kind && keyLine e.la == la && e.req.isSome

/-- Drops what a die awaits of a kind on a line; a late answer finds nothing. -/
def State.forget (s : State) (d kind la : Nat) : State :=
  { s with sdir := s.sdir.filter fun e => !(e.die == d && decide (2 ^ 46 ≤ e.la) && keyKind e.la == kind && keyLine e.la == la) }

/-! ### Monitor events that this layer raises (R432, R433) -/

/-- Counts an event and gives its count. -/
def Die.count (x : Die) (code : Nat) : Die := { x with evcnt := x.evcnt.set code (x.evcnt.get code + 1) }

/-! ### The data at the home of a line -/

/-- Whether a line is LOST at its directory (R269). -/
def State.lineLost (s : State) (la : Nat) : Bool := (s.jent (s.dirDie la) la).st == .lost

/-- Whether the home of a line cannot answer a die (R266, R443, R444). -/
def State.homeGone (s : State) (d la : Nat) : Bool :=
  match s.home la with
  | .dev h => s.cut d h || s.dead h
  | .remote g => s.cut d (s.maq.egress.getD g ⟨0, 0, 0⟩).die.toNat
  | _ => false

/-- A refusal of an access to a LOST line is counted at its directory, for the loss record (R270). -/
def State.countErr (s : State) (la : Nat) : State :=
  let j := s.jent (s.dirDie la) la
  if j.st == .lost then s.setJent { j with errs := j.errs + 1 } else s

/-- The bytes of an aligned value in a line. -/
def lineField (x : LineData) (off n : Nat) : Nat := fieldN x.toNat (8 * off) (8 * n)

/-- The type under which an update of a count barrier travels and waits: AOP 0 to 2 as `CBar.update`, 3 ORs a patina into a slot, 4 clears the
slot (R81, R194). -/
def barTy : BitVec 5 := 0x1F

/-- What an accepted write or atomic makes of a line: the new data, and the bytes that it writes. -/
def HomeWr.new (w : HomeWr) (x : LineData) : LineData × BitVec 64 :=
  match w.atom with
  | none => (mergeLine x w.mask w.data, w.mask)
  | some (aop, ty, off, op, cmp) =>
    if ty = barTy then
      if aop.toNat < 3 then
        let m := BitVec.ofNat 64 ((2 ^ 24 - 1) * 2 ^ off)
        (mergeLine x m (BitVec.ofNat 512 (((cbarOf (lineField x off 32)).update aop.toNat op).bits * 2 ^ (8 * off))), m)
      else (if aop = 3 then x ||| BitVec.ofNat 512 op else 0, fullMask)
    else
    let n := tyBits ty / 8
    let m := BitVec.ofNat 64 ((2 ^ n - 1) * 2 ^ off)
    (mergeLine x m (BitVec.ofNat 512 (aopNew aop ty (lineField x off n) op cmp % 2 ^ (8 * n) * 2 ^ (8 * off))), m)

/-- The line as its home has it: a dirty tracked copy of a live die, or what the buddy holds of a dead one's, else memory. -/
def State.rawLine (s : State) (la : Nat) : LineData :=
  match s.clines.find? fun x => x.la == la && x.dirtyT && !s.dead x.die with
  | some x => x.data
  | none => match s.mirrors.find? fun x => x.la == la && s.dead x.owner && !s.dead x.die with
    | some x => mergeLine (memLine s.mem la) x.mask x.data
    | none => memLine s.mem la

/-- The line that an agent at the home reads: what the home has accepted counts. -/
def State.homeLine (s : State) (la : Nat) : LineData :=
  (s.hws.filter fun w => w.la == la).foldl (fun x w => (w.new x).1) (s.rawLine la)

/-- One byte of the newest data of its line. -/
def State.homeByte (s : State) (a : Nat) : BitVec 8 :=
  if (s.hws.any fun w => w.la == a / 64) || (s.mirrors.any fun x => x.la == a / 64) || s.clines.any fun x => x.la == a / 64 && x.dirtyT then
    lineByte (s.homeLine (a / 64)) (a % 64)
  else s.mem.get a

/-! ### The slice directory (R250 to R253) -/

/-- The number under which a home's slice itself asks for a line. -/
def agentCl : Nat := 31

/-- The die's permission for a line: M for a home line held alone (R251); a line the host may cache needs the junction (R273). -/
def State.dpOf (s : State) (d la : Nat) : Dp :=
  let e := s.sent d la
  if s.homedAt d la && !e.exp then (if s.host.filter.contains la then .s else .m) else e.dp

/-- Whether a permission covers a request (R251). -/
def Dp.covers : Dp → Mop → Bool
  | .i, _ => false
  | .s, op => op == .rds
  | .o, op => op == .rds
  | _, _ => true

/-- Dirty untracked bytes leave a cluster store for the level below it: the home accepts them, or this die's L2 holds them (R57). -/
def State.spill (s : State) (d la : Nat) (mask : BitVec 64) (x : LineData) : State :=
  match s.home la with
  | .dev h =>
    if h = d then { s with hws := s.hws ++ [⟨d, la, mask, x, none, none, false, false⟩] }
    else
      let y : L2Line := (s.l2.find? fun y => y.die == d && y.la == la && !y.comp).getD ⟨d, la, false, 0, false, 0⟩
      { s with l2 := upsert (fun y => y.die == d && y.la == la && !y.comp) { y with mask := y.mask ||| mask, data := mergeLine y.data mask x } s.l2 }
  | _ => s

/-- An untracked copy that a tracked one is about to replace leaves with its dirty bytes (R58). -/
def State.yieldUntracked (s : State) (d cl la : Nat) : State :=
  match s.cline? d cl la with
  | some ⟨_, _, _, _, .untracked m _, x⟩ => if m = 0 then s else s.spill d la m x
  | some ⟨_, _, _, _, .priv m _ _, x⟩ => if m = 0 then s else s.spill d la m x
  | _ => s

/-- Resolves a request that the die's permission covers; `fill` is data that a grant brought (R251). A request of the home's slice itself
leaves the line in its memory and no copy in a cluster. -/
def State.sliceResolve (s : State) (op : Mop) (d cl la : Nat) (mir : Bool) (fill : Option LineData) : State :=
  let cs := s.copies d la
  let others := cs.filter fun x => x.cl != cl
  let x := if cs.isEmpty then fill.getD (memLine s.mem la) else s.dieData d la
  let spc := if s.home la = .host then 1 else 0
  if cl = agentCl then
    let s := { s with mem := putLine s.mem la fullMask x }
    (if op == .rds then s.demote d la none else s.dropCopies d la none true).sync d la
  else
    let s := if op == .rds then
        let st : Moesi := if others.isEmpty && (s.dpOf d la == .e || s.dpOf d la == .m) then .e else .s
        let s := s.demote d la (some cl)
        match s.cline? d cl la with
        | some ⟨_, _, _, _, .tracked _ _, _⟩ => s
        | _ => (s.yieldUntracked d cl la).setCline ⟨d, cl, la, spc, .tracked st mir, x⟩
      else ((s.yieldUntracked d cl la).dropCopies d la (some cl) false).setCline ⟨d, cl, la, spc, .tracked .m mir, x⟩
    s.sync d la

/-- Puts a cluster's request behind the transaction in progress on its line (R253). -/
def State.sliceWait (s : State) (op : Mop) (d cl la : Nat) (mir : Bool) : State :=
  let e := s.sent d la
  if e.wq.contains (cl, op, mir) then s else s.setSent { e with wq := e.wq ++ [(cl, op, mir)] }

/-- A cluster's dirty write-back of a tracked line (R251): at a home held alone the slice takes the data, else it goes to the junction. -/
def State.sliceWbd (s : State) (d cl la : Nat) : State :=
  if (s.sent d la).req.isSome then s.sliceWait .wbd d cl la false else
  match s.cline? d cl la with
  | some x =>
    if x.dirtyT then
      let s := (s.dropCline d cl la).sync d la
      let e := s.sent d la
      if s.homedAt d la && !e.exp then { s with mem := putLine s.mem la fullMask x.data
                                                mirrors := s.mirrors.filter fun y => y.la != la }
      else
        let s := s.setSent { e with dp := if e.pres.isEmpty then .i else .s }
        (s.send .wbd { mkMsg (s.dirDie la) d la (s.freshTx d) with lines := [(fullMask, x.data)], mir := !e.pres.isEmpty }).bumpTx
    else s
  | none => s

/-- A cluster's notice that it drops a clean tracked line (R251). -/
def State.sliceEvc (s : State) (d cl la : Nat) : State :=
  if (s.sent d la).req.isSome then s.sliceWait .evc d cl la false else
  match s.cline? d cl la with
  | some x =>
    if x.kind.moesi?.isSome && !x.dirtyT then
      let s := (s.dropCline d cl la).sync d la
      let e := s.sent d la
      if !e.pres.isEmpty || (s.homedAt d la && !e.exp) then s
      else ((s.setSent { e with dp := .i }).send .evc (mkMsg (s.dirDie la) d la (s.freshTx d))).bumpTx
    else s
  | none => s

/-- The set of a line in a slice's arrays of 4096 sets of 16 ways (R49, R250). -/
def sliceSet (la : Nat) : Nat := la / 64 % 4096

/-- Makes room in the set of a die's slice for the entry of a line: the oldest entry of a full set of its kind, home or proxy, leaves, and every
cluster's copy of its line with it (R250). -/
def State.sliceRoom (s : State) (d la : Nat) : State :=
  let set := s.sdir.filter fun e => e.die == d && !e.pres.isEmpty && sliceOf e.la == sliceOf la && sliceSet e.la == sliceSet la
    && s.homedAt d e.la == s.homedAt d la
  if set.length < 16 || set.any fun e => e.la == la then s
  else match set.find? fun e => e.req.isNone with
    | some e => (s.copies d e.la).foldl (fun s x => ((s.sliceWbd d x.cl e.la).sliceEvc d x.cl e.la).watchLoss d x.cl e.la) s
    | none => s

/-- Whether a shadow still rebuilds the bucket of a line: requests stall at their senders, which send them again after the census (R264). -/
def State.inCensus (s : State) (d la : Nat) : Bool :=
  !(s.die d).census.isEmpty && s.home la != HomeK.host && (s.maq.buckets.getD (bucketOf la) 0).toNat % 16 != d

/-- Sends a die's request for a line to its junction, unless it stalls for a census (R253, R264). -/
def State.sendReq (s : State) (d la : Nat) (q : SReq) : State :=
  if s.inCensus q.to_ la then s else s.send q.op { mkMsg q.to_ d la q.txid with mir := q.mir, pri := decide (3 ≤ q.retries) }

/-- Serves a request of a cluster for a line with no transaction in progress: here, or at the junction (R251, R253). -/
def State.sliceServe (s : State) (op : Mop) (d cl la : Nat) (mir : Bool) : State :=
  let s := s.sliceRoom d la
  if (s.dpOf d la).covers op then s.sliceResolve op d cl la mir none
  else
    let q := s.newReq d cl op mir (s.dirDie la)
    ((s.setSent { s.sent d la with req := some q }).bumpTx).sendReq d la q

/-- A cluster's request for a line at its die's slice, which takes the requests for one line in order of arrival (R251, R253). -/
def State.sliceReq (s : State) (op : Mop) (d cl la : Nat) (mir : Bool) : State :=
  let e := s.sent d la
  match e.req with
  | none => s.sliceServe op d cl la mir
  | some q =>
    if q.cl == cl && q.op == op then s else s.sliceWait op d cl la mir

/-- Takes up the requests that wait at a slice for a line, while none is in progress. -/
def State.sliceNext (s : State) (d la : Nat) : Nat → State
  | 0 => s
  | n + 1 =>
    let e := s.sent d la
    match e.req, e.wq with
    | none, w :: ws =>
      let own := (s.cline? d w.1 la).any fun x => x.kind.moesi?.isSome
      let op := if w.2.1 == .upg && !own then Mop.rdx else w.2.1
      let s := s.setSent { e with wq := ws }
      (if op == .wbd then s.sliceWbd d w.1 la else if op == .evc then s.sliceEvc d w.1 la else s.sliceServe op d w.1 la w.2.2).sliceNext d la n
    | _, _ => s

/-- Ends the transaction in progress at a slice, and takes up the next. -/
def State.endReq (s : State) (d la : Nat) : State :=
  let e := s.sent d la
  (s.setSent { e with req := none }).sliceNext d la (e.wq.length + 1)

/-- Completes a granted request once its data is here (R253). -/
def State.sliceFinish (s : State) (d la : Nat) : State :=
  let e := s.sent d la
  match e.req with
  | some q =>
    if q.err || !(e.dp.covers q.op) then s
    else if q.data.isNone && (s.copies d la).isEmpty then s
    else ((s.setSent { e with req := none }).sliceResolve q.op d q.cl la q.mir q.data).sliceNext d la (e.wq.length + 1)
  | none => s

/-! ### Writes at the home (R255, R273) -/

/-- Whether the home can perform a write at once: no entry beyond it, no copy at the host, nothing accepted before it. -/
def State.homeFree (s : State) (la : Nat) : Bool :=
  !(s.hws.any fun w => w.la == la) && !s.host.filter.contains la &&
  match s.home la with
  | .dev h => (s.dpOf h la).covers .rdx && (s.sent h la).req.isNone
  | _ => true

/-- The bytes of a line that the device view wrote since the last decompress-and-fence, as its home's slices know them (R66). -/
def State.deviceMask (s : State) (la : Nat) : BitVec 64 :=
  match s.l2.find? fun y => y.la == la && !y.comp && s.homedAt y.die la with
  | some y => y.mask
  | none => 0

/-- Performs masked bytes at the home: its own clusters' copies go, dirty data first (R251); the slices know which bytes the device view of a
compressed page wrote, and those win over the compressed view's (R66). -/
def State.homePut (s : State) (la : Nat) (mask : BitVec 64) (x : LineData) (comp : Bool := false) : State :=
  let mask := if comp then mask &&& ~~~s.deviceMask la else mask
  let s := match s.home la with
    | .dev h =>
      if (s.copies h la).isEmpty then s
      else
        let y := s.dieData h la
        let s := if s.dieDirty h la then { s with mem := putLine s.mem la fullMask y, mirrors := s.mirrors.filter fun z => z.la != la } else s
        (s.dropCopies h la none true).sync h la
    | _ => s
  let l2 := s.l2.map fun y => if y.la == la && !y.comp && !comp && s.homedAt y.die la then { y with mask := y.mask ||| mask } else y
  ({ s with mem := putLine s.mem la mask x, l2 := l2 }).watchWrite la

/-- Sends BISnp for a line that the host may cache and holds a request back until BIRsp (R273); one BISnp serves all that wait. -/
def State.biSnoop (s : State) (la : Nat) (op : Mop) (m : Msg) : State :=
  let s0 : State := { s with host := { s.host with bis := s.host.bis ++ [(la, op, m)] } }
  if s.host.bis.any fun b => b.1 == la then s0 else s0.emit (.bisnp la)

/-- Answers the message of an accepted write or atomic. -/
def State.homeAnswer (s : State) (w : HomeWr) (old : LineData) (lost : Bool) : State :=
  let s := if w.host then s.emit (.hostDone w.la) else s
  match w.ack with
  | none => s
  | some m =>
    if lost then s.send .err (mkMsg m.req w.home m.la m.rtx)
    else if w.atom.isSome then s.send .data { mkMsg m.req w.home w.la m.rtx with lines := [(fullMask, old)] }
    else s.send .ack (mkMsg m.req w.home w.la m.rtx)

/-- The home gives up the permission that it obtained for its accepted writes. -/
def State.homeYield (s : State) (h la : Nat) : State :=
  let e := s.sent h la
  if !e.exp || !(s.copies h la).isEmpty || e.dp == .i || e.req.isSome || !e.wq.isEmpty || s.hws.any (fun w => w.la == la) then s
  else ((s.setSent { e with dp := .i }).send .evc (mkMsg (s.dirDie la) h la (s.freshTx h))).bumpTx

/-- Takes an accepted write off the home's list. -/
def State.dropHw (s : State) (w : HomeWr) : State := { s with hws := s.hws.erase w }

/-- The next step toward the oldest accepted write of a line, if one is due: BISnp, the junction's grant, then the bytes; a line that is LOST
takes none. -/
def State.homeStep (s : State) (la : Nat) : Option State :=
  match s.hws.find? fun w => w.la == la with
  | none => none
  | some w =>
    let h := w.home
    let q := (s.sent h la).req
    let err := q.any fun q => q.err && q.cl == agentCl
    if s.lineLost la || err then
      let s := (if err then s.endReq h la else s).countErr la
      some ((s.dropHw w).homeAnswer w 0 true)
    else if s.host.filter.contains la && !w.host then
      if s.host.bis.any fun b => b.1 == la then none else some (s.biSnoop la .wru (mkMsg h h la 0))
    else if s.homedAt h la && !(s.dpOf h la).covers .rdx && !(w.host && s.dpOf h la == .s && !(s.sent h la).exp) then
      if q.any (fun q => q.cl == agentCl && q.op == .rdx) || (s.sent h la).wq.contains (agentCl, .rdx, false) then none
      else some (s.sliceReq .rdx h agentCl la false)
    else if q.isSome then none
    else
      let s := s.dropHw w
      let x := if s.homedAt h la then s.dieData h la else s.rawLine la
      let r := w.new x
      some (((s.homePut la r.2 r.1 w.comp).homeAnswer w x false).homeYield h la)

/-- Takes the steps toward a line's accepted writes that are due, up to a bound. -/
def State.homeServe (s : State) (la : Nat) : Nat → State
  | 0 => s
  | n + 1 => match s.homeStep la with
    | some s => s.homeServe la n
    | none => s

/-- The home accepts a write or an atomic, and performs it as soon as nothing stands in its way. -/
def State.homeAccept (s : State) (w : HomeWr) : State := ({ s with hws := s.hws ++ [w] } : State).homeServe w.la (2 * s.hws.length + 4)

/-- A write of masked bytes at the home, applied as a tracked write (R255): performed at once where nothing stands in its way. -/
def State.homeWrite (s : State) (la : Nat) (mask : BitVec 64) (x : LineData) (comp : Bool := false) : State :=
  if s.homeFree la && !s.lineLost la then s.homePut la mask x comp
  else
    let h := match s.home la with
      | .dev h => h
      | _ => 0
    s.homeAccept ⟨h, la, mask, x, none, none, false, comp⟩


/-- The memory ring of `lrbase`'s map: base, size, PROD and CONS (R270). -/
structure Ring where
  base : Nat
  size : Nat

/-- Reads a ring word's fields; LOGN 0 to 5 are treated as 6. -/
def ringOf (w : Word) : Ring := ⟨fieldN w.toNat 12 40 * 4096, 2 ^ (max 6 (w.toNat % 16))⟩

/-- Reads `n` bytes at a physical address, coherently. -/
def State.physRead (s : State) (pa n : Nat) : Nat :=
  ofBytes ((rangeFrom pa n).map s.homeByte)

/-- Writes bytes at a physical address, coherently, line by line. -/
def State.physWrite (s : State) (pa : Nat) (bs : List (BitVec 8)) : State :=
  let n := bs.length
  if n = 0 then s else
  (rangeFrom (pa / 64) ((pa + n - 1) / 64 - pa / 64 + 1)).foldl (fun s la =>
    let at_ := fun i => 64 * la + i - pa
    let inR := fun i => decide (pa ≤ 64 * la + i) && decide (64 * la + i < pa + n)
    let mask := (rangeFrom 0 64).foldl (fun m i => if inR i then m ||| BitVec.ofNat 64 (2 ^ i) else m) (0 : BitVec 64)
    let x := BitVec.ofNat 512 (ofBytes ((rangeFrom 0 64).map fun i => if inR i then bs.getD (at_ i) 0 else 0))
    s.homeWrite la mask x) s

/-- Appends a 32-byte record to a ring, the record before PROD; none when the ring has no space (R270, R393, R432). -/
def State.ringPut (s : State) (w : Word) (rec_ : Nat) : Option State :=
  let r := ringOf w
  if r.base = 0 then none else
  let prod := s.physRead r.base 8
  let cons := s.physRead (r.base + 64) 8
  if (prod + 2 ^ 64 - cons) % 2 ^ 64 = r.size then none
  else
    let s := s.physWrite (r.base + 128 + 32 * (prod % r.size)) (bytesN rec_ 32)
    some (s.physWrite r.base (bytesN ((prod + 1) % 2 ^ 64) 8))

/-- Raises a monitor event with its source unit and DETAIL: counts it, and writes a record or drops it (R432). A dropped record is remembered so that
event 0x13 can follow once space frees. -/
def State.monitorAt (s : State) (d code src detail : Nat) : State :=
  let s := s.onDie d fun x => x.count code
  let x := s.die d
  match s.ringPut x.monring (code % 65536 + src % 65536 * 2 ^ 16 + detail % 2 ^ 64 * 2 ^ 64 + x.fclk.toNat * 2 ^ 192) with
  | some s => s
  | none => s.onDie d fun x => { x with monFull := x.monring.toNat / 4096 % 2 ^ 40 != 0 }

/-- Raises a monitor event for which the manual gives no source unit and no DETAIL: they are free values (log 11). -/
def State.monitor (s : State) (d code : Nat) : State :=
  let n := s.free
  { s with free := n + 3 }.monitorAt d code (Config.free32 n).toNat ((Config.free32 (n + 1)).toNat * 2 ^ 32 + (Config.free32 (n + 2)).toNat)

/-! ### The junction directory (R256 to R262) -/

/-- The number that stands for the host among the answers a transaction awaits. -/
def hostAck : Nat := 99

/-- The holder fewest hops from a die, the lowest number on a tie (R257). -/
def State.nearest (s : State) (q : Nat) : List Nat → Option Nat
  | [] => none
  | x :: xs => match s.nearest q xs with
    | some y => if s.hops x q 8 < s.hops y q 8 || (s.hops x q 8 == s.hops y q 8 && x ≤ y) then some x else some y
    | none => some x

/-- The number that stands for the host's BIRsp among the answers a recall awaits (R273). -/
def biAck : Nat := 98
/-- A sharer's number among the awaited answers while it is still to be asked: a shared line's owner is asked first, so that a live
sharer holds the value if the owner does not answer (R257, R266). -/
def laterNum (d : Nat) : Nat := 300 + d
/-- A die's number once its `WbD` or `Evc`, which crossed the snoop, has come and its `Gone` has not (R259). -/
def goneNum (d : Nat) : Nat := 200 + d
/-- A die's number once its `Gone` has come and the `WbD` or `Evc` that it tells of has not (R259). -/
def leftNum (d : Nat) : Nat := 400 + d

/-- Snoops a die for the transaction of an entry: the snoop names the asker, its number, and the last request granted to the snooped die. -/
def State.snoop (s : State) (op : Mop) (j : JEnt) (t : JTx) (d : Nat) : State :=
  let g : BitVec 46 := match j.grants.find? fun x => x.1 == d with
    | some x => BitVec.ofNat 46 (4096 + x.2 % 4096)
    | none => 0
  s.send op { mkMsg d j.die j.la t.txid with req := t.m.req, rtx := t.m.rtx, arg := g }

/-- Ends a transaction that cannot be completed: the asker receives `Err`, and what waits behind it is taken up (R443). -/
def State.jRefuse (s : State) (d la : Nat) : State :=
  let j := s.jent d la
  match j.tx with
  | none => s
  | some t =>
    let s := s.setJent { j with tx := none, wq := [] }
    let s : State := { s with msgs := j.wq ++ t.next.toList ++ s.msgs }
    if t.op == .recall then s else s.send .err (mkMsg t.m.req d la t.m.rtx)

/-- Asks the home to supply for the transaction of an entry: the home slice, or the host for a host line (R257, R272). -/
def State.askHome (s : State) (op : Mop) (d la : Nat) : State :=
  match (s.jent d la).tx with
  | none => s
  | some t => match s.home la with
    | .dev h =>
      if s.cut d h then s.jRefuse d la
      else s.send op { mkMsg h d la t.txid with req := t.m.req, rtx := t.m.rtx, toSlice := true }
    | .host => s.emit (.hostReq op la none)
    | _ => s

/-- The number whose answer follows `askHome`. -/
def State.homeAck (s : State) (la : Nat) : Nat :=
  match s.home la with
  | .dev h => h
  | _ => hostAck

/-- The entry's state once a transaction has every answer, with the DP of the grant (R257). -/
def JEnt.after (j : JEnt) (t : JTx) (home : Nat) (inFilter hostLine : Bool) : JEnt × Nat :=
  let q := t.m.req
  match t.op with
  | .rds =>
    match j.st with
    | .absent =>
      if t.kept && t.dirty then ({ j with st := .os, owner := home, holders := (if home = q then [] else [home]) ++ [q] }, 1)
      else if t.kept then ({ j with st := .sh, holders := (if home = q then [] else [home]) ++ [q] }, 1)
      else if inFilter || hostLine then ({ j with st := .sh, holders := [q] }, 1)
      else ({ j with st := .own, owner := q, holders := [q] }, 2)
    | .own => if t.dirty then ({ j with st := .os, holders := j.holders.filter (· != q) ++ [q] }, 1)
      else ({ j with st := .sh, holders := j.holders.filter (· != q) ++ [q] }, 1)
    | _ => ({ j with holders := j.holders.filter (· != q) ++ [q] }, 1)
  | .recall => ({ j with st := .absent, holders := [] }, 0)
  | _ => ({ j with st := .own, owner := q, holders := [q] }, 3)

/-- Frees the mirror entries of a line but those of one owner, once ownership has ended (R267). -/
def State.freeMirrors (s : State) (la : Nat) (keep : Option Nat) : State :=
  { s with mirrors := s.mirrors.filter fun x => x.la != la || some x.owner == keep }

/-- The first request at raised priority that waits for a way of a line's set (R261). -/
def State.raisedFor (s : State) (d la : Nat) : Option (Mop × Msg) :=
  (s.die d).raised.find? fun p => p.2.la % 65536 == la % 65536

/-- What waits for a line or a way is taken up again: first a request at raised priority for a way of the set, then the line's own in order of
arrival (R258, R261). -/
def State.jRelease (s : State) (d la : Nat) (again : List (Mop × Msg)) : State :=
  match (if s.home la == .host then none else s.raisedFor d la) with
  | some p =>
    let s := s.onDie d fun x => { x with raised := x.raised.erase p }
    { s with msgs := p :: again ++ s.msgs }
  | none => { s with msgs := again ++ s.msgs }

/-- Ends a transaction: new state, grant to the asker, then the waiting requests in order of arrival (R257, R258). -/
def State.jDone (s : State) (d la : Nat) : State :=
  let j := s.jent d la
  match j.tx with
  | none => s
  | some t =>
    let home := s.homeAck la
    let (j', dp) := j.after t home (s.host.filter.contains la) (s.home la = .host)
    let grants := j'.grants.filter fun x => j'.holders.contains x.1 && x.1 != t.m.req
    let s := s.setJent { j' with tx := none, wq := [], grants := if t.op == .recall then [] else grants ++ [(t.m.req, t.m.rtx)] }
    let s := s.jRelease d la (j.wq ++ t.next.toList)
    let s := if t.op == .rds then s else s.freeMirrors la (if t.op == .recall then none else some t.m.req)
    if t.op == .recall then (if s.home la == .host && !t.dirty then s.emit (.hostReq .evc la none) else s)
    else s.send .grant { mkMsg t.m.req d la t.m.rtx with arg := BitVec.ofNat 46 dp }

/-- Asks the sharers that were to be asked once nothing else is awaited. -/
def State.askLater (s : State) (d la : Nat) (t : JTx) : State :=
  if t.acks.all fun x => 300 ≤ x && x < 400 then
    let j := s.jent d la
    let hs := t.acks.map fun x => x - 300
    let s := s.setJent { j with tx := some { t with acks := hs } }
    hs.foldl (fun s x => s.snoop (if t.op == .recall then .recall else .snpi) j t x) s
  else s

/-- Ends a transaction if it awaits nothing. -/
def State.jCheck (s : State) (d la : Nat) : State :=
  match (s.jent d la).tx with
  | some t => if t.acks.isEmpty then s.jDone d la else s.askLater d la t
  | none => s

/-- Starts a transaction on an idle entry: which dies are asked for what (R257). -/
def State.jStart (s : State) (op : Mop) (m : Msg) : State :=
  let d := m.dst
  let la := m.la
  let q := m.req
  let j := s.jent d la
  let op' := if op == .upg && !j.holders.contains q then Mop.rdx else op
  let now := (s.die d).fclk.toNat
  -- a holder that has been declared failed holds nothing (R263)
  let j : JEnt := { j with holders := j.holders.filter fun x => !(s.die x).failed || (x == j.owner && j.st != JSt.sh) }
  let j0 := if j.st == .absent then { j with mir := m.mir, host := s.home la == .host, seq := (s.die d).jseq } else j
  -- a die that asks again is fenced no longer (R268)
  let j0 := { j0 with fenced := j0.fenced.filter (· != q) }
  let s := if j.st == .absent then s.onDie d fun x => { x with jseq := x.jseq + 1 } else s
  let tx := fun (sup : Option Nat) (acks : List Nat) => (⟨op', m, acks, false, false, now, none, s.freshTx d, sup⟩ : JTx)
  let put := fun (sup : Option Nat) (acks : List Nat) => (s.setJent { j0 with tx := some (tx sup acks) }).bumpTx
  let home := fun (op : Mop) => (put none [s.homeAck la]).askHome op d la
  -- one holder is asked to supply
  let ask := fun (op : Mop) (x : Nat) (later : List Nat) => (put (some x) (x :: later.map laterNum)).snoop op j0 (tx (some x) []) x
  match j.st, op' with
  | .absent, _ => home op'
  | .sh, .rds => match s.nearest q (j.holders.filter (· != q)) with
    | some x => ask .snpf x []
    | none => home .rds
  | .sh, _ =>
    let others := j.holders.filter (· != q)
    let sup := if op' == .rdx then s.nearest q others else none
    let needHome := s.home la == .host || (op' == .rdx && sup.isNone)
    let s := put sup (others ++ if needHome then [s.homeAck la] else [])
    let s := others.foldl (fun s x => s.snoop (if sup == some x then .snpfi else .snpi) j0 (tx sup []) x) s
    (if needHome then s.askHome .rdx d la else s).jCheck d la
  | .own, .rds => if j.owner == q then (put none []).jCheck d la else ask .snpf j.owner []
  | .own, _ => if j.owner == q then (put none []).jCheck d la else ask .snpfi j.owner []
  | .os, .rds => if j.owner == q then (put none []).jCheck d la else ask .snpf j.owner []
  | .os, _ => ask .snpfi j.owner (j.holders.filter fun x => x != q && x != j.owner)
  | .lost, _ => s

/-- Starts the recall of a victim entry, holding the request that needs its way (R260); a line that the host may cache is taken back from it
as well (R273). -/
def State.jRecall (s : State) (v : JEnt) (next : Option (Mop × Msg)) : State :=
  let first := if v.st == .os then [v.owner] else v.holders
  let later := if v.st == .os then (v.holders.filter (· != v.owner)).map laterNum else []
  let bi := s.host.filter.contains v.la
  let t : JTx := ⟨.recall, mkMsg v.die v.die v.la 0, first ++ later ++ (if bi then [biAck] else []), false, false, (s.die v.die).fclk.toNat, next,
    s.freshTx v.die, none⟩
  let s := (s.setJent { v with tx := some t }).bumpTx
  let s := if bi then s.biSnoop v.la .wru (mkMsg v.die v.die v.la 0) else s
  let s := first.foldl (fun s x => s.snoop .recall v t x) s
  (s.monitor v.die 2).jCheck v.die v.la

/-- The ways in use of the set of a line (R256); host lines stand in an array of their own (R272). -/
def State.jset (s : State) (d la : Nat) : List JEnt :=
  s.jdir.filter fun e => e.die == d && e.la % 65536 == la % 65536 && s.home e.la != .host

/-- A request that arrives at its junction (R257, R258, R260, R261, R273). -/
def State.jReq (s : State) (op : Mop) (m : Msg) : State :=
  let d := m.dst
  let j := s.jent d m.la
  if s.inCensus d m.la then s
  else if j.st == .lost then
    (s.setJent { j with errs := j.errs + 1 }).send .err (mkMsg m.req d m.la m.rtx)
  else if j.tx.isSome then s.setJent { j with wq := j.wq ++ [(op, m)] }
  else if op != .rds && s.host.filter.contains m.la then s.biSnoop m.la op m
  else if j.st == .absent then
    let set := s.jset d m.la
    if set.length < 16 || s.home m.la == .host then s.jStart op m
    else
      match (set.filter fun e => e.tx.isNone && e.st != .lost).foldl (fun b e => match b with
          | some v => if e.seq < v.seq then some e else b
          | none => some e) none with
      | some v => s.jRecall v (some (op, m))
      | none =>
        if m.pri then s.onDie d fun x => { x with raised := x.raised ++ [(op, m)] }
        else s.send .retry (mkMsg m.req d m.la m.rtx)
  else s.jStart op m

/-- An answer to the transaction of an entry: `dirty` and `kept` as ARG bits 0 and 1 say. A fenced die's answer is discarded (R268). -/
def State.jAck (s : State) (d la from_ : Nat) (dirty kept : Bool) : State :=
  let j := s.jent d la
  match j.tx with
  | some t =>
    let num := if t.acks.contains from_ then from_ else goneNum from_
    if t.acks.contains num && !j.fenced.contains from_ then
      (s.setJent { j with tx := some { t with acks := t.acks.erase num, dirty := t.dirty || dirty, kept := t.kept || kept } }).jCheck d la
    else s
  | none => s

/-- Writes a line back to its home: the home slice, or the host (R257, R272). -/
def State.toHome (s : State) (d la : Nat) (x : LineData) : State :=
  match s.home la with
  | .dev h => s.bumpTx.send .wbd { mkMsg h d la (s.freshTx d) with lines := [(fullMask, x)], toSlice := true }
  | .host => s.emit (.hostReq .wbd la (some x))
  | _ => s

/-- Removes a holder; ownership that it had ends (R257). -/
def JEnt.leave (j : JEnt) (d : Nat) : JEnt :=
  let hs := j.holders.filter (· != d)
  { j with holders := hs, st := if hs.isEmpty then .absent else if (j.st == .own || j.st == .os) && j.owner == d then .sh else j.st }

/-- The number under which a transaction awaits a die whose data have left: the die's own, or the one after its `Gone`. -/
def JTx.awaited (t : JTx) (d : Nat) : Option Nat :=
  if t.acks.contains d then some d else if t.acks.contains (leftNum d) then some (leftNum d) else none

/-- The answers that a transaction awaits once a die's `WbD` or `Evc` has come: its `Gone` is still to come unless it came first. -/
def JTx.came (t : JTx) (d : Nat) : JTx :=
  match t.awaited d with
  | some n => { t with acks := t.acks.erase n ++ if n = d then [goneNum d] else [] }
  | none => t

/-- A die's `WbD` at the junction (R257); one that crosses a snoop supplies the data and is applied to the home (R259). The message's
MIR bit says that other clusters of the die keep clean copies, which then answer the snoop. -/
def State.jWbd (s : State) (m : Msg) (x : LineData) : State :=
  let d := m.dst
  let j := s.jent d m.la
  if s.inCensus d m.la then s.toHome d m.la x
  else if j.fenced.contains m.src || !((j.st == .own || j.st == .os) && j.owner == m.src) then s else
  let s := (s.toHome d m.la x).freeMirrors m.la none
  let j' := if m.mir then { j with st := .sh } else j.leave m.src
  match j.tx with
  | some t =>
    if (t.awaited m.src).isSome && !m.mir then
      let s := if t.sup == some m.src then s.send .data { mkMsg t.m.req d m.la t.m.rtx with lines := [(fullMask, x)] } else s
      (s.setJent { j' with tx := some (t.came m.src) }).jCheck d m.la
    else s.setJent j'
  | none => (s.setJent j').jRelease d m.la []

/-- A die's `Evc` at the junction (R257); where the die was to supply a clean line, another holder or the home does. -/
def State.jEvc (s : State) (m : Msg) : State :=
  let d := m.dst
  let la := m.la
  let j := s.jent d la
  if j.fenced.contains m.src || j.st == .lost || !j.holders.contains m.src then s else
  let j' := j.leave m.src
  match j.tx with
  | none =>
    let s := if j'.holders.isEmpty && s.home la = .host then s.emit (.hostReq .evc la none) else s
    (s.setJent j').jRelease d la []
  | some t =>
    if (t.awaited m.src).isNone then s.setJent j'
    else
      let t' := t.came m.src
      if t.sup != some m.src then (s.setJent { j' with tx := some t' }).jCheck d la
      else match (if t.op == .rds then s.nearest t.m.req (j'.holders.filter (· != t.m.req)) else none) with
        | some x => (s.setJent { j' with tx := some { t' with acks := t'.acks ++ [x], sup := some x } }).snoop .snpf j' t x
        | none => (s.setJent { j' with tx := some { t' with acks := t'.acks ++ [s.homeAck la], sup := none } }).askHome (if t.op == .rds then .rds else .rdx) d la

/-- A die's answer that its data have left (R259): its `WbD` or `Evc` has come already, or is awaited in its place. -/
def State.jGone (s : State) (m : Msg) : State :=
  let d := m.dst
  let j := s.jent d m.la
  match j.tx with
  | some t =>
    if t.acks.contains (goneNum m.src) then s.jAck d m.la m.src false false
    else if !t.acks.contains m.src || j.fenced.contains m.src then s
    else s.setJent { j with tx := some { t with acks := t.acks.erase m.src ++ [leftNum m.src] } }
  | none => s

/-! ### At the dies that a junction asks (R257) -/

/-- Whether a die's slice has an entry's data: a cluster's copy, or at the home the memory while the die has permission. -/
def State.holds (s : State) (d la : Nat) : Bool := !(s.copies d la).isEmpty || (s.homedAt d la && (s.sent d la).dp != .i)

/-- Answers a junction. -/
def State.ackTo (s : State) (m : Msg) (dirty kept : Bool) : State :=
  s.send .ack { mkMsg m.src m.dst m.la m.txid with
    arg := BitVec.ofNat 46 ((if dirty then 1 else 0) + (if kept then 2 else 0)) }

/-- Tells a junction that this die's data have left (R259). -/
def State.tellGone (s : State) (m : Msg) : State := s.send .gone (mkMsg m.src m.dst m.la m.txid)

/-- Sends a line to the die that asked for it, under the asker's number. -/
def State.supply (s : State) (m : Msg) (x : LineData) : State :=
  s.send .data { mkMsg m.req m.dst m.la m.rtx with lines := [(fullMask, x)] }

/-- Whether a snoop comes before the grant, or its data, of the request that the junction granted this die last: the slice takes it up once that
transaction has ended (R253). -/
def State.snoopEarly (s : State) (m : Msg) : Bool :=
  decide (4096 ≤ m.arg.toNat) && (s.sent m.dst m.la).req.any fun q => q.txid == m.arg.toNat % 4096

/-- A die gives up every copy of a line; with `loss` the watches on it latch. -/
def State.giveUpLine (s : State) (d la : Nat) (loss : Bool) : State :=
  let s := (s.dropCopies d la none loss).sync d la
  s.setSent { s.sent d la with dp := .i }

/-- `SnpF`: supply and keep, M to O and E to S. -/
def State.onSnpf (s : State) (m : Msg) : State :=
  if s.holds m.dst m.la then
    let dirty := s.dieDirty m.dst m.la
    let s := s.supply m (s.dieData m.dst m.la)
    let s := (s.demote m.dst m.la none).sync m.dst m.la
    let s := s.setSent { s.sent m.dst m.la with dp := if dirty then .o else .s }
    s.ackTo m dirty true
  else s.tellGone m

/-- `SnpI`: give up every copy. -/
def State.onSnpi (s : State) (m : Msg) : State :=
  if s.holds m.dst m.la || (s.sent m.dst m.la).dp != .i then (s.giveUpLine m.dst m.la false).ackTo m false false else s.tellGone m

/-- `SnpFI`: supply and give up; the owner that asked keeps its copy and sends no data (R257). -/
def State.onSnpfi (s : State) (m : Msg) : State :=
  if m.req == m.dst then (if s.holds m.dst m.la then s.ackTo m (s.dieDirty m.dst m.la) false else s.tellGone m)
  else if s.holds m.dst m.la then
    let dirty := s.dieDirty m.dst m.la
    ((s.supply m (s.dieData m.dst m.la)).giveUpLine m.dst m.la false).ackTo m dirty false
  else s.tellGone m

/-- `Recall`: write back, give up (R260). -/
def State.onRecall (s : State) (m : Msg) : State :=
  let dirty := s.dieDirty m.dst m.la
  let s' := if dirty then s.toHome m.dst m.la (s.dieData m.dst m.la) else s
  if s.holds m.dst m.la || (s.sent m.dst m.la).dp != .i then (s'.giveUpLine m.dst m.la true).ackTo m dirty false else s.tellGone m

/-- A junction's request at the home slice, which resolves its own clusters and supplies (R257); EXP is set (R253). -/
def State.onHomeReq (s : State) (op : Mop) (m : Msg) : State :=
  let h := m.dst
  let dirty := s.dieDirty h m.la
  let kept := s.holds h m.la && op == .rds
  let x := s.dieData h m.la
  let s := s.supply m x
  let s := if op == .rds then (s.demote h m.la none) else
    let s := if dirty then { s with mem := putLine s.mem m.la fullMask x } else s
    s.dropCopies h m.la none false
  let s := s.sync h m.la
  let s := s.setSent { s.sent h m.la with exp := true, dp := if !kept then .i else if dirty then .o else .s }
  s.ackTo m dirty kept

/-! ### Answers at the asking slice -/

/-- The entry of a die whose transaction has a number, where it is that of a line. -/
def State.byTx (s : State) (d la tx : Nat) : Option (SEnt × SReq) :=
  match s.sdir.find? fun e => e.die == d && e.la % 2 ^ 46 == la % 2 ^ 46 && e.req.any fun q => q.txid == tx with
  | some e => e.req.map fun q => (e, q)
  | none => none

/-- The permission that a grant's ARG names. -/
def dpOfArg (a : Nat) : Dp := if a = 1 then .s else if a = 2 then .e else if a = 3 then .m else if a = 4 then .o else .i

/-- `Grant`: the die's permission changes (R257). -/
def State.onGrant (s : State) (m : Msg) : State :=
  match s.byTx m.dst m.la m.txid with
  | some (e, _) => (s.setSent { e with dp := dpOfArg (m.arg.toNat % 16) }).sliceFinish m.dst m.la
  | none => s

/-- Ends an operation that was awaited under a key. -/
def State.endOp (s : State) (e : SEnt) : State := { s with sdir := s.sdir.filter fun x => !(x.die == e.die && x.la == e.la) }

/-- Whether the answer to an operation only ends it: a write, or an update of a count barrier. -/
def SEnt.endsOnly (e : SEnt) : Bool := decide (2 ^ 46 ≤ e.la) && (keyKind e.la == 5 || keyKind e.la == 7)

/-- One line of a `Data` or `DataM` arrives at a die that asked for it: its masked bytes over what has come already. Data of a fenced die are
discarded (R268). -/
def State.takeLine (s : State) (d from_ la tx : Nat) (mask : BitVec 64) (x : LineData) : State :=
  if (s.jent (s.dirDie la) la).fenced.contains from_ then s else
  match s.byTx d la tx with
  | some (e, q) =>
    if e.endsOnly then s.endOp e
    else
      let y := if mask = fullMask then x else mergeLine (q.data.getD (memLine s.mem la)) mask x
      let s := s.setSent { e with req := some { q with data := some y } }
      if e.la < 2 ^ 46 then s.sliceFinish d la else s
  | none => s

/-- The lines of a message in order, each at the next line (R298). -/
def State.takeLines (s : State) (d from_ la tx : Nat) : List (BitVec 64 × LineData) → State
  | [] => s
  | (mask, x) :: r => (s.takeLine d from_ la tx mask x).takeLines d from_ (la + 1) tx r

/-- `Data` and `DataM`. -/
def State.onData (s : State) (m : Msg) : State := s.takeLines m.dst m.src m.la m.txid m.lines

/-- `Ack`: a write that this die sent is performed at its home, or a die answers this die's junction (R257). -/
def State.onAck (s : State) (m : Msg) : State :=
  match s.byTx m.dst m.la m.txid with
  | some (e, _) => if e.endsOnly then s.endOp e else s
  | none =>
    if (s.jent m.dst m.la).tx.any fun t => t.txid == m.txid then s.jAck m.dst m.la m.src (m.arg.getLsbD 0) (m.arg.getLsbD 1) else s

/-- `Err`: the request is refused (R443); the access that waits sees it. A write-back that no home takes is discarded with the event (R444). -/
def State.onErr (s : State) (m : Msg) : State :=
  match s.byTx m.dst m.la m.txid with
  | some (e, q) =>
    if e.endsOnly then
      let s := s.endOp e
      if q.op == .wru then s.monitor m.dst 0x14 else s
    else s.setSent { e with req := some { q with err := true } }
  | none => s

/-- `Retry`: the request is sent again, at raised priority after the third refusal (R261). -/
def State.onRetry (s : State) (m : Msg) : State :=
  match s.byTx m.dst m.la m.txid with
  | some (e, q) =>
    let q := { q with retries := q.retries + 1 }
    (s.setSent { e with req := some q }).sendReq m.dst m.la q
  | none => s

/-! ### Untracked messages at the home (R299) -/

/-- `RdU`: an untracked read at the home. -/
def State.onRdu (s : State) (m : Msg) : State :=
  if s.lineLost m.la then (s.countErr m.la).send .err (mkMsg m.req m.dst m.la m.rtx)
  else s.supply m (s.homeLine m.la)

/-- The home accepts the lines of a `WrU` in order; the last one's end answers the message. -/
def State.acceptLines (s : State) (m : Msg) (la : Nat) : List (BitVec 64 × LineData) → State
  | [] => s
  | (mask, x) :: r => (s.homeAccept ⟨m.dst, la, mask, x, none, if r.isEmpty then some m else none, false, m.arg.getLsbD 0⟩).acceptLines m (la + 1) r

/-- `WrU`: an untracked masked write at the home, applied as a tracked write (R255); ARG bit 0 names the compressed view (log 20). -/
def State.onWru (s : State) (m : Msg) : State := s.acceptLines m m.la m.lines

/-- The types an atomic takes, in the order of the three bits of ARG that name them (R299 gives no codes: log 20); the last is an update of a count
barrier. -/
def atuTypes : List (BitVec 5) := [0x02, 0x03, 0x06, 0x07, 0x0A, 0x0B, 0x0D, barTy]

/-- ARG of an `AtU`: AOP, then the type. -/
def atuArg (aop : BitVec 3) (ty : BitVec 5) : BitVec 46 := BitVec.ofNat 46 (aop.toNat + 8 * atuTypes.idxOf ty)

/-- Bytes that an atomic's operand takes: an update of a barrier object brings 8, one of a slot the whole line. -/
def atuBytes (aop : BitVec 3) (ty : BitVec 5) : Nat := if ty = barTy then (if aop.toNat < 3 then 8 else 64) else tyBits ty / 8

/-- `AtU`: an atomic or an update of a count barrier at the home (R181, R299). The message's lines carry operand and comparand at their bytes, which the
first mask names. -/
def State.onAtu (s : State) (m : Msg) : State :=
  let aop := m.arg.extractLsb' 0 3
  let ty := atuTypes.getD (m.arg.extractLsb' 3 3).toNat 0x06
  match m.lines with
  | (mask, x) :: rest =>
    let off := ctzN mask.toNat 0 64
    let n := atuBytes aop ty
    let cmp := (rest.head?.map fun p => lineField p.2 off n).getD 0
    s.homeAccept ⟨m.dst, m.la, 0, 0, some (aop, ty, off, lineField x off n, cmp), some m, false, false⟩
  | [] => s

/-- Updates a count barrier's object or slot at its home: AOP as `barTy` says (R81, R194). -/
def State.barUpdate (s : State) (d pa : Nat) (aop : BitVec 3) (op : Nat) : State :=
  let la := pa / 64
  let off := if aop.toNat < 3 then pa % 64 else 0
  match s.home la with
  | .dev h =>
    if h = d then s.homeAccept ⟨d, la, 0, 0, some (aop, barTy, off, op, 0), none, false, false⟩
    else
      let mask := BitVec.ofNat 64 ((2 ^ atuBytes aop barTy - 1) * 2 ^ off)
      s.askOff d (barKey s.nextTx la) .atu { mkMsg h d la 0 with arg := atuArg aop barTy, lines := [(mask, BitVec.ofNat 512 (op * 2 ^ (8 * off)))] }
  | _ => s

/-! ### Mirrors (R267) -/

/-- Whether the buddy's buffer of 512 lines a slice has no room for a copy, which then waits (R267). -/
def State.mirrorFull (s : State) (m : Msg) : Bool :=
  let set := s.mirrors.filter fun y => y.die == m.dst && sliceOf y.la == sliceOf m.la
  decide (512 ≤ set.length) && !(set.any fun y => y.la == m.la)

/-- `Mirror`: the buddy merges a copy and acknowledges. -/
def State.onMirror (s : State) (m : Msg) : State :=
  match m.lines with
  | (mask, x) :: _ =>
    let old := s.mirrors.find? fun y => y.die == m.dst && y.la == m.la
    let y : Mirror := match old with
      | some y => if y.owner == m.src then { y with mask := y.mask ||| mask, data := mergeLine y.data mask x }
        else ⟨m.dst, m.la, m.src, mask, x⟩
      | none => ⟨m.dst, m.la, m.src, mask, x⟩
    let s := { s with mirrors := upsert (fun z => z.die == m.dst && z.la == m.la) y s.mirrors }
    s.send .mirack (mkMsg m.src m.dst m.la m.txid)
  | [] => s

/-- The buddy of a die (R302). -/
def State.buddy (s : State) (d : Nat) : Nat := (s.maq.dies.getD d ⟨0, 0, []⟩).buddy.toNat

/-- Sends the mirror copy of a write of a die to its buddy, unless the buddy answers nothing (R267). -/
def State.sendMirror (s : State) (d la : Nat) (mask : BitVec 64) (x : LineData) : State :=
  if s.cut d (s.buddy d) then s
  else s.askOff d (mirKey s.nextTx la) .mirror { mkMsg (s.buddy d) d la 0 with lines := [(mask, x)], mir := true }

/-- `MirAck`: the write is performed at `die` and wider (R267). -/
def State.onMirack (s : State) (m : Msg) : State :=
  match s.byTx m.dst m.la m.txid with
  | some (e, q) => if q.op == .mirror then s.endOp e else s
  | none => s

/-- Whether a die awaits the acknowledgement of a mirror copy. -/
def State.mirrorPending (s : State) (d : Nat) : Bool :=
  s.sdir.any fun e => e.die == d && e.req.any fun q => q.op == .mirror

/-- Makes room for a mirror copy of a line in the buddy's buffer: the oldest mirrored dirty line of the die is written back (R267). -/
def State.mirrorRoom (s : State) (d la : Nat) : State :=
  let set := s.mirrors.filter fun y => y.die == s.buddy d && sliceOf y.la == sliceOf la
  if (set.any fun y => y.la == la) || set.length < 512 then s else
  match set.find? fun y => y.owner == d with
  | some y => match (s.copies d y.la).find? CLine.dirtyT with
    | some x => s.sliceWbd d x.cl y.la
    | none => s
  | none => s

/-! ### Lost lines (R266 to R270) -/

/-- The 256 bits of a loss record (R270). -/
def lossRec (die seq : Nat) (r : LossRec) : Nat :=
  seq % 2 ^ 32 + min r.waits 255 * 2 ^ 32 + r.shr.toNat * 2 ^ 44 + die % 16 * 2 ^ 52 + r.owner % 16 * 2 ^ 56
    + r.kind.toNat * 2 ^ 60 + r.la % 2 ^ 46 * 2 ^ 76 + r.fclk.toNat * 2 ^ 128

/-- Writes the loss records that a junction holds back, in order, while the ring has space (R270). -/
def State.drainLoss (s : State) (d : Nat) : List LossRec → State
  | [] => s.onDie d fun x => { x with heldLoss := [] }
  | r :: rs =>
    match s.ringPut (s.die d).lrbase (lossRec d (s.die d).lossSeq.toNat { r with waits := (s.jent d r.la).errs }) with
    | some s => (s.onDie d fun x => { x with lossSeq := x.lossSeq + 1 }).drainLoss d rs
    | none => s.onDie d fun x => { x with heldLoss := r :: rs }

/-- A line becomes LOST (R269): copies go, waiters are refused, its home asks the junction from now on, a loss record is written or held. -/
def State.loseLine (s : State) (la kind owner : Nat) : State :=
  let d := s.dirDie la
  let j := s.jent d la
  if j.st == .lost then s else
  let shr := (rangeFrom 0 8).foldl (fun m x =>
    if j.holders.contains x || s.holds x la then m ||| BitVec.ofNat 8 (2 ^ x) else m) (0 : BitVec 8)
  let s := (rangeFrom 0 8).foldl (fun s x => (s.dropCopies x la none true).sync x la) s
  let s := { s with
    clines := s.clines.filter fun x => x.la != la
    l2 := s.l2.filter fun x => x.la != la
    mirrors := s.mirrors.filter fun x => x.la != la
    sdir := s.sdir.map fun (e : SEnt) => if e.la == la then { e with dp := .i } else e }
  let s := match s.home la with
    | .dev h => s.setSent { s.sent h la with exp := true }
    | _ => s
  let waiting := (j.tx.toList.filter fun t => t.op != .recall).map (fun t => t.m) ++ j.wq.map fun p => p.2
  let s := s.setJent { j with st := .lost, holders := [], tx := none, wq := [], errs := waiting.length, grants := [] }
  let s := s.jRelease d la (j.tx.toList.flatMap fun t => t.next.toList)
  let s := waiting.foldl (fun s m => s.send .err (mkMsg m.req d la m.rtx)) s
  let r : LossRec := ⟨la, BitVec.ofNat 4 kind, owner, shr, waiting.length, (s.die d).fclk⟩
  let held := (s.die d).heldLoss
  let s := s.drainLoss d (held ++ [r])
  if (s.die d).heldLoss.isEmpty then s else s.monitor d 8

/-! ### Delivery -/

/-- Handles one coherence message; the other classes belong to the units that answer them. -/
def State.cohere (s : State) (op : Mop) (m : Msg) : State :=
  match op with
  | .rds => if m.toSlice then s.onHomeReq .rds m else s.jReq .rds m
  | .rdx => if m.toSlice then s.onHomeReq .rdx m else s.jReq .rdx m
  | .upg => if m.toSlice then s.onHomeReq .rdx m else s.jReq .upg m
  | .wbd => match m.lines with
    | (_, x) :: _ => if m.toSlice then { s with mem := putLine s.mem m.la fullMask x } else s.jWbd m x
    | [] => s
  | .evc => s.jEvc m
  | .rdu => s.onRdu m
  | .wru => s.onWru m
  | .atu => s.onAtu m
  | .snpf => s.onSnpf m
  | .snpi => s.onSnpi m
  | .snpfi => s.onSnpfi m
  | .recall => s.onRecall m
  | .grant => s.onGrant m
  | .ack => s.onAck m
  | .retry => s.onRetry m
  | .err => s.onErr m
  | .data | .datam => s.onData m
  | .mirror => s.onMirror m
  | .mirack => s.onMirack m
  | .gone => if (s.jent m.dst m.la).tx.any fun t => t.txid == m.txid then s.jGone m else s
  | _ => s

/-- The classes that `settle` delivers: those a memory access waits for. -/
def settlesMop : Mop → Bool
  | .rds | .rdx | .upg | .wbd | .evc | .rdu | .wru | .atu | .snpf | .snpi | .snpfi | .recall | .grant | .ack | .retry
  | .err | .data | .datam | .mirror | .mirack | .gone => true
  | _ => false

/-- A message that its die cannot take up yet: a snoop of a line whose grant is under way, or a mirror copy with no room for it. -/
def State.early (s : State) (op : Mop) (m : Msg) : Bool :=
  match op with
  | .snpf | .snpi | .snpfi | .recall => s.snoopEarly m
  | .mirror => s.mirrorFull m
  | _ => false

/-- A message at the die that it names, which that die takes up now. -/
def State.here (s : State) (p : Mop × Msg) : Bool :=
  p.2.at_ == p.2.dst && decide (p.2.dst < 8) && !(s.dead p.2.dst) && !s.early p.1 p.2

/-- The index in CRED and in the table of credits of a message's class (R296, R300). -/
def credIdxOf (op : Mop) : Nat :=
  match op with
  | .rds | .rdx | .upg | .wbd | .evc | .rdu | .wru | .atu => 0
  | .snpf | .snpi | .snpfi | .recall => 1
  | .grant | .ack | .retry | .err | .gone | .mirack => 2
  | .data | .datam | .mirror => 3
  | .remrd | .remwr | .remat | .remrsp => 5
  | _ => 4

/-- Whether a message's lines come with their byte masks in a first continuation slot. -/
def masked : Mop → Bool
  | .datam | .mirror | .wru | .atu | .remwr | .remat => true
  | _ => false

/-- Continuation slots of a message (R298): a slot of masks where there is one (two masks a slot), one for what DISCOVER and MGT messages carry, four for
each line. -/
def contSlots (op : Mop) (m : Msg) : Nat :=
  match op with
  | .disc | .discr => 1
  | _ =>
    if credIdxOf op = 4 then (if m.la = 0 then 0 else 1)
    else if m.lines.isEmpty then 0 else (if masked op then 1 else 0) + 4 * m.lines.length

/-- A buffer that held a message is free: its credits are owed at the port it came over, slots for DATA and one for the rest (R300). -/
def State.freeBuf (s : State) (op : Mop) (m : Msg) : State :=
  match m.buf with
  | none => s
  | some p => s.onDie m.at_ fun x => { x with ports := x.ports.modify p fun y => { y with
      owed := y.owed.modify (credIdxOf op) (· + if credIdxOf op = 3 then 1 + contSlots op m else 1) } }

/-- Takes a message off the list to handle it, which frees its buffer. -/
def State.takeMsg (s : State) (i : Nat) : Option (State × Mop × Msg) :=
  match s.msgs[i]? with
  | some (op, m) => some (({ s with msgs := s.msgs.eraseIdx i } : State).freeBuf op m, op, { m with buf := none })
  | none => none

/-- The first line whose accepted writes have a step due. -/
def State.homeDue (s : State) : Option State := findMap (fun (w : HomeWr) => s.homeStep w.la) s.hws

/-- Delivers the messages that stand at their dies, the oldest first, and takes the steps of accepted writes, until none is left or the bound is reached.
What goes from die to die travels by the ports. -/
def State.settle : Nat → State → State
  | 0, s => s
  | n + 1, s =>
    match s.msgs.findIdx? fun p => settlesMop p.1 && s.here p with
    | some i => match s.takeMsg i with
      | some (s, op, m) => (s.cohere op m).settle n
      | none => s
    | none => match s.homeDue with
      | some s => s.settle n
      | none => s

/-- The bound of one settling. -/
def settleBound : Nat := 256

end Sys2Proof.Machine
end

