-- ==== Sys2Proof/Machine/Vote.lean ====
section
/-! DEFINITION. The voted control machines: outputs, dissent, RESYNC, the controlled stop, injections (R383 to R387). -/

namespace Sys2Proof.Machine

/-- A voted machine at a fabric clock: a RESYNC window ends in the clock that it names, and the injections held until then wait (R384, R387). -/
def Mach.stand (y : Mach) (now : Nat) : Mach :=
  if y.st = 1 ∧ y.till ≤ now then { y with st := 0, inj := y.inj ++ y.held.map fun c => (c, y.till), held := [] } else y

/-- A die's voted machine as it stands: 0 scheduler, 1 dispatcher, 2 walkers (R386). -/
def Die.mach (x : Die) (m : Nat) : Mach := (if m = 0 then x.sch else if m = 1 then x.dsp else x.wlk).stand x.fclk.toNat

/-- Applies a change to a voted machine. -/
def Die.onMach (x : Die) (m : Nat) (f : Mach → Mach) : Die :=
  let y := f (x.mach m)
  if m = 0 then { x with sch := y } else if m = 1 then { x with dsp := y } else { x with wlk := y }

/-- Whether a machine is in a controlled stop (R385). -/
def State.stoppedM (s : State) (d m : Nat) : Bool := ((s.die d).mach m).st == 2

/-! ### The atelier leader (R378, R381) -/

/-- The die whose atelier core leads, as a die knows it. -/
def State.leaderOf (s : State) (d : Nat) : Nat :=
  let l := (s.die d).lease
  if l.leader then d else fieldN l.word.toNat 28 4

/-- ARG of an MGT message as the model carries it: EPOCH in [31:0], a die in [35:32], the message's form in [45:42] (log 20). -/
def mgtArg (epoch who form : Nat) : BitVec 46 := BitVec.ofNat 46 (epoch % 2 ^ 32 + who % 16 * 2 ^ 32 + form * 2 ^ 42)
/-- EPOCH of an MGT message. -/
def msgEpoch (m : Msg) : Nat := m.arg.toNat % 2 ^ 32
/-- The die that an MGT message names. -/
def msgWho (m : Msg) : Nat := fieldN m.arg.toNat 32 4
/-- The form of an MGT message. -/
def msgForm (m : Msg) : Nat := fieldN m.arg.toNat 42 4

/-- Reports to the leader: form 0 a silent die (R263), 1 a failed port (R297), 7 a die alarm (R378); a census report has the forms between (R264). -/
def State.reportTo (s : State) (d who form : Nat) : State :=
  s.send .report { mkMsg (s.leaderOf d) d 0 0 with arg := mgtArg 0 who form }

/-! ### Dissent (R383 to R385) -/

/-- A dissent: counted and reported with the machine and the copy (log 40); the machine enters RESYNC, or STOPPED with the die
alarm, which goes to the leader (R378, R384, R385). -/
def State.dissent (s : State) (d m : Nat) (copy : Nat) (halt : Bool) : State :=
  let s := s.onDie d fun x => { x.onMach m fun y => { y with
      copy := BitVec.ofNat 2 copy
      st := if halt then 2 else 1
      till := if halt then y.till else x.fclk.toNat + Config.resyncWindow
      inj := if halt then [] else y.inj
      held := if halt then [] else y.held } with dcnt := x.dcnt + 1 }
  let s := s.monitorAt d 3 m copy
  if halt then (s.monitor d 4).reportTo d d 7 else s

/-- Which of two copies that disagree is recorded: the one known to err, else a free choice (log 15). -/
def State.blame (s : State) (bad : List Nat) (i j : Nat) : State × Nat :=
  if bad.contains i && !bad.contains j then (s, i)
  else if bad.contains j && !bad.contains i then (s, j)
  else (s.takeFree, if (Config.free32 s.free).getLsbD 0 then i else j)

/-- The two copies that vote while `k` is held out. -/
def voters (k : BitVec 2) : Nat × Nat := if k = 0 then (1, 2) else if k = 1 then (0, 2) else (0, 1)

/-- The voter compares the three copies' forms of one output: the form that goes out, if any (R383 to R385). `bad` are copies known to
err. -/
def State.vote (s : State) (d m : Nat) (f : Nat → Word) (bad : List Nat) : State × Option Word :=
  let x := (s.die d).mach m
  if x.st = 2 then (s, none)
  else if x.st = 1 then
    let (i, j) := voters x.copy
    if f i = f j then (s, some (f i))
    else
      let (s, k) := s.blame bad i j
      (s.dissent d m k true, none)
  else if f 0 = f 1 ∧ f 1 = f 2 then (s, some (f 0))
  else if f 0 = f 1 then (s.dissent d m 2 false, some (f 0))
  else if f 0 = f 2 then (s.dissent d m 1 false, some (f 0))
  else if f 1 = f 2 then (s.dissent d m 0 false, some (f 1))
  else (s.takeFree.dissent d m ((Config.free32 s.free).toNat % 3) true, none)

/-- What the injections that wait make of a copy's next output: bit 0 inverted by each (R387). -/
def Mach.flips (x : Mach) (k : Nat) : Word := BitVec.ofNat 64 (x.inj.countP (fun p => p.1 == k) % 2)

/-- The copies whose next output an injection inverts. -/
def Mach.badCopies (x : Mach) : List Nat := [0, 1, 2].filter fun k => x.flips k != 0

/-- An output leaves every copy, and the injections that waited for it are spent. -/
def State.spend (s : State) (d m : Nat) : State := s.onDie d fun y => y.onMach m fun z => { z with inj := [] }

/-- One output of a machine whose copies agree but for the injections that wait: whether it goes out in its true form. An inverted form that two
copies agree on goes out in its place, and does nothing here (R383, R387; log 41). -/
def State.output (s : State) (d m : Nat) : State × Bool :=
  let x := (s.die d).mach m
  let r := (s.spend d m).vote d m x.flips x.badCopies
  (r.1, r.2 == some 0)

/-- An injection (R387): held while its copy is overwritten, discarded by a stopped machine. -/
def State.inject (s : State) (d m copy : Nat) : State :=
  s.onDie d fun x => x.onMach m fun y =>
    if y.st = 2 then y
    else if y.st = 1 ∧ y.copy.toNat = copy then { y with held := y.held ++ [copy] }
    else { y with inj := y.inj ++ [(copy, x.fclk.toNat)] }

/-- The end of a RESYNC window is recorded: VOTING with three copies, and injections that were held now wait (R384, R387). -/
def State.resyncDone (s : State) (d m : Nat) : State := s.onDie d fun x => x.onMach m fun y => y

end Sys2Proof.Machine
end

