-- ==== Sys2Proof/Machine/Trans.lean ====
section
/-! DEFINITION. Pointers and translation (chapter 2): spaces and range checks, the hashed tables, the page checks, the A and D
bits, cached translations. -/

namespace Sys2Proof.Machine

/-! ### Pointers (R26, R27) -/

/-- The space of a pointer. -/
def spaceOf (ptr : Nat) : Nat := ptr / 2 ^ 60 % 16

/-- The bytes of an access of width `n` at a pointer fail R27 or the aperture's layout (R67). -/
def ptrBad (s : State) (ptr n : Nat) : Bool :=
  let sp := spaceOf ptr
  let low := fun k => fieldN ptr 0 k
  if sp = 0 ∨ sp = 1 ∨ sp = 2 ∨ sp = 7 then fieldN ptr 57 3 != 0
  else if sp = 3 then fieldN ptr 57 3 != 0 || decide (s.cur.ctl.prvSize.toNat < low 57 + n)
  else if sp = 4 then fieldN ptr 21 39 != 0 || decide ((s.tcl s.cur).scratch < low 21 + n)
  else if sp = 5 then fieldN ptr 29 31 != 0 || decide (11 ≤ fieldN ptr 25 4) || decide (0x1800000 < low 25 + n)
  else if sp = 6 then fieldN ptr 15 45 != 0 || fieldN ptr 6 6 != 0 || decide (3 ≤ fieldN ptr 3 3)
  else true

/-- A tenant's vault access outside its window (R28). -/
def vaultBad (s : State) (ptr n : Nat) : Bool :=
  spaceOf ptr == 5 && !s.cur.super &&
    let c := s.ctx s.cur.pasid
    let a := fieldN ptr 0 29
    decide (a < c.vltBase.toNat) || decide (c.vltLimit.toNat < a + n)

/-! ### Page entries (R33) -/

/-- One bit of an entry. -/
def entBit (e : BitVec 56) (i : Nat) : Bool := e.getLsbD i
/-- V. -/
def entV (e : BitVec 56) : Bool := entBit e 36
/-- R. -/
def entR (e : BitVec 56) : Bool := entBit e 37
/-- W. -/
def entW (e : BitVec 56) : Bool := entBit e 38
/-- X. -/
def entX (e : BitVec 56) : Bool := entBit e 39
/-- SUP. -/
def entSup (e : BitVec 56) : Bool := entBit e 40
/-- TRK. -/
def entTrk (e : BitVec 56) : Bool := entBit e 41
/-- MIR. -/
def entMir (e : BitVec 56) : Bool := entBit e 42
/-- AR. -/
def entAr (e : BitVec 56) : Nat := fieldN e.toNat 43 2
/-- POL. -/
def entPol (e : BitVec 56) : Nat := fieldN e.toNat 45 2
/-- CMP. -/
def entCmp (e : BitVec 56) : Bool := entBit e 47
/-- A. -/
def entA (e : BitVec 56) : Bool := entBit e 48
/-- D. -/
def entD (e : BitVec 56) : Bool := entBit e 49

/-- Offset bits of a page size code. -/
def pageBits (sz : Nat) : Nat := if sz = 0 then 16 else if sz = 1 then 21 else 30

/-- The physical address that an entry gives an address. -/
def entPa (e : BitVec 56) (sz va : Nat) : Nat :=
  let b := pageBits sz
  fieldN e.toNat 0 36 * 65536 / 2 ^ b * 2 ^ b + va % 2 ^ b

/-- An access needs write permission and D. -/
def accWrites : Acc → Bool
  | .store => true
  | .atomic _ _ => true
  | _ => false

/-- The outcome of a translation (R34, R35). -/
inductive WalkRes where
  /-- Translated: address, entry, size, and where the entry stands. -/
  | ok (pa : Nat) (ent : BitVec 56) (sz : Nat)
  | perm | reach | absent
  /-- The walkers complete no walk (R385). -/
  | busy
  deriving DecidableEq, Repr

/-- Whether a region's kind suits a space (R303). -/
def regionOk (s : State) (spc pa : Nat) : Bool :=
  match s.region (pa / 64) with
  | some r => if spc = 1 then r.kind == 1 else if spc = 2 then r.kind == 2 else r.kind == 0
  | none => false

/-- The checks of R34 on an entry: none when it passes. -/
def entCheck (s : State) (super : Bool) (spc pa : Nat) (e : BitVec 56) (acc : Acc) : Option WalkRes :=
  if entSup e && !super then some .perm
  else if !regionOk s spc pa then some .perm
  else if !(match acc with
    | .load => entR e
    | .store => entW e
    | .fetch => entX e
    | .atomic _ _ => entR e && entW e) then some .perm
  else if spc = 7 ∧ !entCmp e then some .perm
  else match acc with
    | .atomic cls sys =>
      if sys && decide (entAr e ≤ cls) then some .reach
      else if spc = 2 then
        match s.home (pa / 64) with
        | .remote g => if ((s.maq.egress.getD g ⟨0, 0, 0⟩).cap.getLsbD cls) then none else some .reach
        | _ => some .reach
      else none
    | _ => none

/-! ### The tables (R30 to R32) -/

/-- LOGN of a table word, 0 for a disabled table (R30). -/
def ptbLogn (w : Word) : Nat := let n := w.toNat % 64; if n < 10 ∨ 30 < n then 0 else n

/-- Probes of one table: the bucket's physical address, if one matches (R31). -/
def probe (s : State) (base logn h header : Nat) : Nat → Nat → Option Nat
  | _, 0 => none
  | k, n + 1 =>
    let pa := base + (h + k) % 2 ^ logn * 64
    if (s.homeLine (pa / 64)).toNat % 2 ^ 64 = header then some pa else probe s base logn h header (k + 1) n

/-- The entry of one page size: its physical byte address and its 56 bits (R31, R33). -/
def tableEntry (s : State) (ptb : Word) (sz pasid spc va : Nat) : Option (Nat × BitVec 56) :=
  let logn := ptbLogn ptb
  if logn = 0 then none else
  let b := pageBits sz
  let gtag := va / 2 ^ (b + 3)
  let key := gtag + pasid * 2 ^ 38 + sz * 2 ^ 58 + spc * 2 ^ 60
  let h := key * 0x9E3779B97F4A7C15 % 2 ^ 64 / 2 ^ (64 - logn)
  let header := gtag + pasid * 2 ^ 38 + spc * 2 ^ 58 + sz * 2 ^ 61 + 2 ^ 63
  match probe s (fieldN ptb.toNat 16 36 * 65536) logn h header 0 8 with
  | none => none
  | some pa =>
    let at_ := pa + 8 + 7 * (va / 2 ^ b % 8)
    let e := BitVec.ofNat 56 (fieldN (s.homeLine (pa / 64)).toNat (8 * (at_ - pa)) 56)
    if entV e then some (at_, e) else none

/-- A walk of the three tables: the entry of the largest page size wins (R32); A and D are set (R36). -/
def walk (s : State) (d pasid spc va : Nat) (super : Bool) (acc : Acc) : State × WalkRes :=
  if s.stoppedM d 2 then (s, .busy) else
  let x := s.die d
  let (s, out) := s.output d 2
  if !out then (s, .busy) else
  let hit := match tableEntry s x.ptb2 2 pasid spc va with
    | some r => some (2, r)
    | none => match tableEntry s x.ptb1 1 pasid spc va with
      | some r => some (1, r)
      | none => (tableEntry s x.ptb0 0 pasid spc va).map fun r => (0, r)
  match hit with
  | none => (s, .absent)
  | some (sz, at_, e) =>
    let pa := entPa e sz va
    match entCheck s super spc pa e acc with
    | some r => (s, r)
    | none =>
      let e' := e ||| BitVec.ofNat 56 (2 ^ 48 + if accWrites acc then 2 ^ 49 else 0)
      let s := if e' = e then s else s.physWrite at_ (bytesN e'.toNat 7)
      (s, .ok pa e' sz)

/-! ### Cached translations (R38, R39) -/

/-- Whether a cached translation serves an access: it covers the page, passes R34, and has D for a write. -/
def TlbE.serves (t : TlbE) (s : State) (pasid spc va : Nat) (super : Bool) (acc : Acc) : Bool :=
  t.pasid.toNat == pasid && t.spc.toNat == spc && t.page == va / 2 ^ pageBits t.sz.toNat &&
  (entCheck s super spc (entPa t.ent t.sz.toNat va) t.ent acc).isNone && (!accWrites acc || entD t.ent)

/-- The number of the TLB that serves a thread: its core's, or the armature core's. -/
def tlbKey (t : Thread) : Nat :=
  if t.arm then 10000 + t.loc.die * 16 + t.loc.cl else t.loc.die * 64 + t.loc.cl * 4 + t.loc.core

/-- Adds an entry to a TLB; a TLB that holds 1024 drops its oldest (R38). -/
def tlbAdd (xs : List (Nat × TlbE)) (k : Nat) (e : TlbE) : List (Nat × TlbE) :=
  (k, e) :: (if xs.countP (fun p => p.1 == k) < 1024 then xs else (xs.reverse.eraseP fun p => p.1 == k).reverse)

/-- Translates for a core's agent by its TLB or a walk; a walk's result is cached there. -/
def translateP (s : State) (d key : Nat) (pasid : BitVec 20) (super : Bool) (spc va : Nat) (acc : Acc) : State × WalkRes × Option TlbE :=
  match s.tlb.find? fun p => p.1 == key && p.2.serves s pasid.toNat spc va super acc with
  | some p => (s, .ok (entPa p.2.ent p.2.sz.toNat va) p.2.ent p.2.sz.toNat, some p.2)
  | none =>
    match walk s d pasid.toNat spc va super acc with
    | (s, .ok pa e sz) =>
      let c : TlbE := ⟨pasid, BitVec.ofNat 3 spc, BitVec.ofNat 2 sz, va / 2 ^ pageBits sz, e⟩
      ({ s with tlb := tlbAdd s.tlb key c }, .ok pa e sz, some c)
    | (s, r) => (s, r, none)

/-- Translates an address for a lane of the current thread: last-page register, TLB, walk (R39). -/
def translate (s : State) (lane spc va : Nat) (acc : Acc) : State × WalkRes :=
  let t := s.cur
  match t.lpr.find? fun p => p.1 == lane && p.2.serves s t.tpasid.toNat spc va t.super acc with
  | some p => (s, .ok (entPa p.2.ent p.2.sz.toNat va) p.2.ent p.2.sz.toNat)
  | none =>
    match translateP s t.loc.die (tlbKey t) t.tpasid t.super spc va acc with
    | (s, r, some e) => (s.onCur fun t => { t with lpr := assocSet t.lpr lane e }, r)
    | (s, r, none) => (s, r)

/-- A page by the translating context, space and address. -/
def pageOf (pasid : BitVec 20) (spc va : Nat) : Page := ⟨pasid, BitVec.ofNat 3 spc, BitVec.ofNat 41 (va / 65536)⟩

/-- Whether a cached translation lies in a shoot-down's cover (R41). -/
def TlbE.covered (e : TlbE) (kind spc sz pasid vpn : Nat) : Bool :=
  kind == 3 || (e.pasid.toNat == pasid && (kind == 2 || (e.spc.toNat == spc &&
    (kind == 1 || ((sz == 3 || e.sz.toNat == sz) && e.page == vpn / 2 ^ (pageBits e.sz.toNat - 16))))))

end Sys2Proof.Machine
end

