-- ==== Sys2Proof/Machine/Mem.lean ====
section
/-! DEFINITION. Named operations over memory for a thread: how an instruction stops, the pieces of an access and their checks
(R163), reading and writing lines of every kind (R57, R173 to R176, R254, R443, R444), release and acquire (R177, R178). -/

namespace Sys2Proof.Machine

/-! ### How an instruction can stop -/

/-- Why an issue unit does not complete. -/
inductive Exc where
  /-- A precise trap: code, INFO, FLAGS (R392, R396). -/
  | trap (code : Code) (info flags : Nat)
  /-- A parking point, with its CAUSE (R396, R400). -/
  | park (cause : Nat)
  /-- A wait; whether it is a long-latency dependence (R377). -/
  | hold (long : Bool)
  /-- A wait that the meaning has recorded in the state. -/
  | waits
  deriving DecidableEq, Repr

/-- A stop, with the state that the attempt left (translations cached, requests sent). -/
structure Stop where
  exc : Exc
  s : State

/-- A computation of an issue unit. -/
abbrev M (α : Type) := StateT State (Except Stop) α

/-- Stops. -/
def stop {α : Type} (e : Exc) : M α := fun s => .error ⟨e, s⟩
/-- Traps precisely. -/
def trap {α : Type} (code : Code) (info : Nat := 0) : M α := stop (.trap code info 0)
/-- Waits and tries again. -/
def hold {α : Type} (long : Bool := false) : M α := stop (.hold long)
/-- Parks. -/
def park {α : Type} (cause : Nat := 0) : M α := stop (.park cause)
/-- Stops if a condition holds. -/
def stopIf (b : Bool) (e : Exc) : M Unit := fun s => if b then .error ⟨e, s⟩ else .ok ((), s)
/-- The state. -/
def getS : M State := fun s => .ok (s, s)
/-- Changes the state. -/
def modS (f : State → State) : M Unit := fun s => .ok ((), f s)
/-- Runs an operation that answers a state and a value. -/
def liftS {α : Type} (f : State → State × α) : M α := fun s => let r := f s; .ok (r.2, r.1)
/-- Runs a list of computations in order. -/
def eachM {α : Type} (f : α → M Unit) : List α → M Unit
  | [] => pure ()
  | x :: xs => do f x; eachM f xs
/-- Collects the results of computations in order. -/
def mapM' {α β : Type} (f : α → M β) : List α → M (List β)
  | [] => pure []
  | x :: xs => do let y ← f x; let ys ← mapM' f xs; pure (y :: ys)

/-- ADDR_SPACE. -/
def cADDR : Code := 0x0006
/-- ALIGN. -/
def cALIGN : Code := 0x0007
/-- PERM. -/
def cPERM : Code := 0x0008
/-- ATOM_REACH. -/
def cREACH : Code := 0x0009
/-- MEM_LOST. -/
def cLOST : Code := 0x000A

/-! ### Missing pages (R399, R400) -/

/-- Writes one `pfring` record, or holds it back (R393). -/
def State.pfPut (s : State) (d : Nat) (r : PfRec) : State :=
  if (s.die d).heldPf.isEmpty then
    match s.ringPut (s.die d).pfring (r.page.vpn.toNat * 65536 + r.page.pasid.toNat * 2 ^ 64 + r.page.spc.toNat * 2 ^ 96
        + r.src.toNat * 2 ^ 104 + r.who.toNat * 2 ^ 128 + r.fclk.toNat * 2 ^ 192) with
    | some s => s
    | none => s.onDie d fun x => { x with heldPf := [r] }
  else s.onDie d fun x => { x with heldPf := x.heldPf ++ [r] }

/-- The `gangid` word (R353). -/
def Thread.gangid (t : Thread) : Word :=
  BitVec.ofNat 64 (t.gidx.toNat + (if t.arm then 2 ^ 30 else 0) + (if t.role then 2 ^ 31 else 0) + t.task.toNat * 2 ^ 32)

/-- Reports missing pages with SRC and counts those not yet counted (R399, R400). -/
def State.reportPages (s : State) (src : Nat) (ps : List Page) : State :=
  let d := s.cur.loc.die
  let s := ps.foldl (fun s p => s.pfPut d ⟨p, BitVec.ofNat 8 src, s.cur.gangid, (s.die d).fclk⟩) s
  s.onCur fun t => { t with missing := t.missing ++ ps.filter fun p => !t.missing.contains p }

/-- Reports pages and parks (R400). -/
def parkPages {α : Type} (src cause : Nat) (ps : List Page) : M α := do
  modS fun s => s.reportPages src ps.eraseDups
  park cause

/-- Opens the lowest free fault record; a fifth parks with CAUSE 1 (R399). -/
def deferLoad (kind reg : Nat) (miss : List (Nat × Page × Nat)) (pc : Word) : M Unit := do
  let s ← getS
  let used := s.cur.frs.map fun r => r.idx
  match (rangeFrom 0 4).find? fun i => !used.contains i with
  | none => park 1
  | some i =>
    let pages := (miss.map fun m => m.2.1).eraseDups
    let lmask := miss.foldl (fun m x => m ||| laneBit x.1) (0 : W32)
    let addrs := (miss.map fun m => (m.1, BitVec.ofNat 64 m.2.2)).eraseDups
    modS fun s => (s.onCur fun t => { t with
      frs := t.frs ++ [⟨i, BitVec.ofNat 8 kind, BitVec.ofNat 16 reg, lmask, pc, pages, addrs, t.gslices s.curGrp⟩] }).reportPages 0 pages

/-! ### Pieces of an access -/

/-- One piece of an access: bytes within one line, chunk or word, after translation. `pa` is a physical byte address, or a storage key
for a scratchpad or vault. -/
structure Pc where
  lane : Nat
  sp : Nat
  pa : Nat
  off : Nat
  n : Nat
  /-- Effective policy: 1 wb, 2 wt, 3 str, 4 ro, 5 uc. -/
  pol : Nat
  trk : Bool
  mir : Bool
  cmp : Bool
  va : Nat
  deriving DecidableEq, Repr

/-- Cuts `n` bytes at `a` where a multiple of `k` is crossed: (address, offset, length). -/
def cutAt (k a off : Nat) : Nat → Nat → List (Nat × Nat × Nat)
  | 0, _ => []
  | fuel + 1, n =>
    if n = 0 then [] else
      let m := min n (k - a % k)
      (a, off, m) :: cutAt k (a + m) (off + m) fuel (n - m)

/-- The pieces of a lane's access before translation, as (address, offset, length) (R44, R59). -/
def cutAccess (s : State) (lane ptr n : Nat) : List (Nat × Nat × Nat) :=
  let sp := spaceOf ptr
  if sp = 3 then
    let o := fieldN ptr 0 57
    (cutAt 4 o 0 n n).map fun p => ((s.cur.csaIdx * 2 ^ 37 + p.1 / 4 * 128 + lane * 4 + p.1 % 4) % 2 ^ 57, p.2)
  else if sp = 4 then cutAt 16 (fieldN ptr 0 21) 0 n n
  else if sp = 5 then cutAt 64 (fieldN ptr 0 29) 0 n n
  else cutAt 64 (fieldN ptr 0 57) 0 n n

/-- The effective policy (R29). -/
def effPol (sp insn page : Nat) : Nat :=
  let dflt := if sp = 2 then 2 else 1
  let e := if page = 3 then 5 else if insn != 0 then insn else if page = 1 then 2 else if page = 2 then 3 else dflt
  if sp = 2 ∧ e = 1 then 2 else e

/-- A piece of a space that is not translated. -/
def rawPc (s : State) (bpm lane sp : Nat) (p : Nat × Nat × Nat) : Pc :=
  let d := s.cur.loc.die
  let key := if sp = 4 then scratchKey d s.cur.loc.cl (physOff p.1 bpm) else vaultKey d p.1
  ⟨lane, sp, key, p.2.1, p.2.2, 0, false, false, false, p.1⟩

/-- The outcome of resolving one piece. -/
inductive PcRes where
  | ok (p : Pc) | bad (code : Code) | miss (p : Page) | busy
  deriving DecidableEq, Repr

/-- Resolves one piece. -/
def resolvePc (acc : Acc) (pol bpm lane sp : Nat) (p : Nat × Nat × Nat) (s : State) : State × PcRes :=
  if sp = 4 ∨ sp = 5 then (s, .ok (rawPc s bpm lane sp p))
  else match translate s lane sp p.1 acc with
    | (s, .ok pa e _) => (s, .ok ⟨lane, sp, pa, p.2.1, p.2.2, effPol sp pol (entPol e), entTrk e && sp == 0, entMir e && entTrk e, entCmp e, p.1⟩)
    | (s, .perm) => (s, .bad cPERM)
    | (s, .reach) => (s, .bad cREACH)
    | (s, .absent) => (s, .miss (pageOf s.cur.tpasid sp p.1))
    | (s, .busy) => (s, .busy)

/-- The accesses of an instruction: lane, pointer, bytes. -/
abbrev Reqs := List (Nat × Nat × Nat)

/-- Checks space and range (R27) and `adr`, then alignment to `al`, then the vault window and the pages, then the opcode's own rule `spcOk` on
spaces (R163). An access to the aperture passes `adr` where the opcode has one there; it must be 8 bytes wide (R67, `ap8`). Answers the
pieces and the missing pages by lane. -/
def resolve (acc : Acc) (pol bpm : Nat) (al : Nat) (rs : Reqs) (spcOk : Nat → Bool := fun _ => true)
    (adr : Nat → Bool := fun p => spaceOf p != 6) (ap8 : Bool := false) : M (List Pc × List (Nat × Page × Nat)) := do
  let s ← getS
  match rs.find? fun r => ptrBad s r.2.1 r.2.2 || !adr r.2.1 with
  | some r => trap cADDR r.2.1
  | none => pure ()
  let mis := fun (p : Nat) => if spaceOf p = 6 then !ap8 || p % 8 != 0 else p % (if spaceOf p = 3 then min al 4 else al) != 0
  match rs.find? fun r => mis r.2.1 with
  | some r => trap cALIGN r.2.1
  | none => pure ()
  match rs.find? fun r => vaultBad s r.2.1 r.2.2 with
  | some r => trap cPERM r.2.1
  | none => pure ()
  let xs ← mapM' (fun (r : Nat × Nat × Nat) => mapM' (fun p => do
      let x ← liftS (resolvePc acc pol bpm r.1 (spaceOf r.2.1) p)
      pure (r, x)) (if spaceOf r.2.1 = 6 then [] else cutAccess s r.1 r.2.1 r.2.2)) rs
  let xs := xs.flatten
  match findMap (fun x => match x.2 with | .bad c => some (c, x.1) | _ => none) xs with
  | some (c, r) => trap c r.2.1
  | none => pure ()
  match rs.find? fun r => !spcOk (spaceOf r.2.1) with
  | some r => trap cADDR r.2.1
  | none => pure ()
  if xs.any fun x => x.2 == .busy then hold
  pure (xs.filterMap fun x => (match x.2 with | .ok p => some p | _ => none),
        xs.filterMap fun x => (match x.2 with | .miss p => some (x.1.1, p, x.1.2.1) | _ => none))

/-- WATCH: an access of the watched kind touches the watched line (R394). -/
def watchTrap (store : Bool) (rs : Reqs) : M Unit := do
  let s ← getS
  let w := s.cur.ctl.dbgctl.toNat
  let on := (if store then bitN w 62 else bitN w 61) && !s.cur.noWatch
  stopIf (on && rs.any fun r => spaceOf r.2.1 == fieldN w 57 4 && (cutAccess s r.1 r.2.1 r.2.2).any fun p => p.1 / 64 == fieldN w 6 51)
    (.trap 0x0013 0 0)

/-! ### Untracked lines: write-back and fill (R57, R58, R443, R444) -/

/-- An L2 line of a die: its own copy of the device view, or one of the compressed view. -/
def State.l2? (s : State) (d la : Nat) (comp : Bool) : Option L2Line := s.l2.find? fun y => y.die == d && y.la == la && y.comp == comp

/-- Writes an L2 line. -/
def State.setL2 (s : State) (x : L2Line) : State := { s with l2 := upsert (fun y => y.die == x.die && y.la == x.la && y.comp == x.comp) x s.l2 }

/-- Drops an L2 line. -/
def State.dropL2 (s : State) (d la : Nat) (comp : Bool) : State :=
  { s with l2 := s.l2.filter fun y => !(y.die == d && y.la == la && y.comp == comp) }

/-- Sends masked bytes of an untracked line to its home on another die, which answers once they are performed; ARG bit 0 names the compressed view
(log 20). -/
def State.sendWrU (s : State) (d h la : Nat) (comp : Bool) (mask : BitVec 64) (x : LineData) : State :=
  (s.askOff d (wrKey s.nextTx la) .wru { mkMsg h d la 0 with lines := [(mask, x)], arg := if comp then 1 else 0 }).settle settleBound

/-- Sends an L2 line's dirty bytes to its home on another die; those for a home that cannot answer are dropped, and the copy with them (R444). The device
view's entries of a line's own home only name bytes (R66). -/
def State.l2Flush (s : State) (d la : Nat) (comp : Bool := false) : State :=
  match s.l2? d la comp with
  | none => s
  | some x =>
    if x.mask = 0 then s else
    match s.home la with
    | .dev h =>
      if h = d then (if comp then (s.setL2 { x with mask := 0 }).homeWrite la x.mask x.data true else s)
      else if s.homeGone d la then (s.dropL2 d la comp).monitor d 0x14
      else (s.setL2 { x with mask := 0 }).sendWrU d h la comp x.mask x.data
    | _ => s

/-- Masked bytes of an untracked line arrive at the level below a cluster store: the home, or this die's L2, which holds them under `wb` and `wt`; else they
go on to the home, and a copy that the L2 has takes them as well (R29, R49, R57). -/
def State.writeBelow (s : State) (d la : Nat) (mask : BitVec 64) (x : LineData) (keep : Bool := true) : State :=
  match s.home la with
  | .dev h =>
    if h = d then s.homeWrite la mask x
    else if s.homeGone d la then s.monitor d 0x14
    else
      let old := s.l2? d la false
      let y : L2Line := old.getD ⟨d, la, false, 0, false, 0⟩
      if keep then s.setL2 { y with mask := y.mask ||| mask, data := mergeLine y.data mask x }
      else (if old.isSome then s.setL2 { y with data := mergeLine y.data mask x } else s).sendWrU d h la false mask x
  | _ => s.homeWrite la mask x

/-- Writes back a cluster-store line's dirty bytes and keeps it clean (R57); where its home cannot answer, the bytes are discarded and the copy goes (R444). -/
def State.cleanLine (s : State) (d cl la : Nat) : State :=
  let put := fun (k : LineKind) (spc : BitVec 3) (mask : BitVec 64) (x : LineData) =>
    if mask = 0 then s
    else (if s.homeGone d la then s.dropCline d cl la else s.setCline ⟨d, cl, la, spc, k, x⟩).writeBelow d la mask x
  match s.cline? d cl la with
  | some ⟨_, _, _, spc, .untracked mask f, x⟩ => put (.untracked 0 f) spc mask x
  | some ⟨_, _, _, spc, .priv mask f o, x⟩ => put (.priv 0 f o) spc mask x
  | _ => s

/-- Gives up a cluster-store line of any kind, dirty bytes first (R58). -/
def State.evictLine (s : State) (d cl la : Nat) : State :=
  match s.cline? d cl la with
  | some ⟨_, _, _, _, .tracked _ _, _⟩ =>
    let s := (s.sliceWbd d cl la).sliceEvc d cl la
    (s.watchLoss d cl la).settle settleBound
  | some _ =>
    let s := s.cleanLine d cl la
    -- a copy whose dirty bytes were not all filled is dropped like any other
    (s.dropCline d cl la).watchLoss d cl la
  | none => s

/-- The line of an untracked fill for a die: its home memory, or its L2 and then the home (R48, R444). -/
inductive Fill where
  | ok (x : LineData) | err | wait

/-- Reads an untracked line at its own home: the home slice first obtains the data where another die holds the line (R253). -/
def State.homeFill (s : State) (d la : Nat) : State × Fill :=
  if s.dead d then (s, .err)
  else if (s.dpOf d la).covers .rds then (s, .ok (s.homeLine la))
  else
    let s := (s.sliceReq .rds d agentCl la false).settle settleBound
    if (s.dpOf d la).covers .rds then (s, .ok (s.homeLine la))
    else if (s.sent d la).req.any fun q => q.err && q.cl == agentCl then (s.endReq d la, .err)
    else (s, .wait)

/-- The answer that a die holds for an operation under a key, once it has come. -/
def State.opAnswer (s : State) (d key : Nat) : Fill :=
  match (s.sent d key).req with
  | some q => if q.err then .err else match q.data with
    | some x => .ok x
    | none => .wait
  | none => .wait

/-- Fetches an untracked line for a die; `keep` allocates it in the die's L2, else the die's buffer holds it until the instruction is done. -/
def State.fillLine (s : State) (d la : Nat) (keep : Bool) : State × Fill :=
  if s.lineLost la then (s.countErr la, .err) else
  match s.home la with
  | .dev h =>
    if h = d then s.homeFill d la
    else
      let old := s.l2? d la false
      match old with
      | some ⟨_, _, _, _, true, x⟩ => (s, .ok x)
      | _ =>
        let s := if s.awaits d 3 la then s else s.askOff d (rduKey la) .rdu (mkMsg h d la 0)
        let s := s.settle settleBound
        match s.opAnswer d (rduKey la) with
        | .err => (s.forget d 3 la, .err)
        | .wait => (s, .wait)
        | .ok x =>
          let x := match old with
            | some o => mergeLine x o.mask o.data
            | none => x
          if keep then ((s.forget d 3 la).setL2 ⟨d, la, false, (old.map fun o => o.mask).getD 0, true, x⟩, .ok x) else (s, .ok x)
  | _ => (s, .err)

/-- The bytes that a piece needs of a line. -/
def pcMask (p : Pc) : BitVec 64 := BitVec.ofNat 64 ((2 ^ p.n - 1) * 2 ^ (p.pa % 64))

/-- A remote line's read through its egress (R306): the die's buffer holds it from `RemRsp` until the instruction is done. -/
def State.remoteLine (s : State) (d la : Nat) : State × Fill :=
  match s.home la with
  | .remote g =>
    let s := if s.awaits d 4 la then s else (s.askOff d (remKey la) .remrd (mkMsg (s.maq.egress.getD g ⟨0, 0, 0⟩).die.toNat d la 0)).settle settleBound
    match s.opAnswer d (remKey la) with
    | .err => (s.forget d 4 la, .err)
    | r => (s, r)
  | _ => (s, .err)

/-- Obtains a tracked or host line for a cluster: held with the permission, refused, or awaited (R173, R253, R443). -/
def State.trackedLine (s : State) (write : Bool) (d cl la : Nat) (mir : Bool) : State × Fill :=
  let have_ : State → Option LineData := fun s => match s.cline? d cl la with
    | some ⟨_, _, _, _, .tracked st _, x⟩ => if !write || st == Moesi.m || st == Moesi.e then some x else none
    | _ => none
  let refused : State → Bool := fun s => (s.sent d la).req.any fun q => q.err && q.cl == cl
  match have_ s with
  | some x => (s, .ok x)
  | none =>
    if refused s then (s.endReq d la, .err)
    else
      let own := match s.cline? d cl la with
        | some ⟨_, _, _, _, .tracked _ _, _⟩ => true
        | _ => false
      let s := if own then s else s.evictLine d cl la
      let s := (s.sliceReq (if !write then .rds else if own then .upg else .rdx) d cl la mir).settle settleBound
      match have_ s with
      | some x => (s, .ok x)
      | none => if refused s then (s.endReq d la, .err) else (s, .wait)

/-- Whether a piece is held coherent by the directories. -/
def Pc.coherent (p : Pc) : Bool := p.trk || p.sp == 1

/-- Whether a piece's policy holds lines on the way: not `str`, which does not allocate, nor `uc` (R29). -/
def Pc.keeps (p : Pc) : Bool := p.pol != 3 && p.pol != 5

/-- The compressed view's line of a piece (R29, R65): the L2 holds it unless the policy does not. -/
def State.compLine (s : State) (d : Nat) (p : Pc) : State × Fill :=
  let la := p.pa / 64
  match s.l2? d la true with
  | some ⟨_, _, _, m, f, x⟩ =>
    if f || pcMask p &&& ~~~m = 0 then (s, .ok x)
    else match s.fillLine d la false with
      | (s, .ok y) =>
        let x := mergeLine y m x
        (s.setL2 ⟨d, la, true, m, true, x⟩, .ok x)
      | r => r
  | none => match s.fillLine d la false with
    | (s, .ok x) => (if p.keeps then s.setL2 ⟨d, la, true, 0, true, x⟩ else s, .ok x)
    | r => r

/-- The data of the line of a piece, for a read by a cluster (R29, R57). -/
def State.readLine (s : State) (d cl : Nat) (p : Pc) : State × Fill :=
  let la := p.pa / 64
  if p.coherent then s.trackedLine false d cl la p.mir
  else if p.sp = 2 then s.remoteLine d la
  else if p.sp = 7 then s.compLine d p
  else
    let s := match s.cline? d cl la with
      | some ⟨_, _, _, _, .tracked _ _, _⟩ => s.evictLine d cl la
      | _ => s
    let old : Option (BitVec 64 × Bool × LineData) := match s.cline? d cl la with
      | some ⟨_, _, _, _, .untracked m f, x⟩ => some (m, f, x)
      | some ⟨_, _, _, _, .priv m f _, x⟩ => some (m, f, x)
      | _ => none
    let kind := fun m => if p.sp = 3 then LineKind.priv m true s.cur.id else .untracked m true
    match old with
    | some (m, f, x) =>
      if f || pcMask p &&& ~~~m = 0 then (s, .ok x)
      else match s.fillLine d la (p.pol == 1 || p.pol == 2) with
        | (s, .ok y) =>
          let x := mergeLine y m x
          (s.setCline ⟨d, cl, la, BitVec.ofNat 3 p.sp, kind m, x⟩, .ok x)
        | r => r
    | none => match s.fillLine d la (p.pol == 1 || p.pol == 2) with
      | (s, .ok x) => (if p.keeps then s.setCline ⟨d, cl, la, BitVec.ofNat 3 p.sp, kind 0, x⟩ else s, .ok x)
      | r => r

/-- What an instruction leaves once it has read its pieces: the die's buffers of untracked and remote lines are free, and tracked and host lines that their
policy does not hold are given up (R29). -/
def State.doneLines (s : State) (d cl : Nat) (ps : List Pc) : State :=
  ps.foldl (fun s p =>
    if p.sp = 4 ∨ p.sp = 5 then s
    else if p.coherent then (if p.keeps then s else s.evictLine d cl (p.pa / 64))
    else (s.forget d 3 (p.pa / 64)).forget d 4 (p.pa / 64)) s

/-! ### Reading -/

/-- Whether any byte of a raw piece lies in a poisoned word (R430). -/
def State.marked (s : State) (key n : Nat) : Bool := s.bad.any fun w => decide (w < key + n) && decide (key < w + 8)

/-- Reads a piece: its bytes as a number, or nothing where the answer is an error (R167, R430). -/
def readPc (p : Pc) : M (Option Nat) := do
  let s ← getS
  if p.sp = 4 ∨ p.sp = 5 then
    pure (if s.marked p.pa p.n then none else some (ofBytes ((rangeFrom p.pa p.n).map s.mem.get)))
  else
    match ← liftS fun s => s.readLine s.cur.loc.die s.cur.loc.cl p with
    | .ok x => pure (some (fieldN x.toNat (8 * (p.pa % 64)) (8 * p.n)))
    | .err => pure none
    | .wait => hold

/-- Reads pieces in order, for an instruction that goes on to write them. -/
def readHeld (ps : List Pc) : M (List (Pc × Option Nat)) := mapM' (fun p => do let x ← readPc p; pure (p, x)) ps

/-- Gives up what an instruction no longer needs of its pieces. -/
def done (ps : List Pc) : M Unit := modS fun s => s.doneLines s.cur.loc.die s.cur.loc.cl ps

/-- Reads pieces in order. -/
def readPcs (ps : List Pc) : M (List (Pc × Option Nat)) := do
  let xs ← readHeld ps
  done ps
  pure xs

/-- The value of a lane's access, from its pieces. -/
def laneVal (xs : List (Pc × Option Nat)) (lane : Nat) : Nat :=
  (xs.filter fun x => x.1.lane == lane).foldl (fun a x => a + x.2.getD 0 * 2 ^ (8 * x.1.off)) 0

/-! ### Writing (R170 to R176) -/

/-- A piece of a store: where, which bytes of it, and the bytes. -/
structure Wr where
  p : Pc
  v : Nat
  deriving DecidableEq, Repr

/-- Refuses an access to a LOST line, which the line's loss record counts (R269, R270). -/
def lostTrap (la : Nat) : M Unit := do
  modS fun s => s.countErr la
  trap cLOST

/-- Whether the current thread's cluster holds every coherent line of some pieces with write permission. -/
def State.holdsAll (s : State) (ps : List Pc) : Bool :=
  ps.all fun p => !p.coherent || match s.cline? s.cur.loc.die s.cur.loc.cl (p.pa / 64) with
    | some ⟨_, _, _, _, .tracked st _, _⟩ => st == .m || st == .e
    | _ => false

/-- Waits unless every permission is held at the same moment (R173). -/
def allHeld (ps : List Pc) : M Unit := do
  let s ← getS
  if !s.holdsAll ps then hold

/-- Asks for write permission on the coherent line of a piece (R173), and for room for its mirror copy (R267). -/
def permit (p : Pc) : M Fill := do
  let la := p.pa / 64
  match ← liftS fun s => s.trackedLine true s.cur.loc.die s.cur.loc.cl la p.mir with
  | .ok x => do
    if p.mir then modS fun s => (s.mirrorRoom s.cur.loc.die la).settle settleBound
    let s ← getS
    pure (if p.mir && s.mirrorFull (mkMsg (s.buddy s.cur.loc.die) s.cur.loc.die la 0) then .wait else .ok x)
  | f => pure f

/-- What a store needs of a piece before any lane is performed: write permission on a coherent line, a home that answers (R444), words without a mark
(R430). -/
def needs (p : Pc) : M Fill := do
  let s ← getS
  let la := p.pa / 64
  if p.sp = 4 ∨ p.sp = 5 then
    stopIf (s.marked p.pa p.n && !(p.pa % 8 == 0 && p.n % 8 == 0)) (.trap cLOST 0 0)
    pure (.ok 0)
  else if p.coherent then permit p
  else
    if s.lineLost la then lostTrap la
    if p.pol != 1 || p.sp == 2 then stopIf (s.homeGone s.cur.loc.die la) (.trap cLOST 0 0)
    pure (.ok 0)

/-- Obtains what a store needs of all its pieces, which it asks for together and then holds at the same moment (R173). -/
def prepareStore (ps : List Pc) : M Unit := do
  let fs ← mapM' needs ps
  stopIf (fs.any fun f => match f with | .err => true | _ => false) (.trap cLOST 0 0)
  if fs.any fun f => match f with | .wait => true | _ => false then hold
  allHeld ps

/-- The bytes of a piece's value placed in a line. -/
def placed (p : Pc) (v : Nat) : LineData := BitVec.ofNat 512 (v % 2 ^ (8 * p.n) * 2 ^ (8 * (p.pa % 64)))

/-- Has the home's slices keep the bytes that the device view of a compressed page writes to a line (R66). -/
def State.markCmp (s : State) (la : Nat) : State :=
  match s.home la with
  | .dev h => if (s.l2? h la false).isSome then s else s.setL2 ⟨h, la, false, 0, false, 0⟩
  | _ => s

/-- Adds a line to the running patina of the current thread (R175). -/
def State.notePatina (s : State) (la : Nat) : State := s.onCur fun t => { t with ctl := { t.ctl with patina := patAdd t.ctl.patina la } }

/-- A store through the compressed view (R29, R65): `wb` holds the bytes in the L2, any other policy writes them to the home, and a copy that the L2 has
takes them as well. -/
def State.performComp (s : State) (d : Nat) (p : Pc) (x : LineData) : State :=
  let la := p.pa / 64
  let old := s.l2? d la true
  let y : L2Line := old.getD ⟨d, la, true, 0, false, 0⟩
  let data := mergeLine y.data (pcMask p) x
  if p.pol = 1 then s.setL2 { y with mask := y.mask ||| pcMask p, data := data }
  else
    let s := if old.isSome then s.setL2 { y with data := data } else s
    match s.home la with
    | .dev h => if h = d then s.homeWrite la (pcMask p) x true else s.sendWrU d h la true (pcMask p) x
    | _ => s

/-- Performs one piece of a store (R176); the patina takes untracked device and remote lines (R175). -/
def State.performWr (s : State) (w : Wr) : State :=
  let p := w.p
  let d := s.cur.loc.die
  let cl := s.cur.loc.cl
  let la := p.pa / 64
  if p.sp = 4 ∨ p.sp = 5 then
    { s with mem := (rangeFrom 0 p.n).foldl (fun m i => m.set (p.pa + i) (BitVec.ofNat 8 (w.v / 2 ^ (8 * i)))) s.mem
             bad := s.bad.filter fun k => !(decide (p.pa ≤ k) && decide (k + 8 ≤ p.pa + p.n)) }
  else if p.coherent then
    match s.cline? d cl la with
    | some x =>
      let y := mergeLine x.data (pcMask p) (placed p w.v)
      -- the first copy after M is gained carries the whole line (R267, R268)
      let first := !(s.mirrors.any fun z => z.die == s.buddy d && z.la == la && z.owner == d)
      let s := (s.setCline { x with kind := .tracked .m p.mir, data := y }).sync d la
      let s := s.watchWrite la
      let s := if p.cmp then s.markCmp la else s
      if p.mir then (s.sendMirror d la (if first then fullMask else pcMask p) (if first then y else placed p w.v)).settle settleBound else s
    | none => s
  else
    let s := if p.sp = 0 ∨ p.sp = 2 then s.notePatina la else s
    if p.sp = 2 then
      match s.home la with
      | .remote g =>
        ((s.forget d 4 la).askOff d (wrKey s.nextTx la) .remwr
          { mkMsg (s.maq.egress.getD g ⟨0, 0, 0⟩).die.toNat d la 0 with lines := [(pcMask p, placed p w.v)] }).settle settleBound
      | _ => s
    else if p.sp = 7 then s.performComp d p (placed p w.v)
    else
      let s := match s.cline? d cl la with
        | some ⟨_, _, _, _, .tracked _ _, _⟩ => s.evictLine d cl la
        | _ => s
      let s := if p.cmp then s.markCmp la else s
      let old := s.cline? d cl la
      let through := p.pol != 1
      let (m, f, x) := match old with
        | some ⟨_, _, _, _, .untracked m f, x⟩ => (m, f, x)
        | some ⟨_, _, _, _, .priv m f _, x⟩ => (m, f, x)
        | _ => (0, false, 0)
      let x := mergeLine x (pcMask p) (placed p w.v)
      let m' := if through then m else m ||| pcMask p
      let kind := if p.sp = 3 then LineKind.priv m' f s.cur.id else .untracked m' f
      let s := if through && old.isNone then s else s.setCline ⟨d, cl, la, BitVec.ofNat 3 p.sp, kind, x⟩
      let s := (s.watchWrite la).forget d 3 la
      if through then s.writeBelow d la (pcMask p) (placed p w.v) (p.pol == 2) else s

/-- Performs a store's pieces in order. -/
def State.performWrs (s : State) (ws : List Wr) : State := ws.foldl State.performWr s

/-! ### Release and acquire (R177, R178) -/

/-- Scope codes: 0 gang, 1 cl, 2 die, 3 pkg, 4 sys (R140). -/
def isDie (sc : BitVec 3) : Bool := 2 ≤ sc.toNat
/-- `pkg` or `sys`. -/
def isPkg (sc : BitVec 3) : Bool := 3 ≤ sc.toNat

/-- The untracked lines of a cluster store that hit a patina; private lines stay (R177, R178). -/
def State.hitLines (s : State) (d cl : Nat) (p : Patina) : List Nat :=
  (s.clines.filter fun x => x.die == d && x.cl == cl && (match x.kind with | .untracked _ _ => true | _ => false) && patHit p x.la).map fun x => x.la

/-- The lines of a die's L2 slices homed elsewhere that hit a patina. -/
def State.hitL2 (s : State) (d : Nat) (p : Patina) : List Nat :=
  (s.l2.filter fun x => x.die == d && !x.comp && !s.homedAt d x.la && patHit p x.la).map fun x => x.la

/-- Steps 2 and 3 of the release action for a cluster (R177). -/
def State.releaseAct (s : State) (d cl : Nat) (sc : BitVec 3) (p : Patina) : State :=
  let s := if isDie sc then (s.hitLines d cl p).foldl (fun s la => s.cleanLine d cl la) s else s
  if isPkg sc then (s.hitL2 d p).foldl (fun s la => s.l2Flush d la) s else s

/-- The invalidations of the acquire action for a cluster (R178); at `pkg` what the die's buffers hold of untracked and remote lines goes as well, so that
a later load fetches its line again. -/
def State.acquireAct (s : State) (d cl : Nat) (sc : BitVec 3) (p : Patina) : State :=
  let s := if isDie sc then (s.hitLines d cl p).foldl (fun s la => s.evictLine d cl la) s else s
  if isPkg sc then
    let s := (s.hitL2 d p).foldl (fun s la => (s.l2Flush d la).dropL2 d la false) s
    { s with sdir := s.sdir.filter fun e => !(e.die == d && decide (2 ^ 46 ≤ e.la) && (keyKind e.la == 3 || keyKind e.la == 4) && patHit p (keyLine e.la)) }
  else s

/-- Whether writes of a die are under way to their homes, to a buddy or through an egress, or accepted at its own home and not yet performed (R177, R267,
R273, R294). -/
def State.unperformed (s : State) (d : Nat) : Bool :=
  (s.sdir.any fun e => e.die == d && e.req.isSome && (e.endsOnly || e.req.any fun q => q.op == .mirror || ((q.op == .atu || q.op == .remat) && q.data.isNone && !q.err)))
    || s.hws.any fun w => w.home == d && w.ack.isNone && !w.host

/-- The release action of the current thread at a scope, steps 1 to 3 (R177): it waits until what it has written is performed. -/
def release (sc : BitVec 3) : M Unit := do
  modS fun s => (s.releaseAct s.cur.loc.die s.cur.loc.cl sc s.cur.ctl.patina).settle settleBound
  let s ← getS
  if isDie sc && s.unperformed s.cur.loc.die then hold

/-- The acquire action of the current thread with a received patina; `fold` ORs it into the running patina (R178). -/
def acquire (sc : BitVec 3) (p : Patina) (fold : Bool) : M Unit :=
  modS fun s =>
    let s := s.acquireAct s.cur.loc.die s.cur.loc.cl sc p
    if fold then s.onCur fun t => { t with ctl := { t.ctl with patina := t.ctl.patina ||| p } } else s

/-- Clears the running patina after a deposit at `die` or wider (R185, R285). -/
def clearPatina : M Unit := modS fun s => s.onCur fun t => { t with ctl := { t.ctl with patina := 0 } }

end Sys2Proof.Machine
end

