-- ==== Sys2Proof/Machine/Cohorts.lean ====
section
/-! DEFINITION. Reductions over lanes (R222) and cohorts (R319 to R321, R339): entries, joining and leaving, arrivals and phases. -/

namespace Sys2Proof.Machine

/-! ### Reductions -/

/-- The identity of a reduction (R222, R339). -/
def redIdent (rop : BitVec 3) (rty : BitVec 2) : W32 :=
  match rop.toNat with
  | 0 => 0
  | 1 => if rty = 0 then 0x7FFFFFFF else if rty = 1 then 0xFFFFFFFF else infF false
  | 2 => if rty = 0 then 0x80000000 else if rty = 1 then 0 else infF true
  | 3 => 0xFFFFFFFF
  | _ => 0

/-- Combines two integers. -/
def redInt (rop : BitVec 3) (rty : BitVec 2) (x y : W32) : W32 :=
  let lt := if rty = 0 then x.slt y else x.ult y
  match rop.toNat with
  | 0 => x + y
  | 1 => if lt then x else y
  | 2 => if lt then y else x
  | 3 => x &&& y
  | 4 => x ||| y
  | _ => x ^^^ y

/-- Reduces a list of values in lane order: an exact FP32 sum is rounded once, so that its order does not matter (R222). -/
def reduce (rop : BitVec 3) (rty : BitVec 2) (rm : BitVec 3) (xs : List W32) : W32 × Flags :=
  match xs with
  | [] => (redIdent rop rty, 0)
  | x :: rest =>
    if rty = 2 then
      if rop = 0 then sumF rm 24 (xs.map unpackF)
      else rest.foldl (fun (a : W32 × Flags) y => let r := minmaxF (rop == 2) a.1 y; (r.1, a.2 ||| r.2)) (minmaxF (rop == 2) x x)
    else (rest.foldl (redInt rop rty) x, 0)

/-- The tag of a reduction type. -/
def redTag (rty : BitVec 2) : BitVec 4 := if rty = 2 then tFP32 else tI32

/-! ### Entries -/

/-- Core `k` of a thread's cluster, numbered in the die. -/
def Thread.coreNo (t : Thread) (k : Nat) : Nat := t.loc.cl * 4 + k

/-- The live cohort entry that a handle names for a thread's spawn (R338). -/
def State.cohort? (s : State) (t : Thread) (h : Nat) : Option Cohort :=
  if 255 < h then none else
  s.cohorts.find? fun c => c.die == t.loc.die && c.core == t.coreNo (h / 64) && c.ent == h % 64 && c.task == t.task

/-- Writes a cohort entry; one without members is freed (R320). -/
def State.setCohort (s : State) (c : Cohort) : State :=
  let same := fun (x : Cohort) => x.die == c.die && x.core == c.core && x.ent == c.ent
  if c.members.isEmpty then { s with cohorts := s.cohorts.filter fun x => !same x }
  else { s with cohorts := upsert same c s.cohorts }

/-! ### Phases (R321, R339) -/

/-- The lanes of a wait, as members. -/
def BarWait.lanesL (w : BarWait) : List (Nat × Nat) := (lanesOf w.lanes).map fun l => (w.t, l)

/-- With no arrival of the open phase, lanes and arrivals kept for the next one count (R321). -/
def Cohort.enrol (c : Cohort) : Cohort :=
  if c.waits.all fun w => w.late then { c with late := [], waits := c.waits.map fun w => { w with late := false } } else c

/-- Whether every member of the open phase has arrived. -/
def Cohort.full (c : Cohort) : Bool :=
  let here := c.waits.filter fun w => !w.late
  let arrived := (here.map BarWait.lanesL).flatten
  !here.isEmpty && c.members.all fun m => c.late.contains m || arrived.contains m

/-- Whether the reducing waits of a phase agree on the operation and the type (R339). -/
def redAgree (ws : List BarWait) : Bool :=
  match ws.filter fun w => w.red with
  | [] => true
  | w :: rest => rest.all fun x => x.rop == w.rop && x.rty == w.rty

/-- The bytes of a slice's wait end: the group goes past its `bar`. -/
def Thread.release (t : Thread) (w : BarWait) : Thread :=
  { t with slices := t.slices.zipIdx.map fun x =>
      if w.gmask.getLsbD x.2 && x.1.live != 0 then { x.1 with pc := x.1.pc + BitVec.ofNat 64 w.len, wait := t.doneWait } else x.1 }

/-- Writes the result of a reducing barrier in the lanes of a wait (R339). -/
def Thread.barResult (t : Thread) (w : BarWait) (f : Nat → W32) (fl : Flags) : Thread :=
  if w.red then { t with regs := t.regs.wrV t.exist w.dst.toNat w.lanes (redTag w.rty) f }.orFlags fl else t

/-- Releases one group of a completed phase: the value is common, or free where the members disagreed (log 11). -/
def State.releaseWait (s : State) (agree : Bool) (r : W32 × Flags) (w : BarWait) : State :=
  let n := s.free
  let f := fun l => if agree then r.1 else Config.free32 (n + l)
  let fl := if agree then r.2 else Config.free5 (n + 32)
  let s := s.modThread w.t fun t => (t.barResult w f fl).release w
  if agree then s else { s with free := n + 33 }

/-- Completes phases of an entry while their members have all arrived; at most one pass for each wait. -/
def State.cohortRun (s : State) (c : Cohort) : Nat → State
  | 0 => s.setCohort c
  | n + 1 =>
    let c := c.enrol
    if c.full then
      let here := c.waits.filter fun w => !w.late
      let vals := ((here.filter fun w => w.red).map fun w => w.vals).flatten
      let agree := redAgree here
      let r := match here.find? fun w => w.red with
        | some w => reduce w.rop w.rty 0 vals
        | none => (0, 0)
      let s := here.foldl (fun s w => s.releaseWait agree r w) s
      s.cohortRun { c with waits := c.waits.filter fun w => w.late, phase := !c.phase } n
    else s.setCohort c

/-- Writes an entry and completes what its change completes. -/
def State.cohortSet (s : State) (c : Cohort) : State := s.cohortRun c (c.waits.length + 1)

/-! ### Joining and leaving (R320, R338) -/

/-- A lane leaves the cohort of a handle; a lane that is not a member is unaffected. -/
def State.leaveLane (s : State) (id lane h : Nat) : State :=
  match s.thread? id with
  | none => s
  | some t =>
    if t.memb.any fun m => m.lane == lane && m.handle == h then
      let c? := s.cohort? t h
      let s := s.modThread id fun t => { t with memb := t.memb.filter fun m => !(m.lane == lane && m.handle == h) }
      match c? with
      | some c => s.cohortSet { c with members := c.members.filter (· != (id, lane)), late := c.late.filter (· != (id, lane)) }
      | none => s
    else s

/-- Lanes leave every cohort (R320 `exit`). -/
def State.leaveAll (s : State) (id : Nat) (lanes : W32) : State :=
  match s.thread? id with
  | none => s
  | some t => (t.memb.filter fun m => laneIn lanes m.lane).foldl (fun s m => s.leaveLane id m.lane m.handle) s

/-- Entries that a saved thread waiting for its restore needs stay unallocated: on the cluster that it left, and on the one where its task now stands
(R406). -/
def State.cohortHeld (s : State) (die cl : Nat) (h : Nat) : Bool :=
  s.savedT.any fun t => t.memb.any (fun m => m.handle == h) &&
    ((t.loc.die == die && t.loc.cl == cl) || s.threads.any fun x => x.task == t.task && x.loc.die == die && x.loc.cl == cl)

/-- A lane joins the cohort of a key: the handle, or all ones with nothing changed (R320). -/
def State.joinLane (s : State) (id lane : Nat) (key : W32) : State × W32 :=
  match s.thread? id with
  | none => (s, 0xFFFFFFFF)
  | some t =>
    let k := key.toNat % 4
    let core := t.coreNo k
    let old := s.cohorts.find? fun c => c.die == t.loc.die && c.core == core && c.key == key && c.task == t.task
    let inIt := match old with
      | some c => t.memb.any fun m => m.lane == lane && m.handle == k * 64 + c.ent
      | none => false
    let mine := t.memb.countP fun m => m.lane == lane
    match old with
    | some c =>
      if inIt then (s, BitVec.ofNat 32 (k * 64 + c.ent))
      else if 4 ≤ mine then (s, 0xFFFFFFFF)
      else
        let opened := c.waits.any fun w => !w.late
        let c := { c with members := c.members ++ [(id, lane)], late := if opened then c.late ++ [(id, lane)] else c.late }
        let s := s.modThread id fun t => { t with memb := t.memb ++ [⟨lane, k * 64 + c.ent, key⟩] }
        (s.setCohort c, BitVec.ofNat 32 (k * 64 + c.ent))
    | none =>
      if 4 ≤ mine then (s, 0xFFFFFFFF)
      else
        let used := fun e => s.cohorts.any fun c => c.die == t.loc.die && c.core == core && c.ent == e
        match (rangeFrom 0 Config.cohortEntries).find? fun e => !used e && !s.cohortHeld t.loc.die t.loc.cl (k * 64 + e) with
        | none => (s, 0xFFFFFFFF)
        | some e =>
          let s := s.modThread id fun t => { t with memb := t.memb ++ [⟨lane, k * 64 + e, key⟩] }
          (s.setCohort ⟨t.loc.die, core, e, key, t.task, [(id, lane)], [], [], false⟩, BitVec.ofNat 32 (k * 64 + e))

/-- Takes a thread out of what it waits for at cohorts and niches (R328, R359). -/
def State.abandonWaits (s : State) (id : Nat) : State :=
  let s : State := { s with niches := s.niches.map fun x => { x with writers := x.writers.filter (·.1 != id) } }
  s.cohorts.foldl (fun (s : State) (c : Cohort) =>
    if c.waits.any fun w => w.t == id then s.cohortSet { c with waits := c.waits.filter fun w => w.t != id } else s) s

end Sys2Proof.Machine
end

