-- ==== Sys2Proof/Machine/Ops.lean ====
section
/-! DEFINITION. How an issue unit begins and ends: guard, parking, completion, waiting, taking a trap into the save area (R395,
R396), returning from one (R398), the restart of a parked thread (R402). -/

namespace Sys2Proof.Machine

/-! ### The save area (R393, R396) -/

/-- The address of a thread's save area: space 0 of PASID 0. -/
def State.csaAddr (s : State) (t : Thread) : Nat :=
  fieldN (s.ctx t.pasid).csaBase.toNat 18 39 * 2 ^ 18 + t.csaIdx * 0x40000

/-- Writes bytes at a PASID 0 address under hardware authority; a page that is not present or fails R34 takes nothing (log 30). -/
def State.superWrite (s : State) (d key va : Nat) (bs : List (BitVec 8)) : State :=
  match translateP s d key 0 true 0 va .store with
  | (s, .ok pa _ _, _) => s.physWrite pa bs
  | (s, _, _) => s

/-- Reads `n` bytes at a PASID 0 address as a number. -/
def State.superRead (s : State) (d key va n : Nat) : State × Option Nat :=
  match translateP s d key 0 true 0 va .load with
  | (s, .ok pa _ _, _) => (s, some (s.physRead pa n))
  | (s, _, _) => (s, none)

/-- Translates the first pages of a thread's save area for writing: whether the walkers complete every walk that this takes (R385). -/
def State.areaTouch (s : State) (t : Thread) (pages : Nat) : State × Bool :=
  (rangeFrom 0 pages).foldl (fun (r : State × Bool) k =>
    match translateP r.1 t.loc.die (tlbKey t) 0 true 0 (r.1.csaAddr t + 65536 * k) .store with
    | (s, .busy, _) => (s, false)
    | (s, _, _) => (s, r.2)) (s, true)

/-- The bytes of a fault record (R397). -/
def FRec.bytes (r : FRec) : Nat :=
  let p := r.pages.head?.getD ⟨0, 0, 0⟩
  1 + r.kind.toNat * 2 ^ 8 + r.reg.toNat * 2 ^ 16 + r.lmask.toNat * 2 ^ 32 + r.pc.toNat * 2 ^ 64
    + p.spc.toNat * 2 ^ 128 + r.pages.length % 256 * 2 ^ 136 + p.vpn.toNat * 65536 * 2 ^ 192
    + r.addrs.foldl (fun a x => a + x.2.toNat * 2 ^ (0x800 + 64 * x.1)) 0

/-- The counter `ld`: loads and `tld`s outstanding (R188, R245). -/
def Thread.cntLd (t : Thread) : Nat := t.outs.countP fun o => o != .store
/-- The counter `st` (R188). -/
def Thread.cntSt (t : Thread) : Nat := t.outs.countP fun o => o == .store

/-- The thread header (R396). -/
def Thread.header (t : Thread) (ncopy : Nat) : Nat :=
  let at_ := fun (o v : Nat) => v * 2 ^ (8 * o)
  at_ 0x00 t.ctl.rmode.toNat + at_ 0x08 t.ctl.fflags.toNat + at_ 0x10 (if t.ctl.tagchk then 1 else 0)
    + at_ 0x18 t.ctl.bpm.toNat + at_ 0x20 t.ctl.mxerr.toNat + at_ 0x28 t.ctl.dbgctl.toNat
    + at_ 0x30 (t.cntLd % 65536) + at_ 0x32 (t.cntSt % 65536) + at_ 0x34 (t.cntCp % 65536) + at_ 0x36 (t.cntMx % 65536)
    + at_ 0x38 t.regs.rpois.toNat + at_ 0x40 t.regs.ppois.toNat + at_ 0x42 (ncopy % 256) + at_ 0x43 t.tcount
    + at_ 0x44 (if t.resvHeld then 1 else 0) + at_ 0x45 t.resv + at_ 0x46 t.nextBat.toNat + at_ 0x47 t.nsl
    + at_ 0x48 (t.allot / 32) + at_ 0x4C t.apDone.toNat
    + at_ 0x50 (t.regs.ttag.foldl (fun a x => a + x.2.toNat * 2 ^ (4 * x.1)) 0) + at_ 0x80 t.ctl.patina.toNat

/-- A token entry's 64 bits (R315). -/
def Token.bits (k : Token) : Nat := k.target.toNat + k.mask.toNat * 2 ^ 58 + k.kind.toNat * 2 ^ 62

/-- A slice block (R396): the stack's entry 0 is at the bottom. -/
def Slice.block (c : Slice) : Nat :=
  c.pc.toNat + c.active.toNat * 2 ^ 64 + c.live.toNat * 2 ^ 72 + c.grp % 256 * 2 ^ 80 + c.stack.length * 2 ^ 88
    + (c.stack.reverse.foldl (fun (a : Nat × Nat) k => (a.1 + k.bits * 2 ^ (64 * a.2), a.2 + 1)) (0, 0)).1 * 2 ^ 128

/-- The committed and speculative positions of a thread's running copies, by channel: a sector whose writes have left is speculative (R396). -/
def State.copyPos (s : State) (t : Thread) : Nat :=
  (s.chans.filter fun c => c.die == t.loc.die && c.cl == t.loc.cl).foldl (fun a c =>
    match c.cmds.head? with
    | some k => if k.t == t.id && k.running then a + (k.committed + ((k.sent.map fun x => x.1).getD k.committed) * 2 ^ 64) * 2 ^ (128 * c.ch) else a
    | none => a) 0

/-- The record header (R396). -/
def recHeader (t : Thread) (code : Code) (cause flags info : Nat) (lmask : W32) (pc : Word) (gmask : BitVec 8) : Nat :=
  code.toNat + cause * 2 ^ 16 + flags * 2 ^ 24 + lmask.toNat * 2 ^ 32 + pc.toNat * 2 ^ 64 + info % 2 ^ 64 * 2 ^ 128
    + gmask.toNat * 2 ^ 192 + t.frs.length * 2 ^ 200 + t.missing.length % 2 ^ 32 * 2 ^ 224

/-- Everything the hardware writes at entry (R395 step 1, R396), as (offset, value, bytes). -/
def entryBytes (s : State) (t : Thread) (hdr ncopy : Nat) : List (Nat × Nat × Nat) :=
  [(0, hdr, 256), (0x100, s.copyPos t, 128),
   (0x200, t.frs.foldl (fun a r => a + r.bytes * 2 ^ (4096 * r.idx)) 0, 2048),
   (0xA00, t.header ncopy, 512),
   (0xC00 + 8 * 56, (rangeFrom 0 8).foldl (fun a k => a + (t.regs.rdR (56 + k)).toNat * 2 ^ (64 * k)) 0, 64),
   (0xE00, (t.slices.foldl (fun (a : Nat × Nat) c => (a.1 + c.block * 2 ^ (2048 * a.2), a.2 + 1)) (0, 0)).1, 2048),
   (0x1A00, t.regs.vtag.foldl (fun a x => a + x.2.toNat * 2 ^ (4 * x.1)) 0, 512)]

/-- Writes pieces of a save area. -/
def State.areaWrite (s : State) (t : Thread) (ps : List (Nat × Nat × Nat)) : State :=
  ps.foldl (fun s p => s.superWrite t.loc.die (tlbKey t) (s.csaAddr t + p.1) (bytesN p.2.1 p.2.2)) s

/-- Swaps names 56 to 63 with the bank that is switched out (R395). -/
def Regs.swapBank (r : Regs) : Regs :=
  { r with
    r := (rangeFrom 0 8).foldl (fun m k => m.set (56 + k) (r.hbank.get k)) r.r
    hbank := (rangeFrom 0 8).foldl (fun m k => m.set k (r.r.get (56 + k))) r.hbank
    rpois := (r.rpois &&& BitVec.ofNat 64 (2 ^ 56 - 1)) ||| (r.hpois.setWidth 64 <<< 56)
    hpois := r.rpois.extractLsb' 56 8 }

/-- The slices whose STEP is due (R394). -/
def Thread.stepMask (t : Thread) : BitVec 8 := t.slices.zipIdx.foldl (fun m x => if x.1.wait == .step then m ||| BitVec.ofNat 8 (2 ^ x.2) else m) 0

/-- The thread as the handler's entry leaves it: steps 2 to 6 of R395. A STEP that is due stays due until the handler returns. -/
def Thread.enter (t : Thread) (rec_ : Nat) (code : Code) (vec : Word) : Thread :=
  { t with
    handler := true
    parked := false
    apDone := 0
    steps := t.stepMask
    regs := (t.regs.swapBank.wrR 63 (BitVec.ofNat 64 rec_)).wrR 62 (code.setWidth 64)
    ctl := { t.ctl with rmode := 0, tagchk := true, bpm := 0 }
    slices := t.slices.map fun c => if c.live = 0 then c else { c with grp := 0, active := c.live, pc := vec, wait := .none } }

/-- The handler's entry address (R393). -/
def vecPc (w : Word) : Word := BitVec.ofNat 64 (fieldN w.toNat 3 54 * 8)

/-- TAKES A TRAP for the current thread (R395): the record, header and slice blocks go to the save area; a trap in handler mode or with
no handler is a double trap, which halts the thread; else the thread enters handler mode at `trapvec`. While the walkers complete no walk for the save
area, the entry waits (R385). -/
def State.takeTrap (s : State) (code : Code) (cause flags info : Nat) (lmask : W32) (pc : Word) (gmask : BitVec 8) : State :=
  let (s, ready) := s.areaTouch s.cur 1
  if !ready then s.onCur fun t => { t with slices := t.slices.zipIdx.map fun x => if gmask.getLsbD x.2 then { x.1 with wait := if code = 0x0012 then .step else .again false } else x.1 } else
  let t := s.cur
  let d := t.loc.die
  let vec := vecPc (s.die d).trapvec
  let rec_ := s.csaAddr t
  if t.handler then
    let (s, old) := s.superRead d (tlbKey t) (rec_ + 3) 1
    let s := s.areaWrite t [(3, (old.getD 0) ||| 8, 1)]
    (s.onCur fun t => { t with halted := true }).monitor d 6
  else
    let double := vec == 0
    let hdr := recHeader t code cause (flags + if double then 8 else 0) info lmask pc gmask
    let s := (s.abandonWaits t.id).areaWrite t (entryBytes s t hdr 0)
    if double then (s.onCur fun t => { t with halted := true }).monitor d 6
    else { s.onCur (fun t => t.enter rec_ code vec) with curGrp := 0 }

/-! ### An issue unit -/

/-- The keys that a thread's lanes use for the atomics that an instruction sends or has performed. -/
def isOffKey (id : Nat) (k : Nat) : Bool := decide (2 ^ 46 ≤ k) && keyKind k == 6 && (k / 2 ^ 50 - 1) / 32 == id

/-- The lanes of a guard (R138). -/
def gdLanes (g : Gd) (r : Regs) : W32 := maskOf fun l => (r.rdP g.prd.toNat l) != g.png

/-- How the unit's program counter is left. -/
inductive Next where
  /-- To the next issue unit. -/
  | seq
  /-- The meaning has set it. -/
  | set
  deriving DecidableEq, Repr

/-- Moves a group's counters past a unit and stamps its issue (R132, R376). -/
def State.advance (s : State) (len : Nat) : State :=
  s.onCur fun t => t.onGrp s.curGrp fun _ c => { c with pc := c.pc + BitVec.ofNat 64 len, last := s.issued, wait := .none }

/-- The lanes with an aperture access started that a thread keeps once a group's unit is over: those of its other groups (R69). -/
def Thread.apLeft (t : Thread) (g : Nat) : W32 := t.apDone &&& ~~~maskOf fun l => t.slices[l / 4]?.any fun c => c.grp == g

/-- A unit completes: the counters move, and STEP is taken where it is on (R394). -/
def State.complete (s : State) (len : Nat) (nx : Next) (gmask : BitVec 8) (lmask : W32) (step : Bool) : State :=
  let ap := s.cur.apLeft s.curGrp
  let s := match nx with
    | .seq => s.advance len
    | .set => s.onCur fun t => t.onGrp s.curGrp fun _ c => { c with last := s.issued }
  let s := s.onCur fun t => t.regroup s.curGrp
  let s := { s.onCur (fun t => { t with noWatch := false, apDone := ap }) with issued := s.issued + 1 }
  if step && s.cur.slices.any fun c => c.live != 0 then
    let pc := match (s.cur.slices.zipIdx.find? fun x => gmask.getLsbD x.2 && x.1.live != 0) with
      | some x => x.1.pc
      | none => s.cur.pcOf 0
    s.takeTrap 0x0012 0 0 0 lmask pc gmask
  else s

/-- A unit does not complete: it traps, parks, or waits. -/
def State.stopped (s : State) (e : Exc) (lmask : W32) (pc : Word) (gmask : BitVec 8) : State :=
  match e with
  | .trap code info flags => s.takeTrap code 0 flags info lmask pc gmask
  | .park cause =>
    s.takeTrap 0x0005 cause (if cause = 0 ∧ s.cur.frs = [] then 4 else 0) 0 lmask pc gmask
  | .hold long => s.onCur fun t => t.onGrp s.curGrp fun _ c => { c with wait := .again long }
  | .waits => s

/-- What a unit that began in `s` and stopped leaves: one that does not complete leaves the running patina as it was (R285). -/
def State.stops (s : State) (e : Stop) (lmask : W32) : State :=
  match e.exc with
  | .waits => e.s
  | x => (e.s.onCur fun t => { t with ctl := { t.ctl with patina := s.cur.ctl.patina } }).stopped x lmask (s.cur.pcOf s.curGrp) (s.cur.gslices s.curGrp)

/-- Runs an issue unit of the current group: `free` says that it issues while a fault record is open (R400); a poisoned guard parks
(R138); the body sees the active lanes. -/
def State.unit (s : State) (len : Nat) (free : Bool) (g : Gd) (body : W32 → M Next) : State :=
  let t := s.cur
  let mask := t.mask s.curGrp
  let pc := t.pcOf s.curGrp
  let gmask := t.gslices s.curGrp
  if !free && !t.frs.isEmpty && !t.handler then s.stopped (.park 0) mask pc gmask
  else if mask != 0 && t.regs.pPoison g.prd.toNat then s.stopped (.park 0) mask pc gmask
  else
    let act := mask &&& gdLanes g t.regs
    let step := t.ctl.dbgctl.getLsbD 63 && !t.handler
    match (body act).run s with
    | .ok (nx, s') => s'.complete len nx gmask act step
    | .error e => s.stops e act

/-- A unit whose body always goes on to the next unit, and acts only with an active lane. -/
def State.unitSeq (s : State) (len : Nat) (free : Bool) (g : Gd) (body : W32 → M Unit) : State :=
  s.unit len free g fun act => do
    if act = 0 then pure .seq else body act; pure .seq

/-- No guard. -/
def noGd : Gd := ⟨0, false⟩

/-- Bytes of an issue unit by its immediate: a kind-0 prefix makes 16 (R132). -/
def immLen : Imm → Nat
  | .i20 _ => 8
  | .i48 _ => 16

/-- Bytes of an issue unit by its shaped source. -/
def srcLen : Src → Nat
  | .wide _ => 16
  | _ => 8

/-- Bytes of an issue unit by its offset and prefix. -/
def offLen (b : Bpm) : MOff → Nat
  | .wide _ => 16
  | _ => if b.isSome then 16 else 8

/-! ### Restart of a parked thread (R402) -/

/-- The program counter at which a slice restarts: that of the oldest open record that names a slice of its group, else its parking
point. -/
def Thread.restartPc (t : Thread) (k : Nat) (c : Slice) : Word :=
  match t.frs.find? fun r => r.gmask &&& t.gslices c.grp != 0 with
  | some r => r.pc
  | none => t.parkPc.getD k c.pc

/-- What a wait leaves when it is abandoned: a STEP that is due stays due. -/
def Wait.kept : Wait → Wait
  | .step => .step
  | _ => .none

/-- Restarts a parked thread whose missing-page count is 0: records close, groups go to their restart points (R402). -/
def Thread.restart (t : Thread) : Thread :=
  if t.parked && t.missing.isEmpty then
    let sl := mapGrpAll t
    { t with slices := sl, frs := [], parked := false }
  else t
where
  /-- The slices at their restart points, wait ended; slices apart in their counters part. -/
  mapGrpAll (t : Thread) : List Slice :=
    let sl := t.slices.zipIdx.map fun x => if x.1.live = 0 then x.1 else { x.1 with pc := t.restartPc x.2 x.1, wait := x.1.wait.kept }
    sl.map fun c => { c with grp := firstWith c sl 0 }
  /-- The first live slice of the same former group and counter. -/
  firstWith (c : Slice) : List Slice → Nat → Nat
    | [], k => k
    | x :: xs, k => if x.live != 0 && x.grp == c.grp && x.pc == c.pc then k else firstWith c xs (k + 1)

end Sys2Proof.Machine
end

