-- ==== Sys2Proof/Machine/Operands.lean ====
section
/-! DEFINITION. Operand forms: the kinds of source and destination (R135 to R137, R139, R144), the tag classes (R94), and the one
way in which an arithmetic instruction reads, checks, computes and writes (R92 to R97, R138, R197). -/

namespace Sys2Proof.Machine

/-- A source after SHAPE, U and the core have given its kind. -/
inductive Opd where
  /-- `k` vector registers from `n`, read as one value (R86). -/
  | v (n k : Nat)
  /-- An s or x register. -/
  | r (n : Nat)
  /-- A niche: a plain operand read (R136). -/
  | nic (n : Nat)
  /-- An immediate's value. -/
  | const (x : Nat)
  /-- A predicate. -/
  | p (n : Nat)
  deriving DecidableEq, Repr

/-- A destination. -/
inductive Dst where
  | v (n k : Nat)
  | r (n : Nat)
  | p (n : Nat)
  deriving DecidableEq, Repr

/-- An arithmetic instruction once its fields are decoded. -/
structure Op where
  /-- Sources with the tags that each accepts. -/
  srcs : List (Opd × (BitVec 4 → Bool))
  dsts : List Dst
  /-- The result tag of destination register `i` from the sources' tags. -/
  tag : List (List (BitVec 4)) → Nat → BitVec 4
  /-- A check on all source tags together. -/
  okAll : List (BitVec 4) → Bool := fun _ => true
  /-- A trap at the point where the result would be written (R92). -/
  late : Option Code := none
  /-- The values of the destinations in lane `l`, from the participating lanes and every lane's sources; the flags raised. -/
  fn : W32 → (Nat → List Nat) → Nat → List Nat × BitVec 5

/-! ### Reading -/

/-- A source's value in a lane. -/
def Opd.val (o : Opd) (s : State) (l : Nat) : Nat :=
  match o with
  | .v n k => (rangeFrom 0 k).foldl (fun a i => a + (s.cur.regs.rdV (n + i) l).toNat * 2 ^ (32 * i)) 0
  | .r n => (s.cur.regs.rdR n).toNat
  | .nic n => (s.niche s.cur.loc.die s.cur.loc.cl n).val.toNat
  | .const x => x
  | .p n => if s.cur.regs.rdP n l then 1 else 0

/-- A source's tags: one for each vector register, none for the others (R93). -/
def Opd.tags (o : Opd) (r : Regs) : List (BitVec 4) :=
  match o with
  | .v n k => (rangeFrom n k).map r.tag
  | _ => []

/-- Whether a source is PSN or poisoned (R96). -/
def Opd.poisoned (o : Opd) (r : Regs) : Bool :=
  match o with
  | .v n k => (rangeFrom n k).any fun i => r.tag i == tPSN
  | .r n => r.rpois.getLsbD n
  | .p n => r.pPoison n
  | _ => false

/-- NICHE_MODE. -/
def cNICHE : Code := 0x000D
/-- FMT_TAG. -/
def cFMT : Code := 0x0004
/-- ILL_TAG. -/
def cTAG : Code := 0x0003

/-- The niche that a source names. -/
def Opd.niche? : Opd → Option Nat
  | .nic n => some n
  | _ => none

/-- A plain read, peek or operand read waits while the niche is EMPTY, then acquires its slot at `cl` (R287, R326, R327). -/
def readNiche (n : Nat) : M Unit := do
  let s ← getS
  let x := s.niche s.cur.loc.die s.cur.loc.cl n
  stopIf (!x.full) (.hold true)
  acquire 1 x.slot true

/-- The strict check of the sources' tags (R93). -/
def Op.tagsOk (o : Op) (r : Regs) : Bool :=
  o.srcs.all (fun p => (p.1.tags r).all p.2) && o.okAll (o.srcs.map fun p => p.1.tags r).flatten

/-- Whether any source is poisoned (R96). -/
def Op.poisoned (o : Op) (r : Regs) : Bool := o.srcs.any fun p => p.1.poisoned r

/-- Whether every destination is an s or x register, so that the instruction computes one value. -/
def Op.uniform (o : Op) : Bool := o.dsts.all fun d => match d with | .r _ => true | _ => false

/-- What an instruction is about to write. -/
structure Eff where
  dsts : List Dst
  pois : Bool
  tag : Nat → BitVec 4
  /-- Lane and the values of the destinations. -/
  vals : List (Nat × List Nat)
  flags : BitVec 5

/-- The computed values and flags over the lanes that compute. -/
def Op.compute (o : Op) (s : State) (act : W32) : Eff :=
  let rd := fun l => o.srcs.map fun p => p.1.val s l
  let lanes := if o.uniform then [lowLane act] else lanesOf act
  let rs := lanes.map fun l => (l, o.fn act rd l)
  ⟨o.dsts, false, o.tag (o.srcs.map fun p => p.1.tags s.cur.regs), rs.map fun x => (x.1, x.2.1),
   rs.foldl (fun f x => f ||| x.2.2) 0⟩

/-- The poison that a poisoned source writes: PSN or a poison bit in every destination, no flag (R96). -/
def Op.poisonEff (o : Op) : Eff := ⟨o.dsts, true, fun _ => tPSN, [], 0⟩

/-- Reads, checks and computes with `act` ≠ 0 participating lanes: niche numbers, then poison, then the niche's presence, then tags. -/
def Op.eval (o : Op) (act : W32) : M Eff := do
  let s ← getS
  let ns := o.srcs.filterMap fun p => p.1.niche?
  stopIf (ns.any s.nicheBad) (.trap cNICHE 0 0)
  if o.poisoned s.cur.regs then pure o.poisonEff
  else
    eachM readNiche ns
    let s ← getS
    stopIf (s.cur.ctl.tagchk && !o.tagsOk s.cur.regs) (.trap cFMT 0 0)
    match o.late with
    | some c => trap c
    | none => pure (o.compute s act)

/-! ### Writing -/

/-- The value of destination `i` in a lane. -/
def Eff.at (e : Eff) (i l : Nat) : Nat :=
  match e.vals.find? fun x => x.1 == l with
  | some x => x.2.getD i 0
  | none => 0

/-- Writes one destination. -/
def Eff.write (e : Eff) (exist act : W32) (r : Regs) (i : Nat) : Dst → Regs
  | .v n k =>
    (rangeFrom 0 k).foldl (fun r j =>
      if e.pois then r.psnV (n + j) act
      else r.wrV exist (n + j) act (e.tag j) fun l => BitVec.ofNat 32 (e.at i l / 2 ^ (32 * j))) r
  | .r n => if e.pois then r.psnR n else r.wrR n (BitVec.ofNat 64 (e.at i (lowLane act)))
  | .p n => if e.pois then r.psnP n act else r.wrP exist n act fun l => e.at i l != 0

/-- Writes the destinations from number `i` on. -/
def Eff.writes (e : Eff) (exist act : W32) : List Dst → Nat → Regs → Regs
  | [], _, r => r
  | d :: ds, i, r => e.writes exist act ds (i + 1) (e.write exist act r i d)

/-- Applies an effect to a thread: destinations, then flags (R97, R112). -/
def Eff.apply (e : Eff) (act : W32) (t : Thread) : Thread :=
  { t with regs := e.writes t.exist act e.dsts 0 t.regs }.orFlags e.flags

/-- Runs an arithmetic instruction as one issue unit. -/
def runAlu (len : Nat) (g : Gd) (o : Op) (s : State) : State :=
  s.unitSeq len true g fun act => do
    let e ← o.eval act
    modS fun s => s.onCur fun t => e.apply act t

/-! ### Fields to operands -/

/-- Registers are s or x registers: the U form, or the armature core (R139, R152). -/
def scalar (h : Hd) (s : State) : Bool := h.u || s.cur.arm

/-- The guard of a head. -/
def hdGd (h : Hd) : Gd := ⟨h.prd, h.png⟩

/-- A register field as a source. -/
def regOpd (sc : Bool) (n : BitVec 10) (k : Nat := 1) : Opd := if sc then .r n.toNat else .v n.toNat k

/-- A register field as a destination. -/
def regDst (sc : Bool) (n : BitVec 10) (k : Nat := 1) : Dst := if sc then .r n.toNat else .v n.toNat k

/-- The value classes of an immediate (R137, R148). -/
inductive ImmCls where
  | int (w : Nat) | fp | bf
  deriving DecidableEq, Repr

/-- The value of a 20-bit immediate (R137). -/
def imm20 (c : ImmCls) (v : BitVec 20) : Nat :=
  match c with
  | .int w => truncI (sextN v.toNat 20) w
  | .fp => v.toNat * 2 ^ 12
  | .bf => v.toNat % 65536 * 65537

/-- The value of a prefix's immediate (R148). -/
def imm48 (c : ImmCls) (v : BitVec 48) : Nat :=
  match c with
  | .int w => truncI (sextN v.toNat 48) w
  | _ => v.toNat % 2 ^ 32

/-- A shaped source. -/
def srcOpd (sc : Bool) (c : ImmCls) (k : Nat) : Src → Opd
  | .reg n => regOpd sc n k
  | .sreg n => .r n.toNat
  | .nic n => .nic n.toNat
  | .imm v => .const (imm20 c v)
  | .wide v => .const (imm48 c v)

/-- An immediate. -/
def immVal (c : ImmCls) : Imm → Nat
  | .i20 v => imm20 c v
  | .i48 v => imm48 c v

/-- Any tag. -/
def anyTag (_ : BitVec 4) : Bool := true
/-- Exactly a tag. -/
def isTag (t : BitVec 4) (x : BitVec 4) : Bool := x == t
/-- A tag or NIL. -/
def orNil (t : BitVec 4) (x : BitVec 4) : Bool := x == t || x == tNIL

/-- A constant result tag. -/
def tagC (t : BitVec 4) : List (List (BitVec 4)) → Nat → BitVec 4 := fun _ _ => t

/-- The result tag of bitwise logic (R94). -/
def logicTag (ts : List (List (BitVec 4))) (_ : Nat) : BitVec 4 :=
  match ts.flatten.filter (· != tNIL) with
  | [] => tNIL
  | t :: rest => if rest.all (· == t) then t else tI32

/-- A function of one lane's sources, with one result and no flag. -/
def lane1 (f : List Nat → Nat) : W32 → (Nat → List Nat) → Nat → List Nat × BitVec 5 := fun _ rd l => ([f (rd l)], 0)

/-- A function of one lane's sources, with one 32-bit result and flags. -/
def laneF (f : List Nat → W32 × BitVec 5) : W32 → (Nat → List Nat) → Nat → List Nat × BitVec 5 :=
  fun _ rd l => let r := f (rd l); ([r.1.toNat], r.2)

/-- The `i`th source. -/
def arg (xs : List Nat) (i : Nat) : Nat := xs.getD i 0

/-- The rounding mode that a field names: `dyn` reads `rmode` at issue (R109, R111). -/
def rmOf (s : State) (rnd : BitVec 3) : BitVec 3 := if rnd = 7 then s.cur.ctl.rmode else rnd

end Sys2Proof.Machine
end

