-- ==== Sys2Proof/Machine/Flags.lean ====
section
/-! DEFINITION. Carries, comparisons and the other conditions that integer instructions compute (R200 to R204). -/

namespace Sys2Proof.Machine

/-- The width that an IT field selects (R198). -/
def itW (it : BitVec 2) : Nat := if it.toNat ≤ 1 then 32 else 64
/-- Whether an IT field is signed. -/
def itS (it : BitVec 2) : Bool := it == 0 || it == 2
/-- The width that a W field selects. -/
def wW (w : BitVec 2) : Nat := if w = 2 then 64 else 32

/-- The sum or difference and its carry out, before the cut to `w` bits (R201): subtraction adds the complement. -/
def carryAdd (w : Nat) (sub : Bool) (a b cin : Nat) : Nat := a % 2 ^ w + (if sub then 2 ^ w - 1 - b % 2 ^ w else b % 2 ^ w) + cin

/-- The carry out of a `w`-bit sum. -/
def carryOut (w r : Nat) : Bool := decide (2 ^ w ≤ r)

/-- A saturating sum or difference (R201 `.sat`). -/
def satAdd (signed : Bool) (w : Nat) (sub : Bool) (a b : Nat) : Nat :=
  let x := readI signed a w
  let y := readI signed b w
  truncI (satI signed w (if sub then x - y else x + y)) w

/-- A comparison of integers (R199 CMP). -/
def cmpI (c : BitVec 3) (x y : Int) : Bool :=
  if c = 0 then decide (x = y) else if c = 1 then decide (x ≠ y) else if c = 2 then decide (x < y)
  else if c = 3 then decide (x ≤ y) else if c = 4 then decide (y < x) else decide (y ≤ x)

/-- A comparison of `w`-bit patterns. -/
def cmpPat (c : BitVec 3) (signed : Bool) (w a b : Nat) : Bool := cmpI c (readI signed a w) (readI signed b w)

/-- Bits [2w-1:w] of a product plus an addend, all read by IT (R200 `.hi`). -/
def mulHi (signed : Bool) (w a b c : Nat) : Nat :=
  truncI ((readI signed a w * readI signed b w + readI signed c w) / (2 ^ w : Nat)) w

/-- The 64-bit product of 32-bit values plus a 64-bit addend (R200 `.wide`). -/
def mulWide (signed : Bool) (a b c : Nat) : Nat := truncI (readI signed a 32 * readI signed b 32 + (c : Int)) 64

/-- Quotient or remainder, truncated toward zero; a zero divisor gives all ones and the dividend (R202). -/
def divI (signed rem : Bool) (w a b : Nat) : Nat :=
  let x := readI signed a w
  let y := readI signed b w
  if y = 0 then (if rem then truncI x w else 2 ^ w - 1)
  else truncI (if rem then x.tmod y else x.tdiv y) w

/-- `iabs` and `ineg` with their saturation (R200). -/
def absNeg (neg sat : Bool) (w a : Nat) : Nat :=
  let x := readI true a w
  let r := if neg then -x else (x.natAbs : Int)
  truncI (if sat then satI true w r else r) w

/-- A left shift by `b mod w` (R200). -/
def shlN (w a b : Nat) : Nat := a % 2 ^ w * 2 ^ (b % w) % 2 ^ w
/-- A right shift by `b mod w`, logical or arithmetic (R200). -/
def shrN (arith : Bool) (w a b : Nat) : Nat := truncI (readI arith a w / (2 ^ (b % w) : Nat)) w
/-- A left rotation by `b mod w` (R200). -/
def rotN (w a b : Nat) : Nat := (shlN w a b ||| a % 2 ^ w / 2 ^ (w - b % w)) % 2 ^ w

/-- `bfe` (R203). -/
def bfeN (sx : Bool) (w a p0 l0 : Nat) : Nat :=
  let pos := min p0 w
  let len := min l0 (w - pos)
  let f := fieldN (a % 2 ^ w) pos len
  if sx ∧ 0 < len then truncI (sextN f len) w else f

/-- `bfi` (R203). -/
def bfiN (w d a p0 l0 : Nat) : Nat :=
  let pos := min p0 w
  let len := min l0 (w - pos)
  let d := d % 2 ^ w
  d - fieldN d pos len * 2 ^ pos + a % 2 ^ len * 2 ^ pos

/-- `bcnt` (R200): 0 popc, 1 clz, 2 ctz. -/
def bcntN (bop : BitVec 2) (w a : Nat) : Nat := if bop = 0 then popN a w else if bop = 1 then clzN a w else ctzN a 0 w

/-- Element `k` of a packed value (R101, R204). -/
def packedEl (pk : BitVec 2) (a k : Nat) : Int :=
  let w := if pk.toNat ≤ 1 then 8 else 16
  readI (pk == 0 || pk == 2) (a / 2 ^ (w * k)) w

/-- `idp4` and `sad` (R204). -/
def packedSum (dot sat : Bool) (pk : BitVec 2) (a b c : Nat) : Nat :=
  let sg := pk == 0 || pk == 2
  let n := if pk.toNat ≤ 1 then 4 else 2
  let r := (rangeFrom 0 n).foldl (fun (t : Int) k =>
    let x := packedEl pk a k
    let y := packedEl pk b k
    t + if dot then x * y else ((x - y).natAbs : Int)) (readI sg c 32)
  truncI (if sat then satI sg 32 r else r) 32

end Sys2Proof.Machine
end

