-- ==== Sys2Proof/Machine/Fp.lean ====
section
/-! DEFINITION. Floating-point instructions, opcodes 0x40 to 0x53 (R209 to R214). -/

namespace Sys2Proof.Machine

/-- The tag of an FT field. -/
def ftTag (bf : Bool) : BitVec 4 := if bf then tBF else tFP32
/-- The immediate class of an FT field. -/
def ftCls (bf : Bool) : ImmCls := if bf then .bf else .fp

/-- A function of one element, given the precision, applied by FT (R209, R100). -/
def lift1 (bf : Bool) (f : Nat → W32 → W32 × Flags) (x : Nat) : W32 × Flags :=
  let x := BitVec.ofNat 32 x
  if bf then
    let lo := f 8 (bfEl x 0)
    let hi := f 8 (bfEl x 1)
    (bfPair lo.1 hi.1, lo.2 ||| hi.2)
  else f 24 x

/-- A function of two elements, applied by FT. -/
def lift2 (bf : Bool) (f : Nat → W32 → W32 → W32 × Flags) (x y : Nat) : W32 × Flags :=
  let x := BitVec.ofNat 32 x
  let y := BitVec.ofNat 32 y
  if bf then
    let lo := f 8 (bfEl x 0) (bfEl y 0)
    let hi := f 8 (bfEl x 1) (bfEl y 1)
    (bfPair lo.1 hi.1, lo.2 ||| hi.2)
  else f 24 x y

/-- A function of three elements, applied by FT. -/
def lift3 (bf : Bool) (f : Nat → W32 → W32 → W32 → W32 × Flags) (x y z : Nat) : W32 × Flags :=
  let x := BitVec.ofNat 32 x
  let y := BitVec.ofNat 32 y
  let z := BitVec.ofNat 32 z
  if bf then
    let lo := f 8 (bfEl x 0) (bfEl y 0) (bfEl z 0)
    let hi := f 8 (bfEl x 1) (bfEl y 1) (bfEl z 1)
    (bfPair lo.1 hi.1, lo.2 ||| hi.2)
  else f 24 x y z

/-- A function bounded in FP32, rounded to BF16 where FT says (R213). -/
def trans (f : W32 → W32 × Flags) (p : Nat) (a : W32) : W32 × Flags := if p = 8 then toBf (f a) else f a

/-- A unary operation. -/
def opFp1 (sc : Bool) (dst sa : BitVec 10) (bf : Bool) (f : Nat → W32 → W32 × Flags) : Op where
  srcs := [(regOpd sc sa, isTag (ftTag bf))]
  dsts := [regDst sc dst]
  tag := tagC (ftTag bf)
  fn := laneF fun x => lift1 bf f (arg x 0)

/-- A binary operation. -/
def opFp2 (sc : Bool) (dst sa : BitVec 10) (sb : Src) (bf : Bool) (f : Nat → W32 → W32 → W32 × Flags) : Op where
  srcs := [(regOpd sc sa, isTag (ftTag bf)), (srcOpd sc (ftCls bf) 1 sb, isTag (ftTag bf))]
  dsts := [regDst sc dst]
  tag := tagC (ftTag bf)
  fn := laneF fun x => lift2 bf f (arg x 0) (arg x 1)

/-- `fma` (R210). -/
def opFma (sc : Bool) (dst sa : BitVec 10) (sb : Src) (sC : BitVec 10) (bf : Bool) (rm : BitVec 3) : Op where
  srcs := [(regOpd sc sa, isTag (ftTag bf)), (srcOpd sc (ftCls bf) 1 sb, isTag (ftTag bf)), (regOpd sc sC, isTag (ftTag bf))]
  dsts := [regDst sc dst]
  tag := tagC (ftTag bf)
  fn := laneF fun x => lift3 bf (fmaF rm) (arg x 0) (arg x 1) (arg x 2)

/-- `fcmp` (R211): one predicate, a pair of predicates with BF16X2, or bits 0 and 1 of an s register. -/
def opFcmp (sc : Bool) (dst sa : BitVec 10) (sb : Src) (bf : Bool) (cmp : BitVec 3) : Op :=
  let one := fun (a b : W32) => let r := cmpF cmp a b; ((if r.1 then 1 else 0 : Nat), r.2)
  { opFp2 sc dst sa sb bf (fun _ a _ => (a, 0)) with
    dsts := if sc then [.r dst.toNat] else if bf then [.p dst.toNat, .p (dst.toNat + 1)] else [.p dst.toNat]
    fn := fun _ rd l =>
      let x := BitVec.ofNat 32 (arg (rd l) 0)
      let y := BitVec.ofNat 32 (arg (rd l) 1)
      if bf then
        let lo := one (bfEl x 0) (bfEl y 0)
        let hi := one (bfEl x 1) (bfEl y 1)
        (if sc then [lo.1 + 2 * hi.1] else [lo.1, hi.1], lo.2 ||| hi.2)
      else
        let r := one x y
        ([r.1], r.2) }

/-- `fclass` (R214). -/
def opFclass (sc : Bool) (dst sa : BitVec 10) (bf : Bool) : Op where
  srcs := [(regOpd sc sa, isTag (ftTag bf))]
  dsts := [regDst sc dst]
  tag := tagC tI32
  fn := lane1 fun x =>
    let a := BitVec.ofNat 32 (arg x 0)
    if bf then classF (bfEl a 0) + classF (bfEl a 1) * 2 ^ 16 else classF a

/-- `fscale` (R214): one integer scales every element. -/
def opFscale (sc : Bool) (dst sa : BitVec 10) (sb : Src) (bf : Bool) (rm : BitVec 3) : Op where
  srcs := [(regOpd sc sa, isTag (ftTag bf)), (srcOpd sc (.int 32) 1 sb, orNil tI32)]
  dsts := [regDst sc dst]
  tag := tagC (ftTag bf)
  fn := laneF fun x => lift1 bf (fun p a => scaleF rm p a (sextN (arg x 1) 32)) (arg x 0)

/-- `fdot2` (R210). -/
def opFdot2 (sc : Bool) (dst sa : BitVec 10) (sb : Src) (sC : BitVec 10) (rm : BitVec 3) : Op where
  srcs := [(regOpd sc sa, isTag tBF), (srcOpd sc .bf 1 sb, isTag tBF), (regOpd sc sC, isTag tFP32)]
  dsts := [regDst sc dst]
  tag := tagC tFP32
  fn := laneF fun x =>
    let a := BitVec.ofNat 32 (arg x 0)
    let b := BitVec.ofNat 32 (arg x 1)
    dotF rm 24 [(unpackF (bfEl a 0), unpackF (bfEl b 0)), (unpackF (bfEl a 1), unpackF (bfEl b 1))]
      [unpackF (BitVec.ofNat 32 (arg x 2))]

/-- `fadd` (R210). -/
def execFadd (h : Hd) (dst sa : BitVec 10) (sb : Src) (bf : Bool) (rnd : BitVec 3) (s : State) : Out :=
  .next (runAlu (srcLen sb) (hdGd h) (opFp2 (scalar h s) dst sa sb bf (addF (rmOf s rnd))) s)

/-- `fsub` (R210). -/
def execFsub (h : Hd) (dst sa : BitVec 10) (sb : Src) (bf : Bool) (rnd : BitVec 3) (s : State) : Out :=
  .next (runAlu (srcLen sb) (hdGd h) (opFp2 (scalar h s) dst sa sb bf (subF (rmOf s rnd))) s)

/-- `fmul` (R210). -/
def execFmul (h : Hd) (dst sa : BitVec 10) (sb : Src) (bf : Bool) (rnd : BitVec 3) (s : State) : Out :=
  .next (runAlu (srcLen sb) (hdGd h) (opFp2 (scalar h s) dst sa sb bf (mulF (rmOf s rnd))) s)

/-- `fdiv` (R210). -/
def execFdiv (h : Hd) (dst sa : BitVec 10) (sb : Src) (bf : Bool) (rnd : BitVec 3) (s : State) : Out :=
  .next (runAlu (srcLen sb) (hdGd h) (opFp2 (scalar h s) dst sa sb bf (divF (rmOf s rnd))) s)

/-- `fma` (R210). -/
def execFma (h : Hd) (dst sa : BitVec 10) (sb : Src) (sc : BitVec 10) (bf : Bool) (rnd : BitVec 3) (s : State) : Out :=
  .next (runAlu (srcLen sb) (hdGd h) (opFma (scalar h s) dst sa sb sc bf (rmOf s rnd)) s)

/-- `fmin` (R211). -/
def execFmin (h : Hd) (dst sa : BitVec 10) (sb : Src) (bf : Bool) (s : State) : Out :=
  .next (runAlu (srcLen sb) (hdGd h) (opFp2 (scalar h s) dst sa sb bf (fun _ => minmaxF false)) s)

/-- `fmax` (R211). -/
def execFmax (h : Hd) (dst sa : BitVec 10) (sb : Src) (bf : Bool) (s : State) : Out :=
  .next (runAlu (srcLen sb) (hdGd h) (opFp2 (scalar h s) dst sa sb bf (fun _ => minmaxF true)) s)

/-- `fcmp` (R211). -/
def execFcmp (h : Hd) (dst sa : BitVec 10) (sb : Src) (bf : Bool) (cmp : BitVec 3) (s : State) : Out :=
  .next (runAlu (srcLen sb) (hdGd h) (opFcmp (scalar h s) dst sa sb bf cmp) s)

/-- `frcp` (R212). -/
def execFrcp (h : Hd) (dst sa : BitVec 10) (bf : Bool) (rnd : BitVec 3) (s : State) : Out :=
  .next (runAlu 8 (hdGd h) (opFp1 (scalar h s) dst sa bf (rcpF (rmOf s rnd))) s)

/-- `fsqrt` (R212). -/
def execFsqrt (h : Hd) (dst sa : BitVec 10) (bf : Bool) (rnd : BitVec 3) (s : State) : Out :=
  .next (runAlu 8 (hdGd h) (opFp1 (scalar h s) dst sa bf (sqrtF (rmOf s rnd))) s)

/-- `frnd` (R214). -/
def execFrnd (h : Hd) (dst sa : BitVec 10) (bf : Bool) (rnd : BitVec 3) (s : State) : Out :=
  .next (runAlu 8 (hdGd h) (opFp1 (scalar h s) dst sa bf (rndF (rmOf s rnd))) s)

/-- `ffrac` (R214). -/
def execFfrac (h : Hd) (dst sa : BitVec 10) (bf : Bool) (rnd : BitVec 3) (s : State) : Out :=
  .next (runAlu 8 (hdGd h) (opFp1 (scalar h s) dst sa bf (fracF (rmOf s rnd))) s)

/-- `frsq` (R213). -/
def execFrsq (h : Hd) (dst sa : BitVec 10) (bf : Bool) (s : State) : Out :=
  .next (runAlu 8 (hdGd h) (opFp1 (scalar h s) dst sa bf (trans frsqF)) s)

/-- `fexp2` (R213). -/
def execFexp2 (h : Hd) (dst sa : BitVec 10) (bf : Bool) (s : State) : Out :=
  .next (runAlu 8 (hdGd h) (opFp1 (scalar h s) dst sa bf (trans fexp2F)) s)

/-- `flog2` (R213). -/
def execFlog2 (h : Hd) (dst sa : BitVec 10) (bf : Bool) (s : State) : Out :=
  .next (runAlu 8 (hdGd h) (opFp1 (scalar h s) dst sa bf (trans flog2F)) s)

/-- `fsin` (R213). -/
def execFsin (h : Hd) (dst sa : BitVec 10) (bf : Bool) (s : State) : Out :=
  .next (runAlu 8 (hdGd h) (opFp1 (scalar h s) dst sa bf (trans fsinF)) s)

/-- `fcos` (R213). -/
def execFcos (h : Hd) (dst sa : BitVec 10) (bf : Bool) (s : State) : Out :=
  .next (runAlu 8 (hdGd h) (opFp1 (scalar h s) dst sa bf (trans fcosF)) s)

/-- `fclass` (R214). -/
def execFclass (h : Hd) (dst sa : BitVec 10) (bf : Bool) (s : State) : Out :=
  .next (runAlu 8 (hdGd h) (opFclass (scalar h s) dst sa bf) s)

/-- `fscale` (R214). -/
def execFscale (h : Hd) (dst sa : BitVec 10) (sb : Src) (bf : Bool) (rnd : BitVec 3) (s : State) : Out :=
  .next (runAlu (srcLen sb) (hdGd h) (opFscale (scalar h s) dst sa sb bf (rmOf s rnd)) s)

/-- `fdot2` (R210). -/
def execFdot2 (h : Hd) (dst sa : BitVec 10) (sb : Src) (sc : BitVec 10) (rnd : BitVec 3) (s : State) : Out :=
  .next (runAlu (srcLen sb) (hdGd h) (opFdot2 (scalar h s) dst sa sb sc (rmOf s rnd)) s)

end Sys2Proof.Machine
end

