-- ==== Sys2Proof/Machine/Convert.lean ====
section
/-! DEFINITION. Conversions, opcodes 0x58 to 0x5A (R215 to R217). -/

namespace Sys2Proof.Machine

/-- A function of one lane's sources with one result of any width and flags. -/
def laneN (f : List Nat → Nat × Flags) : W32 → (Nat → List Nat) → Nat → List Nat × BitVec 5 :=
  fun _ rd l => let r := f (rd l); ([r.1], r.2)

/-- The conversion that CV selects (R215). -/
def cvtN (cv : BitVec 4) (rm : BitVec 3) (x : Nat) : Nat × Flags :=
  let f := fun (r : W32 × Flags) => (r.1.toNat, r.2)
  let w := BitVec.ofNat 32 x
  match cv.toNat with
  | 0 => f (i2f rm (sextN x 32))
  | 1 => f (i2f rm (x % 2 ^ 32 : Nat))
  | 2 => f2i rm true 32 w
  | 3 => f2i rm false 32 w
  | 4 => f (i2f rm (sextN x 64))
  | 5 => f (i2f rm (x % 2 ^ 64 : Nat))
  | 6 => f2i rm true 64 w
  | 7 => f2i rm false 64 w
  | 8 => (truncI (sextN x 32) 64, 0)
  | 9 => (x % 2 ^ 32, 0)
  | 10 => (truncI (satI true 32 (sextN x 64)) 32, 0)
  | 11 => (truncI (satI false 32 (x % 2 ^ 64 : Nat)) 32, 0)
  | 12 => (truncI (satI false 32 (sextN x 32)) 32, 0)
  | _ => (truncI (satI true 32 (x % 2 ^ 32 : Nat)) 32, 0)

/-- Source and result tags of a conversion. -/
def cvtTags (cv : BitVec 4) : BitVec 4 × BitVec 4 :=
  match cv.toNat with
  | 0 => (tI32, tFP32) | 1 => (tI32, tFP32) | 2 => (tFP32, tI32) | 3 => (tFP32, tI32) | 4 => (tI32, tFP32) | 5 => (tI32, tFP32)
  | 6 => (tFP32, tI32) | 7 => (tFP32, tI32) | _ => (tI32, tI32)

/-- `cvt` (R215). -/
def opCvt (sc : Bool) (dst sa : BitVec 10) (cv : BitVec 4) (rm : BitVec 3) : Op where
  srcs := [(regOpd sc sa, isTag (cvtTags cv).1)]
  dsts := [regDst sc dst]
  tag := tagC (cvtTags cv).2
  fn := laneN fun x => cvtN cv rm (arg x 0)

/-- The elements of an I16X2 value, saturated to bytes (R216 PK 3 and 4). -/
def satBytes (signed : Bool) (x : Nat) : Nat :=
  truncI (satI signed 8 (sextN x 16)) 8 + truncI (satI signed 8 (sextN (x / 65536) 16)) 8 * 256

/-- The result of `pack` (R216). -/
def packN (pk rm : BitVec 3) (a b : Nat) : Nat × Flags :=
  match pk.toNat with
  | 0 =>
    let x := packF rm 8 (unpackF (BitVec.ofNat 32 a))
    let y := packF rm 8 (unpackF (BitVec.ofNat 32 b))
    ((bfPair x.1 y.1).toNat, x.2 ||| y.2)
  | 1 => (truncI (satI true 16 (sextN a 32)) 16 + truncI (satI true 16 (sextN b 32)) 16 * 65536, 0)
  | 2 => (truncI (satI false 16 (sextN a 32)) 16 + truncI (satI false 16 (sextN b 32)) 16 * 65536, 0)
  | 3 => (satBytes true a + satBytes true b * 65536, 0)
  | _ => (satBytes false a + satBytes false b * 65536, 0)

/-- Source tag, result tag and immediate class of `pack`. -/
def packTags (pk : BitVec 3) : BitVec 4 × BitVec 4 × ImmCls :=
  match pk.toNat with
  | 0 => (tFP32, tBF, .fp) | 1 => (tI32, tI16, .int 32) | 2 => (tI32, tI16, .int 32) | _ => (tI16, tI8, .int 32)

/-- `pack` (R216). -/
def opPack (sc : Bool) (dst sa : BitVec 10) (sb : Src) (pk rm : BitVec 3) : Op where
  srcs := [(regOpd sc sa, isTag (packTags pk).1), (srcOpd sc (packTags pk).2.2 1 sb, isTag (packTags pk).1)]
  dsts := [regDst sc dst]
  tag := tagC (packTags pk).2.1
  fn := laneN fun x => packN pk rm (arg x 0) (arg x 1)

/-- The result of `unpk` (R217). -/
def unpkN (uk : BitVec 3) (el a : Nat) : Nat × Flags :=
  match uk.toNat with
  | 0 => let r := packF 0 24 (unpackF (bfEl (BitVec.ofNat 32 a) el)); (r.1.toNat, r.2)
  | 1 => (truncI (sextN (a / 2 ^ (16 * el)) 16) 32, 0)
  | 2 => (a / 2 ^ (16 * el) % 65536, 0)
  | 3 => (truncI (sextN (a / 2 ^ (8 * el)) 8) 32, 0)
  | _ => (a / 2 ^ (8 * el) % 256, 0)

/-- Source and result tags of `unpk`. -/
def unpkTags (uk : BitVec 3) : BitVec 4 × BitVec 4 :=
  match uk.toNat with
  | 0 => (tBF, tFP32) | 1 => (tI16, tI32) | 2 => (tI16, tI32) | _ => (tI8, tI32)

/-- `unpk` (R217). -/
def opUnpk (sc : Bool) (dst sa : BitVec 10) (uk : BitVec 3) (el : BitVec 2) : Op where
  srcs := [(regOpd sc sa, isTag (unpkTags uk).1)]
  dsts := [regDst sc dst]
  tag := tagC (unpkTags uk).2
  fn := laneN fun x => unpkN uk el.toNat (arg x 0)

/-- `cvt` (R215). -/
def execCvt (h : Hd) (dst sa : BitVec 10) (cv : BitVec 4) (rnd : BitVec 3) (s : State) : Out :=
  .next (runAlu 8 (hdGd h) (opCvt (scalar h s) dst sa cv (rmOf s rnd)) s)

/-- `pack` (R216). -/
def execPack (h : Hd) (dst sa : BitVec 10) (sb : Src) (pk rnd : BitVec 3) (s : State) : Out :=
  .next (runAlu (srcLen sb) (hdGd h) (opPack (scalar h s) dst sa sb pk (rmOf s rnd)) s)

/-- `unpk` (R217). -/
def execUnpk (h : Hd) (dst sa : BitVec 10) (uk : BitVec 3) (el : BitVec 2) (s : State) : Out :=
  .next (runAlu 8 (hdGd h) (opUnpk (scalar h s) dst sa uk el) s)

end Sys2Proof.Machine
end

