-- ==== Sys2Proof/Machine/Lanes.lean ====
section
/-! DEFINITION. Lane instructions, opcodes 0x5C to 0x61 (R218 to R223). -/

namespace Sys2Proof.Machine

/-- The mask of the participating lanes whose value passes a test. -/
def laneSet (act : W32) (f : Nat → Bool) : Nat := (lanesOf act).foldl (fun m k => if f k then m + 2 ^ k else m) 0

/-- `vote` (R219). -/
def opVote (dst sa : BitVec 10) (vop : BitVec 2) : Op where
  srcs := [(.p (sa.toNat % 16), anyTag)]
  dsts := [if vop.toNat < 2 then .p (dst.toNat % 16) else .r dst.toNat]
  tag := tagC tNIL
  fn := fun act rd _ =>
    let on := fun k => arg (rd k) 0 = 1
    let ls := lanesOf act
    ([match vop.toNat with
      | 0 => if ls.all fun k => on k then 1 else 0
      | 1 => if ls.any fun k => on k then 1 else 0
      | 2 => laneSet act fun k => on k
      | _ => ls.countP fun k => on k], 0)

/-- The lane that `shfl` reads, or the reader itself (R220). -/
def shflLane (sop : BitVec 2) (seg nlanes l b : Nat) : Nat :=
  let base := l - l % seg
  let b := b % 32
  let k : Int := match sop.toNat with
    | 0 => (base + b % seg : Nat)
    | 1 => (l : Int) - b
    | 2 => (l + b : Nat)
    | _ => (Nat.xor l b : Nat)
  if k < base ∨ (base + seg : Nat) ≤ k ∨ (nlanes : Int) ≤ k then l else k.toNat

/-- `shfl` (R220). -/
def opShfl (nlanes : Nat) (dst sa : BitVec 10) (sb : Src) (segl : BitVec 3) (sop : BitVec 2) : Op where
  srcs := [(.v sa.toNat 1, anyTag), (srcOpd false (.int 32) 1 sb, orNil tI32)]
  dsts := [.v dst.toNat 1]
  tag := fun ts i => (ts.getD 0 []).getD i tNIL
  fn := fun _ rd l => ([arg (rd (shflLane sop (2 ^ segl.toNat) nlanes l (arg (rd l) 1))) 0], 0)

/-- The result of `prmt` (R221). -/
def prmtN (a b c : Nat) : Nat :=
  let y := a % 2 ^ 32 + c % 2 ^ 32 * 2 ^ 32
  (rangeFrom 0 4).foldl (fun r k =>
    let n := fieldN b (4 * k) 4
    let x := fieldN y (8 * (n % 8)) 8
    r + (if n < 8 then x else if 128 ≤ x then 255 else 0) * 2 ^ (8 * k)) 0

/-- `prmt` (R221): with an immediate selector, c is a. -/
def opPrmt (dst sa : BitVec 10) (sb : Src) (sC : BitVec 10) : Op where
  srcs := [(.v sa.toNat 1, anyTag), (srcOpd false (.int 32) 1 sb, anyTag),
    (match sb with | .imm _ => .v sa.toNat 1 | .wide _ => .v sa.toNat 1 | _ => .v sC.toNat 1, anyTag)]
  dsts := [.v dst.toNat 1]
  tag := tagC tI32
  fn := lane1 fun x => prmtN (arg x 0) (arg x 1) (arg x 2)

/-- `redg` (R222). -/
def opRedg (dst sa : BitVec 10) (rop : BitVec 3) (rty : BitVec 2) (rm : BitVec 3) : Op where
  srcs := [(.v sa.toNat 1, isTag (redTag rty))]
  dsts := [.v dst.toNat 1]
  tag := tagC (redTag rty)
  fn := fun act rd _ =>
    let r := reduce rop rty rm ((lanesOf act).map fun k => BitVec.ofNat 32 (arg (rd k) 0))
    ([r.1.toNat], r.2)

/-- `scan` (R222). -/
def opScan (dst sa : BitVec 10) (rop : BitVec 3) (rty : BitVec 2) (rm : BitVec 3) (excl : Bool) : Op :=
  { opRedg dst sa rop rty rm with
    fn := fun act rd l =>
      let ks := (lanesOf act).filter fun k => k < l || (!excl && k == l)
      let r := reduce rop rty rm (ks.map fun k => BitVec.ofNat 32 (arg (rd k) 0))
      ([r.1.toNat], r.2) }

/-- `match` (R223). -/
def opMatch (dst sa : BitVec 10) (all : Bool) : Op where
  srcs := [(.v sa.toNat 1, anyTag)]
  dsts := [if all then .p (dst.toNat % 16) else .v dst.toNat 1]
  tag := tagC tI32
  fn := fun act rd l =>
    let a := arg (rd l) 0
    ([if all then (if (lanesOf act).all fun k => arg (rd k) 0 == a then 1 else 0)
      else laneSet act fun k => arg (rd k) 0 == a], 0)

/-- `vote` (R219). -/
def execVote (g : Gd) (dst sa : BitVec 10) (vop : BitVec 2) (s : State) : Out := .next (runAlu 8 g (opVote dst sa vop) s)

/-- `shfl` (R220). -/
def execShfl (g : Gd) (dst sa : BitVec 10) (sb : Src) (segl : BitVec 3) (sop : BitVec 2) (s : State) : Out :=
  .next (runAlu (srcLen sb) g (opShfl s.cur.nlanes dst sa sb segl sop) s)

/-- `prmt` (R221). -/
def execPrmt (g : Gd) (dst sa : BitVec 10) (sb : Src) (sc : BitVec 10) (s : State) : Out :=
  .next (runAlu (srcLen sb) g (opPrmt dst sa sb sc) s)

/-- `redg` (R222). -/
def execRedg (g : Gd) (dst sa : BitVec 10) (rop : BitVec 3) (rty : BitVec 2) (rnd : BitVec 3) (s : State) : Out :=
  .next (runAlu 8 g (opRedg dst sa rop rty (rmOf s rnd)) s)

/-- `scan` (R222). -/
def execScan (g : Gd) (dst sa : BitVec 10) (rop : BitVec 3) (rty : BitVec 2) (rnd : BitVec 3) (excl : Bool) (s : State) : Out :=
  .next (runAlu 8 g (opScan dst sa rop rty (rmOf s rnd) excl) s)

/-- `match` (R223). -/
def execMatchv (g : Gd) (dst sa : BitVec 10) (mop : Bool) (s : State) : Out := .next (runAlu 8 g (opMatch dst sa mop) s)

end Sys2Proof.Machine
end

