-- ==== Sys2Proof/Machine/Control.lean ====
section
/-! DEFINITION. Branches, the token stack, groups and cohorts, traps by instruction: opcodes 0x00 to 0x0F (R331 to R341). -/

namespace Sys2Proof.Machine

/-- TOK_OVF. -/
def cTOK : Code := 0x000E

/-- The value of an SB that is an s register, an x register or an immediate: 20 bits extended to 32, or the 48 bits of a prefix (R330). -/
def ctlVal (s : State) : Src → Nat
  | .reg n => (s.cur.regs.rdR n.toNat).toNat
  | .sreg n => (s.cur.regs.rdR n.toNat).toNat
  | .nic _ => 0
  | .imm v => imm20 (.int 32) v
  | .wide v => v.toNat

/-- Whether an s or x source is poisoned. -/
def ctlPois (s : State) : Src → Bool
  | .reg n => s.cur.regs.rpois.getLsbD n.toNat
  | .sreg n => s.cur.regs.rpois.getLsbD n.toNat
  | _ => false

/-- Whether an s or x register is poisoned. -/
def rPois (s : State) (n : BitVec 10) : Bool := s.cur.regs.rpois.getLsbD n.toNat

/-- The value of an s or x register. -/
def rVal (s : State) (n : BitVec 10) : Word := s.cur.regs.rdR n.toNat

/-- Writes an s or x register of the current thread. -/
def setR (n : BitVec 10) (x : Word) : M Unit := modS fun s => s.onRegs fun r => r.wrR n.toNat x

/-- Poisons an s or x register of the current thread. -/
def psnRM (n : BitVec 10) : M Unit := modS fun s => s.onRegs fun r => r.psnR n.toNat

/-! ### Targets (R331, R132) -/

/-- Checks a branch target: a multiple of 8, in space 0x0. -/
def targetM (t : Word) : M Unit := do
  stopIf (t.toNat % 8 != 0) (.trap cALIGN t.toNat 0)
  stopIf (spaceOf t.toNat != 0) (.trap cADDR t.toNat 0)

/-- The offset of a PC-relative target, in words. -/
def offVal : Imm → Int
  | .i20 v => sextN v.toNat 20
  | .i48 v => sextN v.toNat 48

/-- A PC-relative target from the unit's address. -/
def relTarget (pc : Word) (off : Imm) : Word := pc + BitVec.ofInt 64 (8 * offVal off)

/-! ### The token stack (R315, R316) -/

/-- The counter at which a popped entry resumes. -/
def Token.resume (k : Token) : Word := BitVec.ofNat 64 (8 * k.target.toNat + if k.kind = 3 then 0 else 8)

/-- TARGET of a counter. -/
def tokTarget (pc : Word) : BitVec 54 := pc.extractLsb' 3 54

/-- Pops an entry, discarding those with MASK 0. -/
def popTok : List Token → Option (Token × List Token)
  | [] => none
  | k :: ks => if k.mask = 0 then popTok ks else some (k, ks)

/-- A slice after a pop, if an entry is left. -/
def Slice.pop (c : Slice) : Option Slice :=
  (popTok c.stack).map fun r => { c with pc := r.1.resume, active := r.1.mask, stack := r.2 }

/-- A slice whose active mask may have become empty: it pops; none for TOK_OVF (R316). -/
def Slice.settle (c : Slice) : Option Slice := if c.active = 0 ∧ c.live ≠ 0 then c.pop else some c

/-- Destinations of a slice's active lanes in ascending order of their lowest lane, each with its lanes. -/
def destsOf (active : BitVec 4) (dest : Nat → Word) : List Nat → List (Word × BitVec 4)
  | [] => []
  | j :: js =>
    let rest := destsOf active dest js
    if active.getLsbD j then
      let m := (rest.find? fun p => p.1 == dest j).elim 0 fun p => p.2
      (dest j, m ||| BitVec.ofNat 4 (2 ^ j)) :: rest.filter fun p => p.1 != dest j
    else rest

/-- A slice's branch: `take` are its taking lanes and `tgt` their targets; the fall-through goes first unless every active lane takes;
none for TOK_OVF (R316, R332, R333). -/
def Slice.branch (c : Slice) (take : BitVec 4) (tgt : Nat → Word) (fall : Word) : Option Slice :=
  let ds := destsOf c.active (fun j => if take.getLsbD j then tgt j else fall) [0, 1, 2, 3]
  let first := if take = c.active then (ds.head?.elim fall fun p => p.1) else fall
  let rest := ds.filter fun p => p.1 != first
  if !rest.isEmpty && decide (16 < c.stack.length + rest.length) then none
  else some { c with
    pc := first
    active := if rest.isEmpty then c.active else (ds.find? fun p => p.1 == first).elim 0 fun p => p.2
    stack := (rest.map fun p => ⟨3, p.2, tokTarget p.1⟩) ++ c.stack
    wait := .none }

/-- The bits of a slice in a lane mask. -/
def sliceBits (m : W32) (k : Nat) : BitVec 4 := m.extractLsb' (4 * k) 4

/-- Applies a partial change to every slice of the current group: TOK_OVF if one is refused, with nothing changed. -/
def onSlices (f : Nat → Slice → Option Slice) : M Unit := do
  let s ← getS
  let g := s.curGrp
  stopIf (s.cur.slices.zipIdx.any fun x => x.1.inGrp g && (f x.2 x.1).isNone) (.trap cTOK 0 0)
  modS fun s => s.onCur fun t => t.onGrp g fun k c => (f k c).getD c

/-- Branches the current group (R316). -/
def branchM (take : W32) (tgt : Nat → Word) (fall : Word) : M Unit :=
  onSlices fun k c => c.branch (sliceBits take k) (fun j => tgt (4 * k + j)) fall

/-! ### Branches -/

/-- `nop` (R153). -/
def execNop (g : Gd) (s : State) : Out := .next (s.unitSeq 8 true g fun _ => pure ())

/-- `bra` (R332). -/
def execBra (g : Gd) (ck : BitVec 2) (sa : BitVec 10) (off : Imm) (s : State) : Out :=
  let pc := s.cur.pcOf s.curGrp
  let fall := pc + BitVec.ofNat 64 (immLen off)
  let t := relTarget pc off
  .next (s.unit (immLen off) false g fun act => do
    stopIf (ck != 0 && act != 0 && rPois s sa) (.park 0)
    let take := if ck = 1 ∧ rVal s sa = 0 then 0 else if ck = 2 ∧ rVal s sa ≠ 0 then 0 else act
    if take != 0 then targetM t
    branchM take (fun _ => t) fall
    pure .set)

/-- `bri` (R333). -/
def execBri (g : Gd) (uni : Bool) (sb : BitVec 10) (s : State) : Out :=
  let fall := s.cur.pcOf s.curGrp + 8
  let one := uni || s.cur.arm
  let n := sb.toNat
  let tgt := fun l => if one then rVal s sb else (s.cur.regs.rdV (n + 1) l ++ s.cur.regs.rdV n l : BitVec (32 + 32))
  .next (s.unit 8 false g fun act => do
    stopIf (act != 0 && if one then rPois s sb else (s.cur.regs.tag n == tPSN || s.cur.regs.tag (n + 1) == tPSN)) (.park 0)
    eachM (fun l => stopIf ((tgt l).toNat % 8 != 0) (.trap cALIGN (tgt l).toNat 0)) (lanesOf act)
    eachM (fun l => stopIf (spaceOf (tgt l).toNat != 0) (.trap cADDR (tgt l).toNat 0)) (lanesOf act)
    branchM act tgt fall
    pure .set)

/-- Sends the current group to a counter. -/
def jumpM (t : Word) : M Unit := modS fun s => s.onCur fun th => th.onGrp s.curGrp fun _ c => { c with pc := t, wait := .none }

/-- `call` (R334). -/
def execCall (dst : BitVec 10) (sb : Src) (s : State) : Out :=
  let pc := s.cur.pcOf s.curGrp
  let t := match sb with
    | .imm v => relTarget pc (.i20 v)
    | .wide v => relTarget pc (.i48 v)
    | sb => BitVec.ofNat 64 (ctlVal s sb)
  .next (s.unit (srcLen sb) false noGd fun act => do
    if act = 0 then pure .seq
    else
      stopIf (ctlPois s sb) (.park 0)
      targetM t
      setR dst (pc + BitVec.ofNat 64 (srcLen sb))
      jumpM t
      pure .set)

/-- `ret` (R334). -/
def execRet (sa : BitVec 10) (s : State) : Out :=
  .next (s.unit 8 false noGd fun act => do
    if act = 0 then pure .seq
    else
      stopIf (rPois s sa) (.park 0)
      targetM (rVal s sa)
      jumpM (rVal s sa)
      pure .set)

/-! ### exit (R316, R320, R335) -/

/-- A slice whose lanes `m` end: they leave the active mask, every entry and the live lanes. -/
def Slice.quit (c : Slice) (m : BitVec 4) (fall : Word) : Option Slice :=
  let c : Slice := { c with
    pc := fall
    wait := .none
    active := c.active &&& ~~~m
    live := c.live &&& ~~~m
    stack := c.stack.map fun k => { k with mask := k.mask &&& ~~~m } }
  c.settle

/-- Whether every live slice waits at `regang`. -/
def Thread.allAtRegang (t : Thread) : Bool := t.slices.all fun c => c.live == 0 || c.wait == .regang

/-- Forms the groups that pass `regang` once every live slice has arrived (R317). -/
def Thread.rejoin (t : Thread) : Thread :=
  if t.allAtRegang then
    { t with slices := t.slices.map fun c => if c.live = 0 then c else
        { c with grp := first c t.slices 0, pc := c.pc + 8, wait := t.doneWait } }
  else t
where
  /-- The first live slice with the same counter. -/
  first (c : Slice) : List Slice → Nat → Nat
    | [], k => k
    | x :: xs, k => if x.live != 0 && x.pc == c.pc then k else first c xs (k + 1)

/-- Ends lanes of the current thread. -/
def exitLanes (m : W32) (fall : Word) : M Unit := do
  onSlices fun k c => c.quit (sliceBits m k) fall
  -- a thread that is being saved keeps its memberships (R328)
  modS fun s => (if s.cur.saved then s else s.leaveAll s.cur.id m).onCur fun t =>
    if t.slices.any fun c => c.live != 0 then t.rejoin else t

/-- `exit` (R335); the thread's end is a later step, THREAD_END. -/
def execExit (g : Gd) (s : State) : Out :=
  let fall := s.cur.pcOf s.curGrp + 8
  .next (s.unit 8 false g fun act => do
    if act = 0 then pure .seq
    else
      exitLanes act fall
      pure .set)

/-! ### mark, merge, brk, cont (R336) -/

/-- `mark` (R336). -/
def execMark (kind : BitVec 2) (off : Imm) (s : State) : Out :=
  let pc := s.cur.pcOf s.curGrp
  let t := relTarget pc off
  .next (s.unitSeq (immLen off) false noGd fun _ => do
    targetM t
    onSlices fun _ c => if 16 ≤ c.stack.length then none else some { c with stack := ⟨kind, c.active, tokTarget t⟩ :: c.stack })

/-- `merge` (R336). -/
def execMerge (s : State) : Out :=
  .next (s.unit 8 false noGd fun _ => do
    onSlices fun _ c => c.pop
    modS fun s => s.onCur fun t => t.onGrp s.curGrp fun _ c => { c with wait := .none }
    pure .set)

/-- Removes lanes from the entries above the nearest one of a kind; none where no entry has the kind (R316). -/
def dropAbove (kind : BitVec 2) (m : BitVec 4) : List Token → Option (List Token)
  | [] => none
  | k :: ks => if k.kind = kind then some (k :: ks)
    else (dropAbove kind m ks).map fun r => { k with mask := k.mask &&& ~~~m } :: r

/-- A slice's `brk` or `cont`. -/
def Slice.breakTo (c : Slice) (kind : BitVec 2) (m : BitVec 4) (fall : Word) : Option Slice :=
  match dropAbove kind m c.stack with
  | none => none
  | some st => Slice.settle { c with pc := fall, wait := .none, active := c.active &&& ~~~m, stack := st }

/-- `brk` and `cont` by the kind that they look for. -/
def runBreak (kind : BitVec 2) (g : Gd) (s : State) : State :=
  let fall := s.cur.pcOf s.curGrp + 8
  s.unit 8 false g fun act => do
    if act = 0 then pure .seq
    else
      onSlices fun k c => c.breakTo kind (sliceBits act k) fall
      pure .set

/-- `brk` (R336). -/
def execBrk (g : Gd) (s : State) : Out := .next (runBreak 1 g s)

/-- `cont` (R336). -/
def execCont (g : Gd) (s : State) : Out := .next (runBreak 2 g s)

/-! ### Groups and cohorts -/

/-- `regang` (R317, R337): the group waits until every live slice has arrived. -/
def execRegang (s : State) : Out :=
  .next (s.unit 8 false noGd fun _ => do
    modS fun s => s.onCur fun t => t.onGrp s.curGrp fun _ c => { c with wait := .regang }
    let s ← getS
    if s.cur.allAtRegang then
      modS fun s => s.onCur fun t => { t.rejoin with slices := t.rejoin.slices.map fun c => { c with wait := .none } }
      pure .set
    else stop .waits)

/-- A key or handle source of a lane, as 32 bits (R338). -/
def laneKey (s : State) (sb : Src) (l : Nat) : W32 :=
  match sb with
  | .reg n => if s.cur.arm then (rVal s n).setWidth 32 else s.cur.regs.rdV n.toNat l
  | sb => BitVec.ofNat 32 (ctlVal s sb)

/-- Whether a key or handle source is poisoned. -/
def keyPois (s : State) (sb : Src) : Bool :=
  match sb with
  | .reg n => if s.cur.arm then rPois s n else s.cur.regs.tag n.toNat == tPSN
  | sb => ctlPois s sb

/-- The strict check of a vector key or handle: I32 or NIL. -/
def keyTagBad (s : State) (sb : Src) : Bool :=
  match sb with
  | .reg n => s.cur.ctl.tagchk && !orNil tI32 (s.cur.regs.tag n.toNat)
  | _ => false

/-- Joins lanes one at a time, collecting their results. -/
def joinAll (s : State) (key : Nat → W32) : List Nat → State × List (Nat × W32)
  | [] => (s, [])
  | l :: ls =>
    let r := s.joinLane s.cur.id l (key l)
    let q := joinAll r.1 key ls
    (q.1, (l, r.2) :: q.2)

/-- `join` (R320, R338). -/
def execJoin (g : Gd) (dst : BitVec 10) (sb : Src) (s : State) : Out :=
  .next (s.unitSeq (srcLen sb) false g fun act => do
    if keyPois s sb then modS fun s => s.onRegs fun r => r.psnV dst.toNat act
    else
      stopIf (keyTagBad s sb) (.trap cFMT 0 0)
      let rs ← liftS fun t => joinAll t (laneKey s sb) (lanesOf act)
      modS fun s => s.onCur fun t => { t with regs := t.regs.wrV t.exist dst.toNat act tI32 fun l => assocD 0 rs l })

/-- `leave` (R320, R338). -/
def execLeave (g : Gd) (sb : Src) (s : State) : Out :=
  .next (s.unitSeq (srcLen sb) false g fun act => do
    if keyPois s sb then pure ()
    else
      stopIf (keyTagBad s sb) (.trap cFMT 0 0)
      modS fun t => (lanesOf act).foldl (fun t l => t.leaveLane t.cur.id l (laneKey s sb l).toNat) t)

/-- `bar` (R339): the acting members arrive and the group waits; the arrival that completes the phase releases every group. -/
def execBar (g : Gd) (dst : BitVec 10) (sb : Src) (red : Bool) (rop : BitVec 3) (rty : BitVec 2) (sc : BitVec 10) (s : State) : Out :=
  let len := srcLen sb
  .next (s.unit len false g fun act => do
    if act = 0 then pure .seq
    else if ctlPois s sb || (red && s.cur.regs.tag sc.toNat == tPSN) then
      if red then modS fun s => s.onRegs fun r => r.psnV dst.toNat act
      pure .seq
    else
      stopIf (red && s.cur.ctl.tagchk && s.cur.regs.tag sc.toNat != redTag rty) (.trap cFMT 0 0)
      let h := ctlVal s sb % 2 ^ 32
      match s.cohort? s.cur h with
      | none => pure .seq
      | some c =>
        let mine := maskOf fun l => laneIn act l && c.members.contains (s.cur.id, l)
        let lateM := maskOf fun l => laneIn mine l && c.late.contains (s.cur.id, l)
        if mine = 0 then pure .seq
        else
          let m := if lateM = mine then mine else mine &&& ~~~lateM
          let w : BarWait := ⟨s.cur.id, m, s.cur.gslices s.curGrp, red, rop, rty, dst,
            (lanesOf m).map fun l => s.cur.regs.rdV sc.toNat l, len, decide (lateM = mine)⟩
          modS fun s => (s.onCur fun t => t.onGrp s.curGrp fun _ x => { x with wait := .bar h }).cohortSet { c with waits := c.waits ++ [w] }
          let s' ← getS
          if s'.cur.slices.any fun x => x.inGrp s'.curGrp && x.wait == .bar h then stop .waits
          else
            modS fun s => s.onCur fun t => t.onGrp s.curGrp fun _ x => { x with wait := .none }
            pure .set)

/-- `elect` (R340). -/
def execElect (g : Gd) (dst : BitVec 10) (s : State) : Out :=
  .next (s.unitSeq 8 false g fun act =>
    modS fun s => s.onCur fun t => { t with regs := t.regs.wrP t.exist (dst.toNat % 16) act fun l => l == lowLane act })

/-! ### trap (R341) -/

/-- The zero-extended immediate. -/
def immRaw : Imm → Nat
  | .i20 v => v.toNat
  | .i48 v => v.toNat

/-- `trap.user` (R341). -/
def execTrapUser (g : Gd) (imm : Imm) (s : State) : Out :=
  .next (s.unitSeq (immLen imm) false g fun _ => trap 0x0015 (immRaw imm))

/-- `trap.bkpt` (R341). -/
def execTrapBkpt (g : Gd) (imm : Imm) (s : State) : Out :=
  .next (s.unitSeq (immLen imm) false g fun _ => trap 0x0011 (immRaw imm))

end Sys2Proof.Machine
end

