-- ==== Sys2Proof/Machine/Niches.lean ====
section
/-! DEFINITION. Niche instructions, opcodes 0x18 to 0x1D (R324 to R328, R354 to R358), and the order and patina rules of niches
(R287, R288). -/

namespace Sys2Proof.Machine

/-- PERM, for an instruction reserved to supervisor mode (R330). -/
def superOnly : M Unit := do
  let s ← getS
  stopIf (!s.cur.super) (.trap cPERM 0 0)

/-- Niche `n` of the current thread's cluster. -/
def State.myNiche (s : State) (n : Nat) : Niche := s.niche s.cur.loc.die s.cur.loc.cl n

/-- Whether a task still has a thread to save: it is pre-empted, and restored, whole (R328, R405). -/
def State.saving (s : State) (h : BitVec 32) : Bool := s.threads.any fun x => x.task == h && (x.preempt || (x.saved && !x.restoring))

/-- From the delivery of PREEMPT to a task on, none of its niche operations takes effect but `hsr` and `hsw` (R405). -/
def State.nicheOff (s : State) : Bool := s.saving s.cur.task

/-- The consumed bit of a thread (R325, R358). -/
def Thread.consumedBit (t : Thread) : Nat := if t.arm then 4096 else t.loc.core * 1024 + t.loc.part * 32 + t.loc.slot

/-! ### GATHER arithmetic (R327, R356) -/

/-- The width of a GTY. -/
def gtyW (gty : BitVec 3) : Nat := if gty = 2 ∨ gty = 3 then 64 else 32

/-- Whether a GTY is signed. -/
def gtyS (gty : BitVec 3) : Bool := gty == 0 || gty == 2

/-- The identity of an operation and type. -/
def gatherIdent (gop gty : BitVec 3) : Word :=
  if gty = 4 then (redIdent gop 2).setWidth 64
  else
    let w := gtyW gty
    match gop.toNat with
    | 1 => BitVec.ofNat 64 (if gtyS gty then 2 ^ (w - 1) - 1 else 2 ^ w - 1)
    | 2 => BitVec.ofNat 64 (if gtyS gty then 2 ^ (w - 1) else 0)
    | 3 => BitVec.ofNat 64 (2 ^ w - 1)
    | _ => 0

/-- Combines two values; FP32 addition rounds under RNE. -/
def gatherComb (gop gty : BitVec 3) (a b : Word) : Word × Flags :=
  if gty = 4 then
    let x := a.setWidth 32
    let y := b.setWidth 32
    let r := if gop = 0 then addF 0 24 x y else minmaxF (gop == 2) x y
    (r.1.setWidth 64, r.2)
  else
    let w := gtyW gty
    let x := a.toNat % 2 ^ w
    let y := b.toNat % 2 ^ w
    let lt := decide (readI (gtyS gty) x w < readI (gtyS gty) y w)
    (BitVec.ofNat 64 (match gop.toNat with
      | 0 => (x + y) % 2 ^ w
      | 1 => if lt then x else y
      | 2 => if lt then y else x
      | 3 => x &&& y
      | 4 => x ||| y
      | _ => x ^^^ y), 0)

/-- The lanes' values combined as `redg` combines them. -/
def gatherLanes (gop gty : BitVec 3) (xs : List Word) : Word × Flags :=
  if gty = 4 then
    let r := reduce gop 2 0 (xs.map fun x => x.setWidth 32)
    (r.1.setWidth 64, r.2)
  else match xs with
    | [] => (gatherIdent gop gty, 0)
    | x :: rest => (rest.foldl (fun a y => (gatherComb gop gty a y).1) (BitVec.ofNat 64 (x.toNat % 2 ^ gtyW gty)), 0)

/-- A niche armed for `n` contributions (R327). -/
def Niche.arm (x : Niche) (gop gty : BitVec 3) (n : BitVec 8) : Niche :=
  { x with gather := true, gop := gop, gty := gty, decl := n, cnt := n, val := gatherIdent gop gty, full := false, slot := 0, used := 0 }

/-! ### Reading and writing -/

/-- Checks a niche number against the task's count. -/
def nicheNum (n : BitVec 10) : M Unit := do
  let s ← getS
  stopIf (s.nicheBad (n.toNat % 64)) (.trap cNICHE 0 0)

/-- `nw` (R326, R354). -/
def execNw (dst sa : BitVec 10) (sb : Src) (w vs : Bool) (s : State) : Out :=
  let n := dst.toNat % 64
  .next (s.unitSeq (srcLen sb) false noGd fun act => do
    nicheNum dst
    let s ← getS
    let r := s.cur.regs
    stopIf ((if vs then r.tag sa.toNat == tPSN || (w && r.tag (sa.toNat + 1) == tPSN) else rPois s sa) || ctlPois s sb) (.park 0)
    let x := s.myNiche n
    if s.nicheOff then pure ()
    else
      stopIf x.gather (.trap cNICHE 0 0)
      let me := (s.cur.id, s.curGrp)
      if x.full || (!x.writers.isEmpty && x.writers.head? != some me) then
        modS fun s => if x.writers.contains me then s else s.setNiche { x with writers := x.writers ++ [me] }
        hold true
      release 1
      let l := lowLane act
      let v := if !vs then rVal s sa
        else if w then (r.rdV (sa.toNat + 1) l ++ r.rdV sa.toNat l : BitVec (32 + 32)) else (r.rdV sa.toNat l).setWidth 64
      let c := BitVec.ofNat 8 (ctlVal s sb)
      modS fun s => s.setNiche { x with
        val := v, cnt := c, full := true, used := 0, slot := s.cur.ctl.patina, writers := x.writers.erase me })

/-- `nr.peek` (R326, R355). -/
def execNrPeek (dst sa : BitVec 10) (s : State) : Out :=
  let n := sa.toNat % 64
  .next (s.unitSeq 8 false noGd fun _ => do
    nicheNum sa
    let s ← getS
    if s.nicheOff then pure ()
    else
      readNiche n
      let s ← getS
      setR dst (s.myNiche n).val)

/-- `nr.take` (R326, R327, R355). -/
def execNrTake (dst sa : BitVec 10) (s : State) : Out :=
  let n := sa.toNat % 64
  .next (s.unitSeq 8 false noGd fun _ => do
    nicheNum sa
    let s ← getS
    if s.nicheOff then pure ()
    else
      let x := s.myNiche n
      let b := s.cur.consumedBit
      stopIf (!x.full || (!x.gather && x.used.getLsbD b)) (.hold true)
      acquire 1 x.slot true
      let y := if x.gather then x.arm x.gop x.gty x.decl
        else { x with
          used := setBit x.used b true
          cnt := if x.cnt = 0 then 0 else x.cnt - 1
          full := x.cnt != 1 }
      modS fun s => s.setNiche y
      setR dst x.val)

/-- `nred` (R327, R356). -/
def execNred (g : Gd) (dst sa : BitVec 10) (gop gty : BitVec 3) (s : State) : Out :=
  let n := dst.toNat % 64
  let wide := gtyW gty == 64
  .next (s.unitSeq 8 false g fun act => do
    nicheNum dst
    let s ← getS
    let r := s.cur.regs
    let a := sa.toNat
    let tags := if wide then [r.tag a, r.tag (a + 1)] else [r.tag a]
    stopIf (tags.contains tPSN) (.park 0)
    let x := s.myNiche n
    if s.nicheOff then pure ()
    else
      stopIf (!x.gather || x.gop != gop || x.gty != gty) (.trap cNICHE 0 0)
      stopIf (s.cur.ctl.tagchk && tags.any fun t => t != if gty = 4 then tFP32 else tI32) (.trap cFMT 0 0)
      stopIf x.full (.hold true)
      release 1
      let vals := (lanesOf act).map fun l =>
        if wide then (r.rdV (a + 1) l ++ r.rdV a l : BitVec (32 + 32)) else (r.rdV a l).setWidth 64
      let u := gatherLanes gop gty vals
      let c := gatherComb gop gty x.val u.1
      modS fun s => (s.setNiche { x with
        val := c.1
        slot := x.slot ||| s.cur.ctl.patina
        cnt := if x.cnt = 0 then 0 else x.cnt - 1
        full := decide (x.cnt.toNat ≤ 1) }).onCur fun t => t.orFlags (u.2 ||| c.2))

/-! ### Mode control (R357) -/

/-- `nctl.gather`. -/
def execNctlGather (dst : BitVec 10) (sb : Src) (gop gty : BitVec 3) (s : State) : Out :=
  let n := dst.toNat % 64
  .next (s.unitSeq (srcLen sb) false noGd fun _ => do
    nicheNum dst
    let s ← getS
    if s.nicheOff || ctlPois s sb then pure ()
    else
      let c := ctlVal s sb
      stopIf (c == 0 || decide (255 < c)) (.trap cNICHE 0 0)
      modS fun s => s.setNiche ((s.myNiche n).arm gop gty (BitVec.ofNat 8 c)))

/-- `nctl.bcast`. -/
def execNctlBcast (dst : BitVec 10) (sb : Src) (s : State) : Out :=
  let n := dst.toNat % 64
  .next (s.unitSeq (srcLen sb) false noGd fun _ => do
    nicheNum dst
    let s ← getS
    if s.nicheOff then pure ()
    else modS fun s => s.setNiche { s.myNiche n with
      gather := false, full := false, cnt := 0, val := 0, gop := 0, gty := 0, decl := 0, slot := 0, used := 0 })

/-- `nctl.empty`. -/
def execNctlEmpty (dst : BitVec 10) (sb : Src) (s : State) : Out :=
  let n := dst.toNat % 64
  .next (s.unitSeq (srcLen sb) false noGd fun _ => do
    nicheNum dst
    let s ← getS
    if s.nicheOff then pure ()
    else
      stopIf (s.myNiche n).gather (.trap cNICHE 0 0)
      modS fun s => s.setNiche { s.myNiche n with full := false, cnt := 0 })

/-! ### hsr and hsw (R358) -/

/-- The control word of a niche (R325). -/
def Niche.ctlWord (x : Niche) : Word :=
  BitVec.ofNat 64 (x.cnt.toNat + x.decl.toNat * 2 ^ 8 + x.gty.toNat * 2 ^ 23 + x.gop.toNat * 2 ^ 26
    + (if x.gather then 2 ^ 30 else 0) + if x.full then 2 ^ 31 else 0)

/-- Whether a part number is assigned. -/
def partOk (p : Nat) : Bool := p ≤ 9 || (decide (16 ≤ p) && decide (p ≤ 80))

/-- The contents of a part. -/
def Niche.part (x : Niche) (p : Nat) : Word :=
  if p = 0 then x.val else if p = 1 then x.ctlWord
  else if p ≤ 9 then x.slot.extractLsb' (64 * (p - 2)) 64
  else (x.used.extractLsb' (64 * (p - 16)) 64)

/-- Replaces 64 bits of a wide value. -/
def put64 {w : Nat} (x : BitVec w) (at_ : Nat) (v : Word) : BitVec w :=
  (x &&& ~~~((BitVec.allOnes 64).setWidth w <<< at_)) ||| (v.setWidth w <<< at_)

/-- Writes a part. -/
def Niche.setPart (x : Niche) (p : Nat) (v : Word) : Niche :=
  if p = 0 then { x with val := v }
  else if p = 1 then { x with
    cnt := v.extractLsb' 0 8, decl := v.extractLsb' 8 8, gty := v.extractLsb' 23 3, gop := v.extractLsb' 26 3
    gather := v.getLsbD 30, full := v.getLsbD 31 }
  else if p ≤ 9 then { x with slot := put64 x.slot (64 * (p - 2)) v }
  else { x with used := put64 x.used (64 * (p - 16)) v }

/-- ILL_OPC. -/
def cOPC : Code := 0x0002

/-- `hsr`: any niche of the cluster, in supervisor mode. -/
def execHsr (dst : BitVec 10) (sb : Src) (s : State) : Out :=
  .next (s.unitSeq (srcLen sb) false noGd fun _ => do
    superOnly
    let s ← getS
    if ctlPois s sb then psnRM dst
    else
      let v := ctlVal s sb
      let p := fieldN v 8 7
      stopIf (!partOk p) (.trap cOPC 0 0)
      setR dst ((s.myNiche (v % 64)).part p))

/-- `hsw`. -/
def execHsw (sa : BitVec 10) (sb : Src) (s : State) : Out :=
  .next (s.unitSeq (srcLen sb) false noGd fun _ => do
    superOnly
    let s ← getS
    if ctlPois s sb || rPois s sa then pure ()
    else
      let v := ctlVal s sb
      let p := fieldN v 8 7
      let x := rVal s sa
      stopIf (!partOk p) (.trap cOPC 0 0)
      stopIf (p == 1 && (decide (5 < fieldN x.toNat 26 3) || decide (4 < fieldN x.toNat 23 3))) (.trap cNICHE 0 0)
      modS fun s => s.setNiche ((s.myNiche (v % 64)).setPart p x))

end Sys2Proof.Machine
end

