-- ==== Sys2Proof/Machine/Supervise.lean ====
section
/-! DEFINITION. What the supervisor starts by a control word: shoot-downs (R41 to R43), page reports (R401), pre-emption requests
(R405), the forced patina (R285), injections (R387). -/

namespace Sys2Proof.Machine

/-! ### Shoot-downs -/

/-- The die of a TLB's number. -/
def keyDie (k : Nat) : Nat := if 10000 ≤ k then (k - 10000) / 16 else k / 64

/-- Sends what a die still holds dirty of untracked lines toward their homes, so that no store made through a swept translation lands later (R42, R43;
log 42). -/
def State.writeBack (s : State) (d : Nat) : State :=
  let s := (s.clines.filter fun x => x.die == d).foldl (fun s x => s.cleanLine d x.cl x.la) s
  (s.l2.filter fun y => y.die == d).foldl (fun s y => s.l2Flush d y.la y.comp) s

/-- Sweeps a die: TLBs, last-page registers, channel translations (R42). -/
def State.sweep (s : State) (d kind spc sz pasid vpn : Nat) : State :=
  let s := s.writeBack d
  let hit := fun (e : TlbE) => e.covered kind spc sz pasid vpn
  let s : State := { s with
    tlb := s.tlb.filter fun p => !(keyDie p.1 == d && hit p.2)
    chans := s.chans.map fun c => if c.die == d then
        { c with src := c.src.filter fun e => !hit e, dst := c.dst.filter fun e => !hit e } else c }
  s.mapThreads fun t => if t.loc.die == d then { t with lpr := t.lpr.filter fun p => !hit p.2 } else t

/-- The request's 28 bits, as the model carries them (log 20). -/
def sdArg (kind spc sz pasid : Nat) : BitVec 46 := BitVec.ofNat 46 (pasid + sz * 2 ^ 21 + spc * 2 ^ 23 + kind * 2 ^ 26)

/-- Starts a shoot-down: the issuing die sweeps, and every other die that answers is asked (R42). -/
def State.shootStart (s : State) (d kind spc sz pasid : Nat) : State :=
  let vpn := fieldN (s.die d).sdaddr.toNat 16 41
  let others := (rangeFrom 0 s.maq.ndies).filter fun x => x != d && !s.dead x
  let tx := s.freshTx d
  let s := (s.sweep d kind spc sz pasid vpn).onDie d fun x => { x with sdBusy := true, sdAcks := others, sdTx := tx, sdAt := x.fclk.toNat }
  others.foldl (fun s x => s.send .shoot { mkMsg x d vpn tx with arg := sdArg kind spc sz pasid }) s.bumpTx

/-- `Shoot` at a die: it sweeps, and owes the acknowledgement (R42). -/
def State.onShoot (s : State) (m : Msg) : State :=
  let a := fieldN m.arg.toNat
  (s.sweep m.dst (a 26 2) (a 23 3) (a 21 2) (a 0 20) m.la).onDie m.dst fun x => { x with sdOwed := x.sdOwed ++ [m] }

/-- Whether a die has an acknowledgement of a shoot-down to send: everything that it held when it swept is performed (R42). -/
def State.shootDue (s : State) (d : Nat) : Bool := !(s.die d).sdOwed.isEmpty && !s.unperformed d

/-- Acknowledges the shoot-downs of other dies that a die has swept. -/
def State.shootAcks (s : State) (d : Nat) : State :=
  (s.die d).sdOwed.foldl (fun s m => s.send .shoota (mkMsg m.src d 0 m.txid)) (s.onDie d fun x => { x with sdOwed := [] })

/-- Whether a die's own shoot-down is over: every die has acknowledged, itself among them (R42). -/
def State.shootOver (s : State) (d : Nat) : Bool := (s.die d).sdBusy && (s.die d).sdAcks.all s.dead && !s.unperformed d

/-- `sdreq` with KIND 0 (R41). -/
def execShootdownPage (die : Nat) (spc : BitVec 3) (sz : BitVec 2) (pasid : BitVec 20) (s : State) : Out :=
  .next (s.shootStart die 0 spc.toNat sz.toNat pasid.toNat)

/-- `sdreq` with KIND 1 (R41). -/
def execShootdownPasidSpace (die : Nat) (spc : BitVec 3) (pasid : BitVec 20) (s : State) : Out :=
  .next (s.shootStart die 1 spc.toNat 0 pasid.toNat)

/-- `sdreq` with KIND 2 (R41). -/
def execShootdownPasid (die : Nat) (pasid : BitVec 20) (s : State) : Out := .next (s.shootStart die 2 0 0 pasid.toNat)

/-- `sdreq` with KIND 3 (R41). -/
def execShootdownAll (die : Nat) (s : State) : Out := .next (s.shootStart die 3 0 0 0)

/-- Every die has acknowledged: BUSY clears (R42). A die's acknowledgement of another's shoot-down leaves here too, once it is due. -/
def execShootdownComplete (die : Nat) (s : State) : Out :=
  let s := if s.shootDue die then s.shootAcks die else s
  .next (if s.shootOver die then s.onDie die fun x => { x with sdBusy := false, sdAcks := [] } else s)

/-- What a write of `sdreq` starts. -/
def State.sdreq (s : State) (d : Nat) (v : Word) : State :=
  let f := fieldN v.toNat
  s.shootStart d (f 26 2) (f 23 3) (f 21 2) (f 0 20)

/-! ### Page reports (R401) -/

/-- The size of the page that a die's tables now map, if V is set. -/
def State.mappedSz (s : State) (d pasid spc vpn : Nat) : Option Nat :=
  let x := s.die d
  let va := vpn * 65536
  if (tableEntry s x.ptb2 2 pasid spc va).isSome then some 2
  else if (tableEntry s x.ptb1 1 pasid spc va).isSome then some 1
  else if (tableEntry s x.ptb0 0 pasid spc va).isSome then some 0
  else none

/-- The pages that something on a die waits for: threads, copies, lists, barrier waits. -/
def State.awaitedPages (s : State) (d : Nat) : List Page :=
  ((s.threads ++ s.savedT).filter fun t => t.loc.die == d).flatMap (fun t => t.missing)
    ++ (s.chans.filter fun c => c.die == d).flatMap (fun c => c.cmds.filterMap fun k => k.stopped)
    ++ (s.queues.filter fun q => q.die == d).filterMap (fun q => q.page)
    ++ (s.tasks.filter fun k => k.die == d).filterMap fun k => k.page

/-- Has the walkers of each die walk again for what waits there for a page of a context and space: the dies whose voter let the walk out (R383, R385,
R401; log 43). -/
def State.walkAgain (s : State) (spc : BitVec 3) (pasid : BitVec 20) : State × List Nat :=
  (rangeFrom 0 8).foldl (fun (r : State × List Nat) d =>
    if (s.awaitedPages d).any fun p => p.pasid == pasid && p.spc == spc then
      let q := r.1.output d 2
      (q.1, if q.2 then r.2 ++ [d] else r.2)
    else r) (s, [])

/-- Whether a reported page is what a waiter on a die waits for, and is now present. -/
def State.arrived (s : State) (dies : List Nat) (d : Nat) (spc : BitVec 3) (pasid : BitVec 20) (vpn : BitVec 41) (p : Page) : Bool :=
  p.pasid == pasid && p.spc == spc && dies.contains d &&
    match s.mappedSz d pasid.toNat spc.toNat p.vpn.toNat with
    | some sz => p.vpn.toNat / 2 ^ (pageBits sz - 16) == vpn.toNat / 2 ^ (pageBits sz - 16)
    | none => false

/-- A thread drops the pages that have arrived, and restarts if it was parked on them (R401, R402). -/
def Thread.dropPages (t : Thread) (here : Page → Bool) : Thread :=
  if t.missing.any here then ({ t with missing := t.missing.filter fun p => !here p } : Thread).restart else t

/-- A report reaches every die: threads, copies, lists and barrier waits drop the page (R401). -/
def State.pageReady (s : State) (spc : BitVec 3) (pasid : BitVec 20) (vpn : BitVec 41) : State :=
  let (s, dies) := s.walkAgain spc pasid
  let here := fun d p => s.arrived dies d spc pasid vpn p
  let opt := fun d (p : Option Page) => p.filter fun q => !here d q
  let s' := s.mapThreads fun t => t.dropPages (here t.loc.die)
  { s' with
    savedT := s'.savedT.map fun t => { t with missing := t.missing.filter fun p => !here t.loc.die p }
    chans := s'.chans.map fun c => { c with cmds := c.cmds.map fun k => { k with stopped := opt c.die k.stopped } }
    queues := s'.queues.map fun q => { q with page := opt q.die q.page }
    tasks := s'.tasks.map fun k => { k with page := opt k.die k.page } }

/-- PAGE_READY_REPORT (R401). -/
def execPageReadyReport (_ : Nat) (spc : BitVec 3) (pasid : BitVec 20) (vpn : BitVec 41) (s : State) : Out :=
  .next (s.pageReady spc pasid vpn)

/-! ### Pre-emption requests, the patina, injections -/

/-- Marks every resident thread of a task to take PREEMPT (R405). -/
def State.preempt (s : State) (h : BitVec 32) : State := s.mapThreads fun t => if t.task == h then { t with preempt := true } else t

/-- PREEMPT_REQUEST (R405). -/
def execPreemptRequest (task : BitVec 32) (s : State) : Out := .next (s.preempt task)

/-- PATINA_FORCE (R285). -/
def execPatinaForce (t : Nat) (s : State) : Out :=
  .next (s.modThread t fun x => { x with ctl := { x.ctl with patina := patFull } })

/-- VOTE_INJECT (R387). -/
def execVoteInject (die mach copy : Nat) (s : State) : Out := .next (if mach < 3 ∧ copy < 3 then s.inject die mach copy else s)

/-- VOTER_OUTPUT (R383 to R385): the three forms of one output of a machine, with what waits to be injected. -/
def execVoterOutput (die mach : Nat) (a b c : Word) (s : State) : Out :=
  let x := (s.die die).mach mach
  let f := fun k => (if k = 0 then a else if k = 1 then b else c) ^^^ x.flips k
  .next ((s.spend die mach).vote die mach f x.badCopies).1

/-- RESYNC_END (R384). -/
def execResyncEnd (die mach : Nat) (s : State) : Out := .next (s.resyncDone die mach)

/-- INJECT_DISCARD (R387): an injection that no output came for in 2^20 fabric clocks is gone. -/
def execInjectDiscard (die mach : Nat) (s : State) : Out :=
  .next (s.onDie die fun x => x.onMach mach fun y => { y with inj := y.inj.filter fun p => decide (x.fclk.toNat < p.2 + 2 ^ 20) })

end Sys2Proof.Machine
end

