-- ==== Sys2Proof/Machine/System.lean ====
section
/-! DEFINITION. Service calls, watching, sleeping, pausing and control words: opcodes 0x11 and 0x13 to 0x17 (R343, R344, R348 to
R353, R393). -/

namespace Sys2Proof.Machine

/-! ### svc (R343, R344) -/

/-- Size of the service ring. -/
def svcSize (w : Word) : Nat := 2 ^ min 12 (max 4 (w.toNat % 16))

/-- Bytes 8 to 511 of a ring entry, from bit 64 up. -/
def svcEntry (t : Thread) (act : W32) (code reply : Nat) (req : Nat → Nat) : Nat :=
  t.pasid.toNat * 2 ^ 64 + code % 2 ^ 32 * 2 ^ 96 + act.toNat * 2 ^ 128 + t.gangid.toNat * 2 ^ 192 + reply * 2 ^ 256
    + t.ctl.patina.toNat * 2 ^ 512
    + (lanesOf act).foldl (fun a l => a + req l % 2 ^ 64 * 2 ^ (1024 + 64 * l)) 0

/-- `svc`: an entry of the die's ring, or the status of a full ring. -/
def execSvc (g : Gd) (dst sa : BitVec 10) (sb : Src) (sc : BitVec 10) (s : State) : Out :=
  .next (s.unitSeq (srcLen sb) false g fun act => do
    let s ← getS
    let r := s.cur.regs
    let arm := s.cur.arm
    let a := sa.toNat
    stopIf ((if arm then rPois s sa else r.tag a == tPSN || r.tag (a + 1) == tPSN) || ctlPois s sb || rPois s sc) (.park 0)
    release 2
    let s ← getS
    let d := s.cur.loc.die
    let w := (s.die d).svcring
    let base := fieldN w.toNat 12 40 * 4096
    let rsv := s.physRead base 8
    let used := (rsv + 2 ^ 64 - s.physRead (base + 64) 8) % 2 ^ 64
    if base == 0 || decide (svcSize w ≤ used) then setR dst (BitVec.allOnes 64)
    else
      let req := fun l => if arm then (rVal s sa).toNat else (r.rdV a l).toNat + (r.rdV (a + 1) l).toNat * 2 ^ 32
      let e := svcEntry s.cur act (ctlVal s sb) (rVal s sc).toNat req
      let at_ := base + 128 + 512 * (rsv % svcSize w)
      modS fun s => (s.physWrite base (bytesN ((rsv + 1) % 2 ^ 64) 8)).physWrite (at_ + 8) (bytesN (e / 2 ^ 64) 504)
      modS fun s => s.physWrite at_ (bytesN ((rsv + 1) % 2 ^ 64) 8)
      clearPatina
      setR dst (BitVec.ofNat 64 rsv))

/-! ### Watching, sleeping, pausing (R348 to R350) -/

/-- `mwatch`: arms the watch once the cluster holds a readable copy of the line. -/
def execMwatch (sa : BitVec 10) (s : State) : Out :=
  .next (s.unitSeq 8 false noGd fun _ => do
    let s ← getS
    if rPois s sa then pure ()
    else
      let ptr := (rVal s sa).toNat / 64 * 64
      watchTrap false [(0, ptr, 64)]
      let (ps, miss) ← resolve .load 0 0 1 [(0, ptr, 64)] (fun sp => sp ≤ 1)
      if !miss.isEmpty then parkPages 1 2 (miss.map fun m => m.2.1)
      stopIf (ps.any fun p => p.sp == 0 && !p.trk) (.trap cPERM ptr 0)
      eachM (fun p => do
        match ← readPc p with
        | some _ => modS fun s => s.onCur fun t => { t with watch := some ⟨p.pa / 64, false⟩ }
        | none => trap cLOST) ps)

/-- Advances the current group past a unit that has issued and now waits. -/
def State.issuedWait (s : State) (len : Nat) (w : Wait) : State :=
  { (s.advance len).onCur (fun t => { t.onGrp s.curGrp (fun _ c => { c with wait := w }) with
      noWatch := false, apDone := t.apLeft s.curGrp }) with
    issued := s.issued + 1 }

/-- `msleep`: EVENT and NOWATCH return at once, else the thread sleeps. -/
def execMsleep (dst : BitVec 10) (sb : Src) (s : State) : Out :=
  let len := srcLen sb
  .next (s.unitSeq len false noGd fun _ => do
    let s ← getS
    if ctlPois s sb then psnRM dst
    else
      match s.cur.watch with
      | none => setR dst 3
      | some w =>
        if w.event then
          setR dst 0
          modS fun s => s.onCur fun t => { t with watch := none }
        else
          let n := ctlVal s sb
          let till := if n = 0 then 0 else (s.die s.cur.loc.die).aclk.toNat + n
          modS fun s => s.onCur fun t => { t.onGrp s.curGrp (fun _ c => { c with wait := .sleep }) with sleep := some ⟨dst, till, len⟩ }
          stop .waits)

/-- `pause`. -/
def execPause (sb : Src) (s : State) : Out :=
  let len := srcLen sb
  .next (s.unitSeq len false noGd fun _ => do
    let s ← getS
    let n := match sb with
      | .reg _ => ctlVal s sb % 65536
      | .sreg _ => ctlVal s sb % 65536
      | _ => ctlVal s sb
    if ctlPois s sb || n == 0 then pure ()
    else
      modS fun s => s.issuedWait len (.pause ((s.die s.cur.loc.die).aclk.toNat + n))
      stop .waits)

/-! ### Control words (R351 to R353, R393) -/

/-- A voted machine's status byte (R386). -/
def Mach.byte (x : Mach) : Nat := x.copy.toNat * 4 + x.st.toNat

/-- Words that a thread outside supervisor mode may write. -/
def csrUserW (n : Nat) : Bool := n ≤ 5

/-- Words that it may read. -/
def csrUserR (n : Nat) : Bool := n ≤ 0x23 && n != 0x1A || n == 0x3D

/-- Words that no one may write. -/
def csrNoW (n : Nat) : Bool := [0x12, 0x13, 0x20, 0x21, 0x22, 0x23].contains n

/-- The value of a control word. -/
def csrRead (s : State) (n : Nat) : Word :=
  let t := s.cur
  let d := s.die t.loc.die
  let x := s.ctx t.pasid
  let c := s.tcl t
  match n with
  | 0x00 => t.ctl.rmode.setWidth 64
  | 0x01 => t.ctl.fflags.setWidth 64
  | 0x02 => if t.ctl.tagchk then 1 else 0
  | 0x03 => t.ctl.bpm.setWidth 64
  | 0x04 => BitVec.ofNat 64 (popN t.ctl.patina.toNat 512 + if patSat t.ctl.patina then 1024 else 0)
  | 0x05 => t.ctl.mxerr.setWidth 64
  | 0x10 => t.gangid
  | 0x11 => t.pasid.setWidth 64
  | 0x12 => BitVec.ofNat 64 (t.csaIdx * 2 ^ 37 % 2 ^ 57)
  | 0x13 => t.ctl.prvSize.setWidth 64
  | 0x18 => x.tmplBase
  | 0x19 => x.cbarBase
  | 0x1A => x.csaBase
  | 0x1B => x.vltBase.setWidth 64
  | 0x1C => x.vltLimit.setWidth 64
  | 0x20 => d.aclk
  | 0x21 => d.fclk
  | 0x22 => BitVec.ofNat 64 (c.spk.toNat + if c.drain then 256 else 0)
  | 0x23 => c.pos.setWidth 64
  | 0x30 => d.ptb0
  | 0x31 => d.ptb1
  | 0x32 => d.ptb2
  | 0x33 => d.sdaddr
  | 0x34 => if d.sdBusy then BitVec.ofNat 64 (2 ^ 63) else 0
  | 0x35 => d.lrbase
  | 0x36 => d.svcring
  | 0x37 => BitVec.ofNat 64 ((d.mach 0).byte + (d.mach 1).byte * 2 ^ 8 + (d.mach 2).byte * 2 ^ 16 + d.dcnt.toNat * 2 ^ 32)
  | 0x38 => d.trapvec
  | 0x39 => d.pfring
  | 0x3C => BitVec.ofNat 64 (s.csaAddr t)
  | 0x3D => t.ctl.dbgctl
  | 0x3E => d.monring
  | 0x3F => BitVec.ofNat 64 ((d.evcnt.get d.evcode.toNat).toNat + d.evcode.toNat * 2 ^ 32)
  | _ => 0

/-- Keeps the bits [hi:lo] and [n-1:0] of a word: the writable fields of a base word. -/
def baseMask (hi lo n : Nat) (v : Word) : Word := BitVec.ofNat 64 (fieldN v.toNat lo (hi + 1 - lo) * 2 ^ lo + v.toNat % 2 ^ n)

/-- Writes the `pfring` records held back, in order, while the ring has space (R393). -/
def State.drainPf (s : State) (d : Nat) : List PfRec → State
  | [] => s.onDie d fun x => { x with heldPf := [] }
  | r :: rs =>
    match s.ringPut (s.die d).pfring (r.page.vpn.toNat * 65536 + r.page.pasid.toNat * 2 ^ 64 + r.page.spc.toNat * 2 ^ 96
        + r.src.toNat * 2 ^ 104 + r.who.toNat * 2 ^ 128 + r.fclk.toNat * 2 ^ 192) with
    | some s => s.drainPf d rs
    | none => s.onDie d fun x => { x with heldPf := r :: rs }

/-- Changes the control words of the current thread. -/
def onCtl (f : Ctl → Ctl) : M Unit := modS fun s => s.onCur fun t => { t with ctl := f t.ctl }

/-- Writes a control word's writable fields, and starts what the word starts. -/
def csrWrite (n : Nat) (v : Word) : M Unit := do
  let s ← getS
  let p := s.cur.pasid
  let d := s.cur.loc.die
  let onD := fun (f : Die → Die) => modS fun s => s.onDie d f
  let onC := fun (f : Ctx → Ctx) => modS fun s => s.onCtx p f
  match n with
  | 0x00 => if v.toNat % 8 ≤ 4 then onCtl fun c => { c with rmode := v.setWidth 3 }
  | 0x01 => onCtl fun c => { c with fflags := v.setWidth 5 }
  | 0x02 => onCtl fun c => { c with tagchk := v.getLsbD 0 }
  | 0x03 => onCtl fun c => { c with bpm := v.setWidth 4 }
  | 0x04 => if v.getLsbD 11 then onCtl fun c => { c with patina := patFull }
  | 0x05 => onCtl fun c => { c with mxerr := v.setWidth 18 }
  | 0x18 => onC fun x => { x with tmplBase := baseMask 56 12 4 v }
  | 0x19 => onC fun x => { x with cbarBase := baseMask 56 16 5 v }
  | 0x1A => onC fun x => { x with csaBase := baseMask 56 18 5 v }
  | 0x1B => onC fun x => { x with vltBase := v.setWidth 29 }
  | 0x1C => onC fun x => { x with vltLimit := v.setWidth 29 }
  | 0x30 => onD fun x => { x with ptb0 := baseMask 51 16 6 v }
  | 0x31 => onD fun x => { x with ptb1 := baseMask 51 16 6 v }
  | 0x32 => onD fun x => { x with ptb2 := baseMask 51 16 6 v }
  | 0x33 => onD fun x => { x with sdaddr := baseMask 56 16 0 v }
  | 0x34 =>
    stopIf (s.die d).sdBusy (.hold false)
    release 3
    modS fun s => s.sdreq d v
  | 0x35 => modS fun s =>
      let s := s.onDie d fun x => { x with lrbase := baseMask 51 12 4 v }
      s.drainLoss d (s.die d).heldLoss
  | 0x36 => onD fun x => { x with svcring := baseMask 51 12 4 v }
  | 0x37 =>
    let m := fieldN v.toNat 26 2
    let c := fieldN v.toNat 24 2
    if v.getLsbD 31 && m != 3 && c != 3 then modS fun s => s.inject d m c
  | 0x38 => onD fun x => { x with trapvec := baseMask 56 3 0 v }
  | 0x39 => modS fun s =>
      let s := s.onDie d fun x => { x with pfring := baseMask 51 12 4 v }
      s.drainPf d (s.die d).heldPf
  | 0x3A =>
    release 3
    modS fun s => s.pageReady (v.extractLsb' 61 3) (v.extractLsb' 41 20) (v.extractLsb' 0 41)
  | 0x3B => modS fun s => s.preempt (v.extractLsb' 0 32)
  | 0x3D => onCtl fun c => { c with dbgctl := baseMask 63 6 0 v }
  | 0x3E => onD fun x => { x with monring := baseMask 51 12 4 v }
  | 0x3F => onD fun x => { x with evcode := v.extractLsb' 32 16 }
  | _ => pure ()

/-- `csrr` (R351); a read of `sdreq` that returns BUSY = 0 acquires at `pkg` over everything (R43, R278). -/
def execCsrr (dst : BitVec 10) (num : Imm) (s : State) : Out :=
  let n := immRaw num % 4096
  .next (s.unitSeq (immLen num) true noGd fun _ => do
    let s ← getS
    stopIf (!s.cur.super && !csrUserR n) (.trap cPERM 0 0)
    let v := csrRead s n
    if n == 0x34 && v == 0 then acquire 3 patFull false
    setR dst v)

/-- `csrw` (R351). -/
def execCsrw (sa : BitVec 10) (num : Imm) (s : State) : Out :=
  let n := immRaw num % 4096
  .next (s.unitSeq (immLen num) false noGd fun _ => do
    let s ← getS
    stopIf (rPois s sa) (.park 0)
    stopIf (csrNoW n || (!s.cur.super && !csrUserW n)) (.trap cPERM 0 0)
    csrWrite n (rVal s sa))

end Sys2Proof.Machine
end

