-- ==== Sys2Proof/Machine/Messages.lean ====
section
/-! DEFINITION. The messages of R299 that the directories do not answer themselves: remote answers, shoot-downs, probes, the declaration of a
failed junction, the census, reports; the timeouts of R263 and R266; requests of a cluster at its slice; one meaning for each message. -/

namespace Sys2Proof.Machine

/-! ### A cluster's requests at its slice (R251) -/

/-- SLICE_RDS. -/
def execSliceRds (die cl la : Nat) (mir : Bool) (s : State) : Out := .next (s.sliceReq .rds die cl la mir)

/-- SLICE_RDX. -/
def execSliceRdx (die cl la : Nat) (mir : Bool) (s : State) : Out := .next (s.sliceReq .rdx die cl la mir)

/-- SLICE_UPG: an `Upg` whose copy was invalidated meanwhile is served as `RdX`. -/
def execSliceUpg (die cl la : Nat) (mir : Bool) (s : State) : Out :=
  .next (s.sliceReq (if (s.cline? die cl la).any fun x => x.kind.moesi?.isSome then .upg else .rdx) die cl la mir)

/-- SLICE_WBD. -/
def execSliceWbd (die cl la : Nat) (s : State) : Out := .next (s.sliceWbd die cl la)

/-- SLICE_EVC. -/
def execSliceEvc (die cl la : Nat) (s : State) : Out := .next (s.sliceEvc die cl la)

/-! ### Messages of the atelier leader (R378, R381) -/

/-- A leader message at a die: a lower EPOCH than the highest seen is discarded with the event (R381). -/
def State.leaderMsg (s : State) (m : Msg) (f : State → State) : State :=
  if msgEpoch m < (s.die m.dst).epochSeen then s.monitor m.dst 5
  else f (s.onDie m.dst fun x => { x with epochSeen := msgEpoch m })

/-- Sends a leader message to every die but those in a list; the leader's own junction takes it at once. -/
def State.tellAll (s : State) (d : Nat) (op : Mop) (arg : BitVec 46) (skip : List Nat) : State :=
  ((rangeFrom 0 s.maq.ndies).filter fun x => !skip.contains x && !s.dead x).foldl (fun s x => s.send op { mkMsg x d 0 0 with arg := arg }) s

/-- Probes a silent junction, once (R263). -/
def State.probeDie (s : State) (d target : Nat) : State :=
  if s.sdir.any fun e => e.die == d && e.la == probeKey target then s
  else s.askOff d (probeKey target) .probe { mkMsg target d 0 0 with arg := mgtArg (s.die d).lease.epoch target 0 }

/-- Ends the wait for a probe's answer. -/
def State.probeEnd (s : State) (d target : Nat) : State :=
  { s with sdir := s.sdir.filter fun e => !(e.die == d && e.la == probeKey target) }

/-- `Probe` (R263): a junction answers with form 1; the leader's wait ends. -/
def State.onProbe (s : State) (m : Msg) : State :=
  if msgForm m = 1 then s.probeEnd m.dst m.src
  else s.leaderMsg m fun s => s.send .probe { mkMsg m.src m.dst 0 m.txid with arg := mgtArg (msgEpoch m) (msgWho m) 1 }

/-! ### The loss of an owner (R266, R268, R269) -/

/-- Writes a dead owner's mirrored bytes home, where the junction still reaches the buddy (R268). -/
def State.takeMirror (s : State) (d la owner : Nat) : Option State :=
  match s.mirrors.find? fun x => x.la == la && x.owner == owner && !s.cut d x.die && !s.dead x.die with
  | some x => some ({ s with mem := putLine s.mem la x.mask x.data }.freeMirrors la none)
  | none => none

/-- Makes a sharer the owner: its copy becomes O (R266). -/
def State.makeOwner (s : State) (d la : Nat) : State :=
  let first := (s.copies d la).head?.map fun x => x.cl
  let s := { s with clines := s.clines.map fun (x : CLine) =>
    if x.die == d && x.la == la && some x.cl == first then match x.kind with
      | .tracked _ mir => { x with kind := .tracked .o mir }
      | _ => x
    else x }
  let s := s.sync d la
  s.setSent { s.sent d la with dp := .o }

/-- Continues what waits for a die that is gone: where it was to supply the data, another die or the home is asked in its place (R266, R268). -/
def State.reAsk (s : State) (d la gone : Nat) (next : Option Nat) : State :=
  let j := s.jent d la
  match j.tx with
  | none => s
  | some t =>
    let acks := t.acks.filter fun x => x != gone && x != goneNum gone && x != leftNum gone && x != laterNum gone
    let t' := { t with acks := acks }
    if acks.length = t.acks.length then s
    else if t.op == .recall || t.sup != some gone || t.acks.contains (goneNum gone) || next == some t.m.req then (s.setJent { j with tx := some t' }).jCheck d la
    else match next with
      | some x =>
        let t' := { t' with acks := (acks.erase x).erase (laterNum x) ++ [x], dirty := t.op == .rds, sup := some x }
        (s.setJent { j with tx := some t' }).snoop (if t.op == .rds then .snpf else .snpfi) j t' x
      | none => (s.setJent { j with tx := some { t' with acks := acks ++ [s.homeAck la], sup := none } }).askHome (if t.op == .rds then .rds else .rdx) d la

/-- The owner of a line is gone: a live sharer becomes owner, the buddy takes over, or the line is LOST (R266, R268, R269). -/
def State.ownerGone (s : State) (d la kind : Nat) : State :=
  let j := s.jent d la
  let gone := j.owner
  let fence := fun (j : JEnt) => { j with fenced := j.fenced.filter (· != gone) ++ [gone] }
  let drop := fun (s : State) => (s.dropCopies gone la none true).sync gone la
  let live := j.holders.filter fun x => x != gone && !s.cut d x && s.holds x la
  match j.st, live with
  | .os, x :: _ =>
    let s := (drop s).makeOwner x la
    (s.setJent (fence { j with owner := x, holders := j.holders.filter (· != gone) })).reAsk d la gone (some x)
  | _, _ => match s.takeMirror d la gone with
    | some s' => ((drop s').setJent (fence (j.leave gone))).reAsk d la gone none
    | none =>
      let mirrored := s.mirrors.any fun x => x.la == la && x.owner == gone
      s.loseLine la (if mirrored then 3 else kind) gone

/-- Whether a transaction awaits a die's answer, or what its `Gone` tells of. -/
def JTx.waitsFor (t : JTx) (d : Nat) : Bool := t.acks.contains d || t.acks.contains (goneNum d) || t.acks.contains (leftNum d)

/-- SNP_OWNER_TIMEOUT (R266): the answer of an owner to a snoop has not come within 2^20 fabric clocks. -/
def execSnpOwnerTimeout (die la : Nat) (s : State) : Out :=
  .next (
    let j := s.jent die la
    match j.tx with
    | some t => if (j.st == .own || j.st == .os) && t.waitsFor j.owner then s.ownerGone die la 1 else s
    | none => s)

/-! ### A junction declared failed (R263, R443) -/

/-- What a die's wait for an answer becomes when the die that was to answer is declared failed: a write or a mirror copy is awaited no longer, a request to
a directory is sent again after the census where its shadow lives, any other is refused (R263, R264, R443). -/
def State.refuseReq (s : State) (gone : Nat) (e : SEnt) : Option SEnt :=
  match e.req with
  | none => some e
  | some q =>
    if q.to_ != gone || q.op == Mop.probe then some e
    else if e.endsOnly || q.op == Mop.mirror then none
    else if e.la < 2 ^ 46 && s.dirDie e.la != gone && !s.dead (s.dirDie e.la) then some e
    else some { e with req := some { q with err := true } }

/-- A message toward a failed die: a write-back on its way to the failed directory goes to the shadow, any other is dropped. -/
def State.redirect (s : State) (gone : Nat) (p : Mop × Msg) : Option (Mop × Msg) :=
  if p.2.dst != gone then some p
  else if (p.1 == .wbd || p.1 == .evc) && !p.2.toSlice && s.dirDie p.2.la != gone then
    some (p.1, { p.2 with dst := s.dirDie p.2.la, at_ := if p.2.at_ = gone then p.2.src else p.2.at_, buf := if p.2.at_ = gone then none else p.2.buf })
  else none

/-- A die that awaits an answer of a failed die awaits it no longer; write-backs toward it are discarded with the event (R444). -/
def State.giveUp (s : State) (d gone : Nat) : State :=
  let lost := s.sdir.countP fun e => e.die == d && e.endsOnly && e.req.any fun q => q.to_ == gone && q.op == Mop.wru
  let gap := s.msgs.filter fun p => (s.redirect gone p).isNone && p.2.at_ != gone
  let s := { s with
    sdir := s.sdir.filterMap fun e => if e.die == d then s.refuseReq gone e else some e
    msgs := s.msgs.filterMap (s.redirect gone) }
  let s := gap.foldl (fun (s : State) p => s.freeBuf p.1 p.2) s
  (rangeFrom 0 lost).foldl (fun s _ => s.monitor d 0x14) s

/-- A directory's transactions that await a failed die: its copies are gone with it; a line that it owned is resolved, and a request that needs it as the
home is refused (R266, R443). -/
def State.giveUpDir (s : State) (d gone : Nat) : List JEnt → State
  | [] => s
  | e :: es =>
    let j := s.jent d e.la
    let j := { j with wq := j.wq.filter fun p => p.2.req != gone }
    let s :=
      if j.st == .lost then s
      else if (j.st == .own || j.st == .os) && j.owner == gone then (s.setJent j).ownerGone d e.la 2
      else if j.holders.contains gone then
        (s.setJent (j.leave gone)).reAsk d e.la gone ((j.holders.filter fun x => x != gone && !s.cut d x && s.holds x e.la).head?)
      else if j.tx.any fun t => t.waitsFor gone then (s.setJent j).jRefuse d e.la
      else s
    s.giveUpDir d gone es

/-- The buckets whose directory die is one die and whose shadow is another. -/
def State.shadowed (s : State) (gone shadow : Nat) : Bool :=
  s.maq.buckets.any fun b => b.toNat % 16 == gone && b.toNat / 16 == shadow

/-- A die is known as failed: its buckets' shadows have a census to take before they serve them (R263, R264). -/
def State.markFailed (s : State) (f : Nat) : State :=
  if (s.die f).failed then s
  else
    let s := s.onDie f fun x => { x with failed := true }
    let live := (rangeFrom 0 s.maq.ndies).filter fun x => !s.dead x
    (live.filter fun d => s.shadowed f d).foldl (fun s d => s.onDie d fun x => { x with census := live }) s

/-- `JFail` (R263): the buckets pass to their shadows, which start the census (R264); requests toward the failed die end. -/
def State.onJfail (s : State) (m : Msg) : State :=
  s.leaderMsg m fun s =>
    let f := msgWho m
    let d := m.dst
    let s := (s.markFailed f).monitor d 0x0D
    let s := s.giveUp d f
    let s := s.giveUpDir d f (s.jdir.filter fun e => e.die == d)
    if s.shadowed f d then
      (s.die d).census.foldl (fun s x => s.send .census { mkMsg x d 0 0 with arg := mgtArg (msgEpoch m) f 0 }) s
    else s

/-- PROBE_FAILURE (R263): the leader declares the junction failed, to every junction. -/
def execProbeFailure (die target : Nat) (s : State) : Out :=
  .next (if (s.die die).lease.leader then (s.probeEnd die target).tellAll die .jfail (mgtArg (s.die die).lease.epoch target 0) [target] else s)

/-- The dies whose answers a transaction awaits. -/
def JTx.silent (t : JTx) : List Nat := (rangeFrom 0 16).filter t.waitsFor

/-- Reports a list of silent dies to the leader. -/
def State.reportSilent (s : State) (d : Nat) (xs : List Nat) : State := xs.foldl (fun s x => s.reportTo d x 0) s

/-- JUNCTION_RESPONSE_TIMEOUT (R263): a message unanswered for 2^21 fabric clocks is reported to the leader: a request of the die, a snoop or a request of
its junction, or a shoot-down. -/
def execJunctionResponseTimeout (die txid : Nat) (s : State) : Out :=
  .next (
    let now := (s.die die).fclk.toNat
    match s.sdir.find? fun e => e.die == die && e.req.any fun q => q.txid == txid with
    | some e => match e.req with
      | some q => (s.setSent { e with req := some { q with sentAt := now } }).reportSilent die [q.to_]
      | none => s
    | none => match s.jdir.find? fun j => j.die == die && j.tx.any fun t => t.txid == txid with
      | some j => match j.tx with
        | some t => (s.setJent { j with tx := some { t with sentAt := now } }).reportSilent die t.silent
        | none => s
      | none =>
        if (s.die die).sdBusy && (s.die die).sdTx == txid then
          (s.onDie die fun x => { x with sdAt := now }).reportSilent die (s.die die).sdAcks
        else s)

/-- `Report`, forms 0, 1 and 7 (R263, R297, R378): the leader probes a silent die that is not declared failed; a port's failure makes it decide which dies
are unreachable; it collects a die's alarm. -/
def State.onLeaderReport (s : State) (m : Msg) : State :=
  let d := m.dst
  let who := msgWho m
  if !(s.die d).lease.leader then s
  else if msgForm m = 0 then (if (s.die who).failed then s else s.probeDie d who)
  else if msgForm m = 7 then s.onDie d fun x => if x.alarms.contains who then x else { x with alarms := x.alarms ++ [who] }
  else
    let cut := (rangeFrom 0 s.maq.ndies).filter fun x => !s.routed d x 7
    cut.foldl (fun s x => s.onDie x fun y => { y with unreach := true }) s

/-! ### The census (R264, R265) -/

/-- Lines of the transferred buckets of which a die's slices hold a tag. -/
def State.censusLines (s : State) (d gone shadow : Nat) : List SEnt :=
  s.sdir.filter fun e => e.die == d && decide (e.la < 2 ^ 46) && e.dp != .i &&
    (let b := (s.maq.buckets.getD (bucketOf e.la) 0).toNat; b % 16 == gone && b / 16 == shadow) && s.home e.la != .host

/-- The code of a permission in a report, as a grant's ARG names it. -/
def Dp.code : Dp → Nat
  | .i => 0 | .s => 1 | .e => 2 | .m => 3 | .o => 4

/-- `Census` (R264): the die reports its permission for every tracked line of the buckets, then that it is done. -/
def State.onCensus (s : State) (m : Msg) : State :=
  s.leaderMsg m fun s =>
    let d := m.dst
    let s := (s.censusLines d (msgWho m) m.src).foldl (fun s e => s.send .report
      { mkMsg m.src d e.la 0 with arg := mgtArg (msgEpoch m) (msgWho m) (2 + e.dp.code), mir := (s.copies d e.la).any fun x =>
          match x.kind with | .tracked _ b => b | _ => false }) s
    s.send .report { mkMsg m.src d 0 0 with arg := mgtArg (msgEpoch m) (msgWho m) 2 }

/-- A census report at the shadow: E or M makes OWN, O makes OS, S alone makes SH. -/
def State.onCensusReport (s : State) (m : Msg) : State :=
  let d := m.dst
  let dp := dpOfArg (msgForm m - 2)
  if dp == .i then s.onDie d fun x => { x with census := x.census.filter (· != m.src) }
  else
    let j := s.jent d m.la
    let j : JEnt := { j with holders := j.holders.filter (· != m.src) ++ [m.src], mir := j.mir || m.mir, seq := (s.die d).jseq }
    let s := s.onDie d fun x => { x with jseq := x.jseq + 1 }
    s.setJent (match dp with
      | .e | .m => { j with st := .own, owner := m.src }
      | .o => { j with st := .os, owner := m.src }
      | _ => { j with st := if j.st == .absent then .sh else j.st })

/-- `Report` at a die. -/
def State.onReport (s : State) (m : Msg) : State := if msgForm m < 2 ∨ msgForm m = 7 then s.onLeaderReport m else s.onCensusReport m

/-- The failed dies whose buckets a shadow has taken. -/
def State.takenFrom (s : State) (d : Nat) : List Nat := (rangeFrom 0 8).filter fun f => (s.die f).failed && s.shadowed f d

/-- The lines that an unreachable die owned in the buckets a shadow has taken, with their entries as the failed junction left them: an
entry it shared is OS with its sharers, one it held alone has no live report (R264, R266). -/
def State.orphans (s : State) (d : Nat) : List JEnt :=
  s.jdir.filter fun j => (s.takenFrom d).contains j.die && (j.st == .own || j.st == .os) && s.dead j.owner && s.dirDie j.la == d

/-- Puts an item in its place in the order of a number. -/
def insertBy {α : Type} (f : α → Nat) (x : α) : List α → List α
  | [] => [x]
  | y :: r => if f x ≤ f y then x :: y :: r else y :: insertBy f x r

/-- The requests that stall for the buckets a shadow has taken, in the order in which they were sent: those that no grant has reached (R264). -/
def State.stalled (s : State) (d : Nat) : List (SEnt × SReq) :=
  (s.sdir.filterMap fun e =>
    if !s.dead e.die && decide (e.la < 2 ^ 46) && s.dirDie e.la == d && (s.takenFrom d).contains ((s.maq.buckets.getD (bucketOf e.la) 0).toNat % 16) then
      match e.req with
      | some q => if (q.op == .rds || q.op == .rdx || q.op == .upg) && !q.err && !(e.dp.covers q.op) then some (e, q) else none
      | none => none
    else none).foldr (insertBy fun p => p.2.seq) []

/-- Sends one stalled request to the shadow. Data that had come to it from a holder that gave the line up, before the junction failed, are kept at the home
(log 27). -/
def State.resend1 (s : State) (d : Nat) (p : SEnt × SReq) : State :=
  let (e, q) := p
  let s := match q.data with
    | some x => if (s.jent d e.la).st == JSt.absent then { s with mem := putLine s.mem e.la fullMask x } else s
    | none => s
  let q := { q with to_ := d, sentAt := (s.die e.die).fclk.toNat }
  (s.setSent { e with req := some q }).sendReq e.die e.la q

/-- Sends the stalled requests to the shadow, in order of arrival (R264). -/
def State.resend (s : State) (d : Nat) : State := (s.stalled d).foldl (fun s p => s.resend1 d p) s

/-- CENSUS_COMPLETE (R264): every live die has reported: lines of unreachable owners are resolved and stalled requests resume. -/
def execCensusComplete (die : Nat) (s : State) : Out :=
  .next (if !((s.die die).census.all s.dead) then s
  else
    let s := s.onDie die fun x => { x with census := [] }
    let s := (s.orphans die).foldl (fun s j =>
      let k := s.jent die j.la
      let live := k.holders.filter fun x => !s.dead x
      (s.setJent { k with
        st := if live.isEmpty then .own else .os
        owner := j.owner
        mir := j.mir
        holders := live ++ [j.owner] }).ownerGone die j.la 2) s
    let s := { s with jdir := s.jdir.filter fun j => !((s.takenFrom die).contains j.die && s.dirDie j.la == die && j.die != die) }
    s.resend die)

/-! ### Remote answers, shoot-downs -/

/-- `RemRd`, `RemWr`, `RemAt` at their egress die leave by its port (R306); nothing is left to do here until they do. -/
def State.onRem (s : State) (op : Mop) (m : Msg) : State := s.post op { m with at_ := m.dst }

/-- `RemRsp` (R306): a read's or an atomic's line has come, or a write is performed at its home. -/
def State.onRemrsp (s : State) (m : Msg) : State :=
  match s.byTx m.dst m.la m.txid with
  | some (e, q) =>
    if e.endsOnly then s.endOp e
    else match m.lines with
      | (_, x) :: _ => s.setSent { e with req := some { q with data := some x } }
      | [] => s.setSent { e with req := some { q with err := true } }
  | none => s

/-- `ShootA` (R42). -/
def State.onShoota (s : State) (m : Msg) : State :=
  if (s.die m.dst).sdTx = m.txid then s.onDie m.dst fun x => { x with sdAcks := x.sdAcks.erase m.src } else s

/-! ### Delivery of any message at its die -/

/-- Handles one message at the die it names. A die that answers nothing handles nothing. -/
def State.deliver (s : State) (op : Mop) (m : Msg) : State :=
  if s.dead m.dst then s else
  match op with
  | .remrd | .remwr | .remat => s.onRem op m
  | .remrsp => s.onRemrsp m
  | .shoot => s.onShoot m
  | .shoota => s.onShoota m
  | .probe => s.onProbe m
  | .jfail => s.onJfail m
  | .census => s.onCensus m
  | .report => s.onReport m
  | _ => s.cohere op m

/-- RDS at the directory, or at the home slice (R257). -/
def execRds (m : Msg) (s : State) : Out := .next (s.deliver .rds m)
/-- RDX (R257). -/
def execRdx (m : Msg) (s : State) : Out := .next (s.deliver .rdx m)
/-- UPG (R257). -/
def execUpg (m : Msg) (s : State) : Out := .next (s.deliver .upg m)
/-- WBD (R257, R259). -/
def execWbd (m : Msg) (s : State) : Out := .next (s.deliver .wbd m)
/-- EVC (R257). -/
def execEvc (m : Msg) (s : State) : Out := .next (s.deliver .evc m)
/-- RDU (R299). -/
def execRdu (m : Msg) (s : State) : Out := .next (s.deliver .rdu m)
/-- WRU (R255, R299). -/
def execWru (m : Msg) (s : State) : Out := .next (s.deliver .wru m)
/-- ATU (R181, R299). -/
def execAtu (m : Msg) (s : State) : Out := .next (s.deliver .atu m)
/-- SNPF (R257). -/
def execSnpf (m : Msg) (s : State) : Out := .next (s.deliver .snpf m)
/-- SNPI (R257). -/
def execSnpi (m : Msg) (s : State) : Out := .next (s.deliver .snpi m)
/-- SNPFI (R257). -/
def execSnpfi (m : Msg) (s : State) : Out := .next (s.deliver .snpfi m)
/-- RECALL (R260). -/
def execRecall (m : Msg) (s : State) : Out := .next (s.deliver .recall m)
/-- GRANT (R257). -/
def execGrant (m : Msg) (s : State) : Out := .next (s.deliver .grant m)
/-- ACK (R257). -/
def execAck (m : Msg) (s : State) : Out := .next (s.deliver .ack m)
/-- RETRY (R261). -/
def execRetry (m : Msg) (s : State) : Out := .next (s.deliver .retry m)
/-- ERR (R269, R443). -/
def execErr (m : Msg) (s : State) : Out := .next (s.deliver .err m)
/-- GONE (R259). -/
def execGone (m : Msg) (s : State) : Out := .next (s.deliver .gone m)
/-- MIRACK (R267). -/
def execMirack (m : Msg) (s : State) : Out := .next (s.deliver .mirack m)
/-- DATA (R257). -/
def execData (m : Msg) (s : State) : Out := .next (s.deliver .data m)
/-- DATAM (R298). -/
def execDatam (m : Msg) (s : State) : Out := .next (s.deliver .datam m)
/-- MIRROR (R267). -/
def execMirror (m : Msg) (s : State) : Out := .next (s.deliver .mirror m)
/-- REMRD (R306). -/
def execRemrd (m : Msg) (s : State) : Out := .next (s.deliver .remrd m)
/-- REMWR (R306). -/
def execRemwr (m : Msg) (s : State) : Out := .next (s.deliver .remwr m)
/-- REMAT (R306). -/
def execRemat (m : Msg) (s : State) : Out := .next (s.deliver .remat m)
/-- REMRSP (R306). -/
def execRemrsp (m : Msg) (s : State) : Out := .next (s.deliver .remrsp m)
/-- SHOOT (R42). -/
def execShoot (m : Msg) (s : State) : Out := .next (s.deliver .shoot m)
/-- SHOOTA (R42). -/
def execShoota (m : Msg) (s : State) : Out := .next (s.deliver .shoota m)
/-- PROBE (R263). -/
def execProbe (m : Msg) (s : State) : Out := .next (s.deliver .probe m)
/-- JFAIL (R263). -/
def execJfail (m : Msg) (s : State) : Out := .next (s.deliver .jfail m)
/-- CENSUS (R264). -/
def execCensus (m : Msg) (s : State) : Out := .next (s.deliver .census m)
/-- REPORT (R263, R264). -/
def execReport (m : Msg) (s : State) : Out := .next (s.deliver .report m)

/-! ### Records held back (R270, R393, R432) -/

/-- Whether a ring has space for a record. -/
def State.ringSpace (s : State) (w : Word) : Bool := (s.ringPut w 0).isSome

/-- LOSS_RECORD_DRAIN (R270). -/
def execLossRecordDrain (die : Nat) (s : State) : Out := .next (s.drainLoss die (s.die die).heldLoss)

/-- PFRING_RECORD_DRAIN (R393). -/
def execPfringRecordDrain (die : Nat) (s : State) : Out := .next (s.drainPf die (s.die die).heldPf)

/-- MONITOR_RING_SPACE_FREED (R432, R433). -/
def execMonitorRingSpaceFreed (die : Nat) (s : State) : Out :=
  .next (if (s.die die).monFull && s.ringSpace (s.die die).monring then (s.onDie die fun x => { x with monFull := false }).monitor die 0x13 else s)

end Sys2Proof.Machine
end

