-- ==== Sys2Proof/Machine/Links.lean ====
section
/-! DEFINITION. Nderal ports (R296 to R301): flits, their CRC and sequence, replay, credits; messages into and out of slots; a port that goes
down. -/

namespace Sys2Proof.Machine

/-! ### Message codes (R299) -/

/-- MOP of a message. -/
def mopCode : Mop → Nat
  | .rds => 0x00 | .rdx => 0x01 | .upg => 0x02 | .wbd => 0x03 | .evc => 0x04 | .rdu => 0x05 | .wru => 0x06 | .atu => 0x07
  | .snpf => 0x10 | .snpi => 0x11 | .snpfi => 0x12 | .recall => 0x13
  | .grant => 0x18 | .ack => 0x19 | .retry => 0x1A | .err => 0x1B | .gone => 0x1C | .mirack => 0x1D
  | .data => 0x20 | .datam => 0x21 | .mirror => 0x22
  | .remrd => 0x28 | .remwr => 0x29 | .remat => 0x2A | .remrsp => 0x2B
  | .disc => 0x30 | .discr => 0x31 | .shoot => 0x32 | .shoota => 0x33 | .probe => 0x34 | .jfail => 0x35 | .census => 0x36 | .report => 0x37

/-- Every opcode. -/
def allMops : List Mop :=
  [.rds, .rdx, .upg, .wbd, .evc, .rdu, .wru, .atu, .snpf, .snpi, .snpfi, .recall, .grant, .ack, .retry, .err, .gone, .mirack,
   .data, .datam, .mirror, .remrd, .remwr, .remat, .remrsp, .disc, .discr, .shoot, .shoota, .probe, .jfail, .census, .report]

/-- The opcode of a MOP code. -/
def mopOf (c : Nat) : Option Mop := allMops.find? fun op => mopCode op == c

/-- The SCLS code of an opcode: 1 REQ, 2 SNP, 3 RSP, 4 DATA, 5 MGT, 6 REM. -/
def mopClass (op : Mop) : Nat :=
  let c := mopCode op
  if c < 0x10 then 1 else if c < 0x18 then 2 else if c < 0x20 then 3 else if c < 0x28 then 4 else if c < 0x30 then 6 else 5

/-! ### Messages in slots (R298) -/

/-- The header slot (R298). The asker, its number and the leg to a slice of a REQ or SNP travel in ARG's top bits (log 20); an MGT message has no LA. -/
def headerOf (op : Mop) (m : Msg) : Nat :=
  let arg := if mopClass op ≤ 2 then m.arg.toNat % 2 ^ 29 + m.rtx % 4096 * 2 ^ 29 + (if m.toSlice then 2 ^ 41 else 0) + m.req % 16 * 2 ^ 42 else m.arg.toNat
  arg % 2 ^ 46 + (if mopClass op = 5 then 0 else m.la % 2 ^ 46 * 2 ^ 46) + (if m.pri then 2 ^ 93 else 0) + (if m.mir then 2 ^ 94 else 0)
    + contSlots op m % 16 * 2 ^ 95 + m.txid % 4096 * 2 ^ 99 + mopCode op * 2 ^ 111 + m.hops % 8 * 2 ^ 117 + m.src % 16 * 2 ^ 120 + m.dst % 16 * 2 ^ 124

/-- The slots of a message: header, masks, lines; what an MGT message names beyond ARG stands in a slot of its own (log 20). -/
def slotsOf (op : Mop) (m : Msg) : List Nat :=
  let data := m.lines.flatMap fun p => (rangeFrom 0 4).map fun i => fieldN p.2.toNat (128 * i) 128
  let masks := (rangeFrom 0 2).foldl (fun a i => a + ((m.lines.map fun p => p.1.toNat).getD i 0) * 2 ^ (64 * i)) 0
  headerOf op m :: match op with
    | .disc | .discr => [((m.lines.head?.map fun p => p.2.toNat % 2 ^ 128).getD 0)]
    | _ =>
      if mopClass op = 5 then (if m.la = 0 then [] else [m.la % 2 ^ 46])
      else if m.lines.isEmpty then [] else (if masked op then [masks] else []) ++ data

/-- Lines of four slots each. -/
def linesOf (masks : List (BitVec 64)) : List Nat → List (BitVec 64 × LineData)
  | a :: b :: c :: d :: r =>
    (masks.headD fullMask, BitVec.ofNat 512 (a + b * 2 ^ 128 + c * 2 ^ 256 + d * 2 ^ 384)) :: linesOf masks.tail r
  | _ => []

/-- A message from its slots, or nothing where the MOP is unassigned or of another class (R299). -/
def readMsg (cls h : Nat) (cont : List Nat) : Option (Mop × Msg) :=
  match mopOf (fieldN h 111 6) with
  | none => none
  | some op =>
    if mopClass op != cls then none
    else
      let lines := match op with
        | .disc | .discr => (cont.head?.map fun x => (fullMask, BitVec.ofNat 512 x)).toList
        | _ => if masked op then
            let w := cont.headD 0
            linesOf [BitVec.ofNat 64 w, BitVec.ofNat 64 (w / 2 ^ 64), Config.thirdMask w] cont.tail
          else if cls = 5 then [] else linesOf [] cont
      let q := decide (cls ≤ 2)
      let src := fieldN h 120 4
      let tx := fieldN h 99 12
      some (op, { mkMsg (fieldN h 124 4) src (if cls = 5 then cont.headD 0 % 2 ^ 46 else fieldN h 46 46) tx with
        hops := fieldN h 117 3, mir := bitN h 94, pri := bitN h 93
        arg := BitVec.ofNat 46 (if q then h % 2 ^ 29 else h), lines := lines
        req := if q then fieldN h 42 4 else src, rtx := if q then fieldN h 29 12 else tx, toSlice := q && bitN h 41 })

/-! ### Flits (R296) -/

/-- One bit of the CRC-64. -/
def crcBit (c bit : Nat) : Nat :=
  let top := c / 2 ^ 63 % 2
  let c := c * 2 % 2 ^ 64
  if (top + bit) % 2 = 1 then c ^^^ 0x42F0E1EBA9EA3693 else c

/-- One byte of the CRC-64, its most significant bit first. -/
def crcByte (c b : Nat) : Nat := [7, 6, 5, 4, 3, 2, 1, 0].foldl (fun c i => crcBit c (b / 2 ^ i % 2)) c

/-- The CRC-64 of bytes: initial value all ones, final XOR all ones (R296). -/
def crc64 (bs : List Nat) : Nat := bs.foldl crcByte (2 ^ 64 - 1) ^^^ (2 ^ 64 - 1)

/-- A flit's bytes. -/
def flitBytes (f : Nat) : Nat → List Nat
  | 0 => []
  | n + 1 => f % 256 :: flitBytes (f / 256) n

/-- Whether a flit's CRC checks, its VER is 1 and its FK is assigned. -/
def flitOk (f : Nat) : Bool :=
  fieldN f 124 4 == 1 && fieldN f 122 2 != 3 && crc64 (flitBytes f 248) == fieldN f 1984 64

/-- A flit from its fields. -/
def mkFlit (fk scls ackseq cred seq : Nat) (slots : List Nat) : BitVec 2048 :=
  let h := cred % 2 ^ 48 * 2 ^ 20 + ackseq % 4096 * 2 ^ 68 + scls % 2 ^ 42 * 2 ^ 80 + fk % 4 * 2 ^ 122 + 2 ^ 124
  let body := (rangeFrom 0 14).foldl (fun a i => a + slots.getD i 0 % 2 ^ 128 * 2 ^ (128 * (i + 1))) h
  let f := body + seq % 4096 * 2 ^ 1920
  BitVec.ofNat 2048 (f + crc64 (flitBytes f 248) * 2 ^ 1984)

/-- Code of slot `i` in SCLS. -/
def sclsAt (f i : Nat) : Nat := fieldN f (80 + 3 * i) 3

/-- Index in CRED and in the table of credits of a class (R296, R300). -/
def credIdx (cls : Nat) : Nat := if cls = 5 then 4 else if cls = 6 then 5 else cls - 1

/-- What a message takes of its class's credits: its slots for DATA, one for the rest (R300). -/
def credCost (cls slots : Nat) : Nat := if cls = 4 then slots else 1

/-- The messages of a flit from slot `i` on: class, slots, and what each reads as. -/
def flitMsgs (f : Nat) : Nat → Nat → List (Nat × Nat × Option (Mop × Msg))
  | 0, _ => []
  | n + 1, i =>
    if 14 ≤ i then []
    else
      let cls := sclsAt f i
      let slot := fun k => fieldN f (128 * (k + 1)) 128
      if cls = 0 ∨ cls = 7 then flitMsgs f n (i + 1)
      else
        let nsl := fieldN (slot i) 95 4
        let cont := (rangeFrom (i + 1) nsl).filter fun k => k < 14 && sclsAt f k == 7
        (cls, 1 + cont.length, readMsg cls (slot i) (cont.map slot)) :: flitMsgs f n (i + 1 + nsl)

/-! ### A port -/

/-- A port of a die. -/
def State.port (s : State) (d p : Nat) : Port := (s.die d).ports.getD p .reset
/-- Changes a port. -/
def State.onPort (s : State) (d p : Nat) (f : Port → Port) : State := s.onDie d fun x => { x with ports := x.ports.modify p f }

/-- The CRED field of credits by class. -/
def credOf (cs : List Nat) : Nat := (rangeFrom 0 6).foldl (fun a k => a + min 255 (cs.getD k 0) * 2 ^ (8 * k)) 0

/-- A port after a flit has left with its acknowledgement and credits. -/
def Port.acked (x : Port) : Port := { x with sinceAck := 0, owed := [0, 0, 0, 0, 0, 0] }

/-- Puts a flit on a port: to the die at its other end, or out of the package (R302). -/
def State.putFlit (s : State) (d p : Nat) (f : BitVec 2048) : State :=
  let q := s.mport d p
  if q.kind = 1 then { s with wires := s.wires ++ [(q.pid.toNat, q.pport.toNat, f)] } else s.emit (.flit d p f)

/-- Whether a port carries Nderal flits: trained, not down, not the host's, on a die that forwards (R295, R297, R304). -/
def State.carries (s : State) (d p : Nat) : Bool :=
  let x := s.port d p
  x.trained && !x.down && !(s.mport d p).host && !s.dead d

/-- Sends an idle flit or a replay request: FK 1 or 2 (R297). -/
def State.sendIdle (s : State) (d p fk : Nat) : State :=
  let x := s.port d p
  (s.onPort d p Port.acked).putFlit d p (mkFlit fk 0 (x.rxSeq - 1).toNat (credOf x.owed) (x.txSeq - 1).toNat [])

/-- A port goes down (R297): its replay buffer is dropped; one retraining follows, and after that a report to the leader. -/
def State.portDown (s : State) (d p : Nat) : State :=
  let was := s.port d p
  let s := s.onPort d p fun x => { x with down := true, trained := false, flits := [], resync := false, rpCnt := 0 }
  let s := s.monitor d 0x0C
  if was.retrained then s.reportTo d d 1 else s

/-- Takes the acknowledgement and the credits of a flit that counts (R297, R300). -/
def State.takeAck (s : State) (d p f : Nat) : State :=
  let now := (s.die d).fclk.toNat
  s.onPort d p fun x =>
    let n := (fieldN f 68 12 + 1 + 4096 - x.ackd.toNat) % 4096
    let x := if n ≤ x.flits.length ∧ n ≠ 0 then { x with flits := x.flits.drop n, ackd := x.ackd + BitVec.ofNat 12 n, ackAt := now } else x
    { x with credits := (rangeFrom 0 6).map fun k => x.credits.getD k 0 + fieldN f (20 + 8 * k) 8 }

/-- Owes credits of a class at a port whose buffer is free (R300). -/
def State.oweCredit (s : State) (d p cls slots : Nat) : State :=
  s.onPort d p fun x => { x with owed := x.owed.modify (credIdx cls) (· + credCost cls slots) }

/-- A message of a flit has arrived at a port of a die, where it takes a buffer: for this die, in transit with one hop less, or discarded with the protocol
event, which frees the buffer (R298 to R300). DISCOVER messages are for the die at the other end, whatever they name (R304). -/
def State.arrive (s : State) (d p : Nat) (x : Nat × Nat × Option (Mop × Msg)) : State :=
  let discard := (s.monitor d 0x0B).oweCredit d p x.1 x.2.1
  match x.2.2 with
  | none => discard
  | some (op, m) =>
    let m := { m with at_ := d, buf := some p }
    if op == .disc || op == .discr then s.post op { m with dst := d }
    else if m.dst = d then s.post op m
    else if m.hops = 0 then discard
    else s.post op { m with hops := m.hops - 1 }

/-- A flit at a port (R296, R297): one that is discarded counts for nothing. -/
def State.flitIn (s : State) (d p : Nat) (flit : BitVec 2048) : State :=
  let f := flit.toNat
  let x := s.port d p
  if !s.carries d p then s
  else if !flitOk f then (s.onPort d p fun x => { x with resync := true }).sendIdle d p 2
  else
    let fk := fieldN f 122 2
    if fk = 1 then s.takeAck d p f
    else if fk = 2 then
      let s := s.takeAck d p f
      let from_ := BitVec.ofNat 12 (fieldN f 68 12)
      let n := if x.rpSeq = from_ then x.rpCnt + 1 else 1
      let s := s.onPort d p fun x => { x with rpSeq := from_, rpCnt := n }
      if 16 ≤ n then s.portDown d p else (s.port d p).flits.foldl (fun s f => s.putFlit d p f) s
    else if fieldN f 1920 12 != x.rxSeq.toNat then
      if x.resync then s else (s.onPort d p fun x => { x with resync := true }).sendIdle d p 2
    else
      let s := s.takeAck d p f
      let s := s.onPort d p fun x => { x with rxSeq := x.rxSeq + 1, sinceAck := x.sinceAck + 1, resync := false, rpCnt := 0 }
      (flitMsgs f 14 0).foldl (fun s m => s.arrive d p m) s

/-- The first flit on a wire reaches its port. -/
def State.wireIn (s : State) : State :=
  match s.wires with
  | (d, p, f) :: r => ({ s with wires := r } : State).flitIn d p f
  | [] => s

/-- FLIT_RECEIVE (R297). -/
def execFlitReceive (die port : Nat) (flit : BitVec 2048) (s : State) : Out := .next (s.flitIn die port flit)

/-- IDLE_FLIT (R297): it carries an acknowledgement and credits. -/
def execIdleFlit (die port : Nat) (flit : BitVec 2048) (s : State) : Out := .next (s.flitIn die port flit)

/-- REPLAY_REQUEST (R297): every flit after ACKSEQ is sent again. -/
def execReplayRequest (die port : Nat) (flit : BitVec 2048) (s : State) : Out := .next (s.flitIn die port flit)

/-- PORT_ACK_TIMEOUT (R297). -/
def execPortAckTimeout (die port : Nat) (s : State) : Out :=
  .next (if (s.port die port).flits.isEmpty || (s.port die port).down then s else s.portDown die port)

/-- A port that has trained again: its sequence numbers, its buffers and its credits start anew (R297). -/
def Port.again (x : Port) : Port := { Port.reset with trained := true, discovered := x.discovered, retrained := x.retrained }

/-- PORT_RETRAIN (R297): a port that went down retrains once, and with it the port at the other end of the link (log 45). -/
def execPortRetrain (die port : Nat) (ok : Bool) (s : State) : Out :=
  .next (
    let x := s.port die port
    if !x.down || x.retrained then s
    else
      let s := s.onPort die port fun y => { y with retrained := true }
      if ok then
        let s := s.onPort die port Port.again
        let q := s.mport die port
        if q.kind = 1 then
          { s.onPort q.pid.toNat q.pport.toNat Port.again with wires := s.wires.filter fun w =>
              !((w.1 == q.pid.toNat && w.2.1 == q.pport.toNat) || (w.1 == die && w.2.1 == port)) }
        else s
      else s.reportTo die die 1)

/-- CLASS_STARVATION (R300): the class is placed first in the next flit. -/
def execClassStarvation (die port cls : Nat) (s : State) : Out := .next (s.onPort die port fun x => { x with first := some cls })

/-! ### Sending (R297, R300, R306) -/

/-- The port by which a message that stands at a die leaves it: a DISCOVER message's own, the egress of a REM message, else the route's (R302, R306). -/
def State.outPort (s : State) (op : Mop) (m : Msg) : Option Nat :=
  match op with
  | .disc | .discr => if m.src = m.at_ ∧ m.dst ≠ m.at_ then some m.req else none
  | _ =>
    if m.dst = m.at_ then
      if op == .remrd || op == .remwr || op == .remat then match s.home m.la with
        | .remote g => some (s.maq.egress.getD g ⟨0, 0, 0⟩).port.toNat
        | _ => none
      else none
    else s.nextPort m.at_ m.dst

/-- What the messages of one flit are picked into: slots, SCLS, credits left, what stays. -/
structure Fill14 where
  slots : List Nat
  scls : Nat
  credits : List Nat
  took : List (Mop × Msg)

/-- Places messages of one class in order while credit and free slots allow; none overtakes another (R301, R307). -/
def Fill14.addAll (x : Fill14) : List (Mop × Msg) → Fill14
  | [] => x
  | (op, m) :: r =>
    let ss := slotsOf op m
    let k := credIdx (mopClass op)
    let cost := credCost (mopClass op) ss.length
    if 14 < x.slots.length + ss.length || x.credits.getD k 0 < cost then x
    else
      let code := (rangeFrom 0 ss.length).foldl (fun a i => a + (if i = 0 then mopClass op else 7) * 2 ^ (3 * (x.slots.length + i))) 0
      Fill14.addAll { slots := x.slots ++ ss, scls := x.scls + code, credits := x.credits.set k (x.credits.getD k 0 - cost), took := x.took ++ [(op, m)] } r

/-- Classes in the order of filling: MGT, RSP, DATA, SNP, REQ, REM, a starved one first (R300). -/
def fillOrder (first : Option Nat) : List Nat :=
  match first with
  | some c => c :: [5, 3, 4, 2, 1, 6].filter (· != c)
  | none => [5, 3, 4, 2, 1, 6]

/-- The messages that wait at a die for a port, in order. -/
def State.waiting (s : State) (d p : Nat) : List (Mop × Msg) := s.msgs.filter fun q => q.2.at_ == d && s.outPort q.1 q.2 == some p

/-- Sends one normal flit of the messages that wait for a port, if any may go; a message in transit frees its buffer (R297, R300, R306). -/
def State.txPort (s : State) (d p : Nat) : State :=
  let x := s.port d p
  let wait := s.waiting d p
  if wait.isEmpty || !s.carries d p || decide (128 ≤ x.flits.length) then s
  else
    let r := (fillOrder x.first).foldl (fun (r : Fill14) c => r.addAll (wait.filter fun q => mopClass q.1 == c)) ⟨[], 0, x.credits, []⟩
    if r.took.isEmpty then s
    else
      let left := r.took.foldl (fun ms q => ms.erase q) wait
      let waited := (rangeFrom 0 6).map fun k =>
        if left.any (fun q => credIdx (mopClass q.1) == k) && decide (0 < r.credits.getD k 0) then x.waited.getD k 0 + 1 else 0
      let starved := ([5, 3, 4, 2, 1, 6].filter fun c => decide (64 ≤ waited.getD (credIdx c) 0)).head?
      let now := (s.die d).fclk.toNat
      let s := { s with msgs := r.took.foldl (fun ms q => ms.erase q) s.msgs }
      let s := r.took.foldl (fun (s : State) q => s.freeBuf q.1 q.2) s
      let f := mkFlit 0 r.scls (x.rxSeq - 1).toNat (credOf (s.port d p).owed) x.txSeq.toNat r.slots
      (s.onPort d p fun x => { x.acked with
        txSeq := x.txSeq + 1, flits := x.flits ++ [f], credits := r.credits, first := starved, waited := waited
        ackAt := if x.flits.isEmpty then now else x.ackAt }).putFlit d p f

/-- Whether a port owes an idle flit: it has accepted 16 flits since it last acknowledged and has nothing else to send (R297). -/
def State.idleDue (s : State) (d p : Nat) : Bool := s.carries d p && decide (16 ≤ (s.port d p).sinceAck) && (s.waiting d p).isEmpty

/-- Whether a port has an acknowledgement or a credit to give while nothing else goes on (log 45). -/
def State.idleMay (s : State) (d p : Nat) : Bool :=
  s.carries d p && (decide (0 < (s.port d p).sinceAck) || (s.port d p).owed.any (0 < ·)) && (s.waiting d p).isEmpty

/-- Sends an idle flit where a condition holds. -/
def State.idleIf (s : State) (d p : Nat) (b : Bool) : State := if b then s.sendIdle d p 1 else s

/-- A message that its die cannot take up yet is set aside, which frees its buffer (R300). -/
def State.setAside (s : State) : State :=
  match s.msgs.findIdx? fun q => q.2.at_ == q.2.dst && q.2.buf.isSome && s.early q.1 q.2 with
  | some i => match s.msgs[i]? with
    | some (op, m) => ({ s with msgs := s.msgs.set i (op, { m with buf := none }) } : State).freeBuf op m
    | none => s
  | none => s

/-- A message in transit that finds no live route: the junction where it stands answers a request itself, and its buffer is free (R443). -/
def State.strand (s : State) : State :=
  match s.msgs.findIdx? fun q => q.2.at_ != q.2.dst && decide (q.2.at_ < 8) && !s.dead q.2.at_ && (s.outPort q.1 q.2).isNone with
  | some i => match s.takeMsg i with
    | some (s, op, m) => if isReqMop op then s.post .err (errFor m.at_ m) else s
    | none => s
  | none => s

end Sys2Proof.Machine
end

