-- ==== Sys2Proof/Machine/Queues.lean ====
section
/-! DEFINITION. Queues and tasks as the scheduler keeps them: the queue table and its control blocks (R360 to R362), halts and
completion objects (R369, R370), tasks, their predecessor counts and decrements (R367). -/

namespace Sys2Proof.Machine

/-! ### Patina lines in memory -/

/-- A patina at a physical line. -/
def State.slotAt (s : State) (pa : Nat) : Patina := BitVec.ofNat 512 (s.physRead pa 64)

/-- ORs bits into a patina line. -/
def State.orSlot (s : State) (pa : Nat) (p : Patina) : State :=
  if p = 0 then s else s.physWrite pa (bytesN (s.slotAt pa ||| p).toNat 64)

/-! ### Control blocks -/

/-- A control block's fields (R362), with its physical address. -/
structure Qcb where
  pa : Nat
  w : Nat
  deriving DecidableEq, Repr

/-- Reads a control block. -/
def State.qcb (s : State) (pa : Nat) : Qcb := ⟨pa, s.physRead pa 64⟩

/-- A field of a control block. -/
def Qcb.f (q : Qcb) (hi lo : Nat) : Nat := fieldN q.w lo (hi + 1 - lo)

/-- QN. -/
def Qcb.qn (q : Qcb) : Nat := q.f 15 0
/-- PASID. -/
def Qcb.pasid (q : Qcb) : Nat := q.f 35 16
/-- RLOGN. -/
def Qcb.rlogn (q : Qcb) : Nat := q.f 57 53
/-- DIE. -/
def Qcb.die (q : Qcb) : Nat := q.f 61 58
/-- HALT. -/
def Qcb.halt (q : Qcb) : Bool := bitN q.w 62
/-- V. -/
def Qcb.v (q : Qcb) : Bool := bitN q.w 63
/-- CTX. -/
def Qcb.ctx (q : Qcb) : Nat := q.f 191 128
/-- RBASE. -/
def Qcb.rbase (q : Qcb) : Nat := q.f 255 192
/-- HEAD. -/
def Qcb.head (q : Qcb) : Nat := q.f 319 256
/-- TAIL. -/
def Qcb.tail (q : Qcb) : Nat := q.f 383 320
/-- CMPL. -/
def Qcb.cmpl (q : Qcb) : Nat := q.f 511 448

/-- A block whose RLOGN or reserved fields are out of range. -/
def Qcb.bad (q : Qcb) : Bool :=
  decide (q.rlogn < 4) || decide (16 < q.rlogn) || q.f 52 36 != 0 || q.f 127 64 != 0 || q.f 407 384 != 0

/-- Records in the ring. -/
def Qcb.count (q : Qcb) : Nat := (q.tail + 2 ^ 64 - q.head) % 2 ^ 64

/-- The address of a ring position's slot (R364). -/
def Qcb.slot (q : Qcb) (i : Nat) : Nat := q.rbase + 256 * (i % 2 ^ q.rlogn)

/-- The table of a die: base and LOGN, if a lookup can hit (R360). -/
def State.qtable (s : State) (d : Nat) : Option (Nat × Nat) :=
  let base := fieldN (s.die d).svcring.toNat 12 40 * 4096
  let q := s.physRead (base + 8) 8
  let n := q % 32
  if base = 0 ∨ fieldN q 52 12 ≠ 0 ∨ fieldN q 5 7 ≠ 0 ∨ n < 6 ∨ 20 < n then none else some (fieldN q 12 40 * 4096, n)

/-- Probes of the table (R361). -/
def qProbe (s : State) (base logn h pasid qn : Nat) : Nat → Nat → Option Qcb
  | _, 0 => none
  | k, n + 1 =>
    let q := s.qcb (base + (h + k) % 2 ^ logn * 64)
    if q.v && q.pasid == pasid && q.qn == qn then some q else qProbe s base logn h pasid qn (k + 1) n

/-- The queue of a PASID and a number in a die's table (R361). -/
def State.findQueue (s : State) (d pasid qn : Nat) : Option Qcb :=
  match s.qtable d with
  | none => none
  | some (base, logn) =>
    let key := pasid * 65536 + qn
    qProbe s base logn (key * 0xC2B2AE3D27D4EB4F % 2 ^ 64 / 2 ^ (64 - logn)) pasid qn 0 4

/-- The queue as its scheduler finds it: in its own die's table, or in another's that names the die. -/
def State.schedQueue (s : State) (d pasid qn : Nat) : Option Qcb :=
  findMap (fun x => (s.findQueue x pasid qn).filter fun q => q.die == d) (d :: (rangeFrom 0 8).filter (· != d))

/-! ### What the scheduler keeps of a queue -/

/-- The scheduler's record of a queue. -/
def State.queue (s : State) (d : Nat) (pasid : BitVec 20) (qn : BitVec 16) : Queue :=
  (s.queues.find? fun q => q.die == d && q.pasid == pasid && q.qn == qn).getD ⟨d, pasid, qn, [], 0, none, false, none⟩

/-- Writes the scheduler's record of a queue. -/
def State.setQueue (s : State) (q : Queue) : State :=
  { s with queues := upsert (fun x => x.die == q.die && x.pasid == q.pasid && x.qn == q.qn) q s.queues }

/-! ### Outputs (R383) -/

/-- One output of a die's scheduler: the change takes place if the voter lets it out. -/
def State.sched (s : State) (d : Nat) (f : State → State) : State :=
  let r := s.output d 0
  if r.2 then f r.1 else r.1

/-! ### The completion object (R369, R370) -/

/-- Updates the completion object: the patina first, then the count and bit 63. A CMPL out of range is not written (R362). -/
def State.cmplUpdate (s : State) (q : Qcb) (add : Nat) (top : Bool) (p : Patina) : State :=
  let c := q.cmpl
  if c % 128 ≠ 0 ∨ c / 2 ^ 52 ≠ 0 then s
  else
    let s := s.orSlot (c + 64) p
    let v := s.physRead c 8
    s.physWrite c (bytesN ((v % 2 ^ 63 + add) % 2 ^ 63 + if top || decide (2 ^ 63 ≤ v) then 2 ^ 63 else 0) 8)

/-- Halts a queue (R370): HALT, ERRIDX, ERRC, the completion object's bit 63, the monitor event. A halted queue keeps its first record. -/
def State.haltQueue (s : State) (q : Qcb) (pos code : Nat) : State :=
  if (s.qcb q.pa).halt then s
  else
    let w := q.w % 2 ^ 64
    let s := s.physWrite q.pa (bytesN (if w / 2 ^ 62 % 2 = 1 then w else w + 2 ^ 62) 8)
    let s := s.physWrite (q.pa + 51) (bytesN (code % 256 + pos % 2 ^ 32 * 256) 5)
    let s := s.cmplUpdate q 0 true 0
    let pas := BitVec.ofNat 20 q.pasid
    let n := BitVec.ofNat 16 q.qn
    (s.setQueue { s.queue q.die pas n with halted := true, seen := some (s.qcb q.pa).w }).monitor q.die 7

/-! ### Tasks -/

/-- The task of a handle. -/
def State.task? (s : State) (h : BitVec 32) : Option Task := s.tasks.find? fun t => t.h == h

/-- Applies a change to a task. -/
def State.onTask (s : State) (h : BitVec 32) (f : Task → Task) : State :=
  { s with tasks := s.tasks.map fun t => if t.h == h then f t else t }

/-- Bytes of a record as a number. -/
def recF (im : BitVec 2048) (at_ n : Nat) : Nat := fieldN im.toNat (8 * at_) (8 * n)

/-- A role of a spawn record (R345). -/
structure Role where
  entry : Nat
  gangs : Nat
  slices : Nat
  regs : Nat
  tiles : Nat
  deriving DecidableEq, Repr

/-- Role `r` of a record. -/
def recRole (im : BitVec 2048) (r : Bool) : Role :=
  let o := if r then 96 else 64
  ⟨recF im o 8, recF im (o + 8) 4, recF im (o + 12) 1, recF im (o + 13) 1, recF im (o + 14) 1⟩

/-- NROLE. -/
def recRoles (im : BitVec 2048) : Nat := recF im 1 1
/-- ARM. -/
def recArm (im : BitVec 2048) : Bool := bitN (recF im 5 1) 0
/-- NN. -/
def recNN (im : BitVec 2048) : Nat := recF im 4 1
/-- A cluster task: an armature entry, or niches (R323). -/
def recCluster (im : BitVec 2048) : Bool := recArm im || recNN im != 0

/-- Whether a handle names a cluster task. -/
def State.clusterTask (s : State) (h : BitVec 32) : Bool := s.tasks.any fun t => t.h == h && recCluster t.image

/-- KIND of a task's record (R365). -/
def Task.kind (t : Task) : Nat := recF t.image 0 1

/-- In the window and unfinished. -/
def Task.inWin (t : Task) : Bool := t.st == .window || t.st == .ready || t.st == .placed

/-- Halts the queue of a task with a code (R370). -/
def State.haltTask (s : State) (t : Task) (code : Nat) : State :=
  match s.schedQueue t.die t.qpasid.toNat t.qn.toNat with
  | some q => s.sched t.die fun s => s.haltQueue q t.pos code
  | none => s

/-- The next number in the order in which tasks become ready and threads wait for their restore (R373). -/
def State.nextOrder (s : State) : Nat :=
  1 + s.savedT.foldl (fun n (x : Thread) => max n x.readySince) (s.tasks.foldl (fun n x => max n x.readySeq) 0)

/-- A task whose predecessor count is 0 becomes ready (R367). -/
def State.readyCheck (s : State) (h : BitVec 32) : State :=
  match s.task? h with
  | some t =>
    if t.st == .window && t.kind != 3 && t.preds.isEmpty && t.xout == 0 then
      s.sched t.die fun s => s.onTask h fun t =>
        { t with st := .ready, readySeq := s.nextOrder }
    else s
  | none => s

/-- Whether a task is pending for one more decrement (R367). -/
def State.decOk (s : State) (pasid : BitVec 20) (h : BitVec 32) : Bool :=
  s.tasks.any fun t => t.h == h && t.pasid == pasid && t.st != .done && decide (t.resv < t.xout)

/-- Applies a reserved decrement (R79, R367). -/
def State.taskDec (s : State) (h : BitVec 32) : State :=
  (s.onTask h fun t => { t with xout := t.xout - 1, resv := t.resv - 1 }).readyCheck h

/-- A completed record: successors are lowered and take its patina, the queue's retired patina takes it, the completion object counts it
(R368, R369). -/
def State.taskDone (s : State) (t : Task) : State :=
  let succ := (s.tasks.filter fun (x : Task) => x.preds.contains t.h).map fun (x : Task) => x.h
  let s := { s with tasks := (s.tasks.filter fun (x : Task) => x.h != t.h).map fun (x : Task) =>
    if x.preds.contains t.h then { x with preds := x.preds.erase t.h, startP := x.startP ||| t.complP } else x }
  let k := s.queue t.die t.qpasid t.qn
  let s := s.setQueue { k with pq := k.pq ||| t.complP }
  let s := match s.schedQueue t.die t.qpasid.toNat t.qn.toNat with
    | some q => s.cmplUpdate q 1 false t.complP
    | none => s
  succ.foldl State.readyCheck s

end Sys2Proof.Machine
end

