-- ==== Sys2Proof/Machine/Copies.lean ====
section
/-! DEFINITION. The block-transfer engine and count barriers (chapter 4): templates, starts, sectors, commits, errors, aborts,
queries. -/

namespace Sys2Proof.Machine

/-! ### Channels -/

/-- A channel of a cluster's engine. -/
def State.chan (s : State) (d cl ch : Nat) : Chan :=
  (s.chans.find? fun c => c.die == d && c.cl == cl && c.ch == ch).getD ⟨d, cl, ch, [], none, none, []⟩

/-- Writes a channel. -/
def State.setChan (s : State) (c : Chan) : State :=
  { s with chans := upsert (fun x => x.die == c.die && x.cl == c.cl && x.ch == c.ch) c s.chans }

/-- Applies a change to a channel. -/
def State.onChan (s : State) (d cl ch : Nat) (f : Chan → Chan) : State := s.setChan (f (s.chan d cl ch))

/-! ### Templates (R75, R76) -/

/-- A template's fields. -/
structure Geo where
  src : Nat
  dst : Nat
  n0 : Nat
  n1 : Nat
  n2 : Nat
  s1 : Int
  s2 : Int
  d1 : Int
  d2 : Int
  sf : Nat
  df : Nat
  sbpm : Nat
  dbpm : Nat
  rnd : Nat
  ck : Nat
  cb : Nat
  task : BitVec 32
  eoff : Int
  /-- Every reserved field is zero. -/
  clean : Bool
  deriving DecidableEq, Repr

/-- Reads a template with its data word (R68, R75). -/
def geoOf (tmpl : BitVec 512) (data : Word) : Geo :=
  let f := fieldN tmpl.toNat
  let sx := fun lo => sextN (f lo 32) 32
  let cb := fieldN data.toNat 12 20
  { src := f 0 64, dst := f 64 64, n0 := f 128 16 + 1, n1 := f 144 16 + 1, n2 := f 160 16 + 1
    s1 := sx 192, s2 := sx 224, d1 := sx 256, d2 := sx 288
    sf := f 320 4, df := f 324 4, sbpm := f 328 4, dbpm := f 332 4, rnd := f 336 3, ck := f 340 2
    cb := if cb = 0xFFFFF then f 352 20 else cb
    task := BitVec.ofNat 32 (f 384 32)
    eoff := sextN (fieldN data.toNat 32 32) 32
    clean := f 176 16 == 0 && f 339 1 == 0 && f 342 10 == 0 && f 372 12 == 0 && f 416 96 == 0 }

/-- Bits of an element format; 0 for a reserved code. -/
def fmtBits (c : Nat) : Nat :=
  match c with
  | 0 => 8 | 1 => 32 | 2 => 16 | 3 => 8 | 4 => 8 | 5 => 6 | 6 => 6 | 7 => 4 | 8 => 8 | 9 => 4 | _ => 0

/-- The narrow floating format of codes 3 to 7. -/
def copyFmt (c : Nat) : NFmt := nfmtOf (BitVec.ofNat 5 (0x10 + (c - 3)))

/-- Whether a conversion pair is permitted. -/
def convOk (a b : Nat) : Bool :=
  if 9 < a ∨ 9 < b then false
  else a == b || ((b == 1 || b == 2) && a != 0) || ((a == 1 || a == 2) && decide (3 ≤ b) && decide (b ≤ 7))
    || (a == 9 && b == 8) || (a == 8 && b == 9)

/-- An element as FP32. -/
def elemF (c x : Nat) : W32 :=
  if c = 1 then BitVec.ofNat 32 x
  else if c = 2 then (packF 0 24 (unpackF (bfUp (BitVec.ofNat 16 x)))).1
  else if c ≤ 7 then widenN (copyFmt c) x
  else (i2f 0 (sextN x (fmtBits c))).1

/-- An element converted (R76); no flag. -/
def convEl (a b : Nat) (rm : BitVec 3) (x : Nat) : Nat :=
  if a = b then x
  else if b = 8 then truncI (sextN x 4) 8
  else if b = 9 then truncI (satI true 4 (sextN x 8)) 4
  else
    let v := elemF a x
    if b = 1 then v.toNat
    else if b = 2 then (packF rm 8 (unpackF v)).1.toNat / 65536
    else (narrowF (copyFmt b) rm v).1

/-! ### The grid (R77) -/

/-- Destination bytes of a row. -/
def Geo.rowBytes (g : Geo) : Nat := g.n0 * fmtBits g.df / 8

/-- T, the destination bytes. -/
def Geo.total (g : Geo) : Nat := g.rowBytes * g.n1 * g.n2

/-- A pointer moved by a signed number of bytes. -/
def ptrAdd (p : Nat) (x : Int) : Nat := (((p : Int) + x) % (2 ^ 64 : Nat)).toNat

/-- The source pointer of a row. -/
def Geo.srcRow (g : Geo) (r : Nat) : Nat :=
  ptrAdd g.src (g.eoff * fmtBits g.sf / 8 + g.s1 * (r % g.n1 : Nat) + g.s2 * (r / g.n1 : Nat))

/-- The destination pointer of a row. -/
def Geo.dstRow (g : Geo) (r : Nat) : Nat :=
  ptrAdd g.dst (g.eoff * fmtBits g.df / 8 + g.d1 * (r % g.n1 : Nat) + g.d2 * (r / g.n1 : Nat))

/-- R77's alignment. -/
def Geo.aligned (g : Geo) : Bool :=
  let s := fmtBits g.sf
  let d := fmtBits g.df
  g.n0 * s % 8 == 0 && g.n0 * d % 8 == 0 && g.eoff * s % 8 == 0 && g.eoff * d % 8 == 0

/-- Stretches of one row that a range of the stream covers: row, first byte, end byte. -/
def rowSegs (rb : Nat) : Nat → Nat → Nat → List (Nat × Nat × Nat)
  | 0, _, _ => []
  | fuel + 1, p, e =>
    if e ≤ p ∨ rb = 0 then []
    else
      let n := min (rb - p % rb) (e - p)
      (p / rb, p % rb, p % rb + n) :: rowSegs rb fuel (p + n) e

/-- The source bytes of a stretch of a row: first byte and count. -/
def Geo.need (g : Geo) (j0 j1 : Nat) : Nat × Nat :=
  let sb := fmtBits g.sf
  let db := fmtBits g.df
  let e0 := 8 * j0 / db
  let e1 := (8 * j1 - 1) / db
  let b0 := e0 * sb / 8
  (b0, ((e1 + 1) * sb + 7) / 8 - b0)

/-- The destination bytes of a stretch, from its source bytes as a number. -/
def Geo.convert (g : Geo) (rm : BitVec 3) (j0 j1 v : Nat) : Nat :=
  let sb := fmtBits g.sf
  let db := fmtBits g.df
  let e0 := 8 * j0 / db
  let e1 := (8 * j1 - 1) / db
  let b0 := e0 * sb / 8
  let x := (rangeFrom e0 (e1 + 1 - e0)).foldl (fun a e =>
    a + convEl g.sf g.df rm (fieldN v (e * sb - 8 * b0) sb) * 2 ^ (db * (e - e0))) 0
  fieldN x (8 * j0 - e0 * db) (8 * (j1 - j0))

/-! ### Checks of a pointer by the engine (R27, R75) -/

/-- A copy operand's bytes that fail R27 or lie in a space no copy reaches. -/
def enginePtrBad (scratch ptr n : Nat) : Bool :=
  let sp := spaceOf ptr
  let low := fun k => fieldN ptr 0 k
  if sp = 0 ∨ sp = 1 ∨ sp = 2 ∨ sp = 7 then fieldN ptr 57 3 != 0
  else if sp = 4 then fieldN ptr 21 39 != 0 || decide (scratch < low 21 + n)
  else if sp = 5 then fieldN ptr 29 31 != 0 || decide (11 ≤ fieldN ptr 25 4) || decide (0x1800000 < low 25 + n)
  else true

/-- The rows at which an operand's bytes are checked: the corners of the grid bound its linear addresses, but in a vault the unused end of each stack
lies between them, so that every row counts there. -/
def Geo.checked (g : Geo) (base : Nat) : List Nat :=
  if spaceOf base = 5 then rangeFrom 0 (g.n1 * g.n2) else [0, g.n1 - 1, (g.n2 - 1) * g.n1, g.n2 * g.n1 - 1]

/-- Whether an operand leaves its space in some row. -/
def Geo.spaceBad (g : Geo) (scratch : Nat) : Bool :=
  let sbytes := g.n0 * fmtBits g.sf / 8
  let dbytes := g.rowBytes
  let bad := fun (base p n : Nat) => enginePtrBad scratch p n || spaceOf p != spaceOf base || (decide (0 < n) && spaceOf (p + n - 1) != spaceOf base)
  enginePtrBad scratch g.src 0 || enginePtrBad scratch g.dst 0 ||
    ((g.checked g.src).any fun r => bad g.src (g.srcRow r) sbytes) || (g.checked g.dst).any fun r => bad g.dst (g.dstRow r) dbytes

/-! ### Count barriers (R81) -/

/-- The outcome of finding a barrier's pages. -/
inductive BarAt where
  | ok (obj slot : Nat)
  | perm
  | absent (p : Page)
  | busy
  deriving DecidableEq, Repr

/-- LOGN of `cbar_base`. -/
def cbLogn (w : Word) : Nat := min 20 (w.toNat % 32)

/-- Finds the object and the slot of barrier `k` in a context, for reading or for updating. -/
def State.barrier (s : State) (d key : Nat) (pasid : BitVec 20) (super : Bool) (base : Word) (k : Nat) (acc : Acc) : State × BarAt :=
  let b := fieldN base.toNat 16 41 * 65536
  let obj := (b + 32 * k) % 2 ^ 57
  let slot := (b + 0x2000000 + 64 * k) % 2 ^ 57
  match translateP s d key pasid super 0 obj acc with
  | (s, .ok pa _ _, _) => match translateP s d key pasid super 0 slot acc with
    | (s, .ok pb _ _, _) => (s, .ok pa pb)
    | (s, .absent, _) => (s, .absent (pageOf pasid 0 slot))
    | (s, .busy, _) => (s, .busy)
    | (s, _, _) => (s, .perm)
  | (s, .absent, _) => (s, .absent (pageOf pasid 0 obj))
  | (s, .busy, _) => (s, .busy)
  | (s, _, _) => (s, .perm)

/-- Reads an object. -/
def State.cbar (s : State) (obj : Nat) : CBar := cbarOf (s.physRead obj 32)

/-! ### Ending a copy -/

/-- Lowers `cp` of the thread a copy belongs to. -/
def State.cpDown (s : State) (id : Nat) : State := s.modThread id fun t => { t with cntCp := t.cntCp - 1 }

/-- Where the error close of a copy goes (R78 step 2). -/
inductive CloseAt where
  /-- No close: no barrier, a number out of range, or pages that cannot be updated. -/
  | none
  | obj (pa : Nat)
  /-- The walkers complete no walk now. -/
  | busy
  deriving DecidableEq, Repr

/-- Finds the barrier that a copy ending in error closes. -/
def State.closeAt (s : State) (d cl : Nat) (c : Copy) : State × CloseAt :=
  let g := geoOf c.tmpl c.data
  if g.ck % 2 = 1 ∧ g.cb < 2 ^ cbLogn c.ctx.cbarBase then
    match s.barrier d (10000 + d * 16 + cl) c.pasid c.super c.ctx.cbarBase g.cb (.atomic 1 false) with
    | (s, .ok obj _) => (s, .obj obj)
    | (s, .busy) => (s, .busy)
    | (s, _) => (s, .none)
  else (s, .none)

/-- Sends an error close. -/
def State.sendClose (s : State) (d : Nat) : CloseAt → State
  | .obj pa => s.barUpdate d pa 1 0
  | _ => s

/-- Records a thread's most recent error on a channel (R73). -/
def State.setErr (s : State) (d cl ch id code : Nat) : State :=
  s.onChan d cl ch fun x => { x with errs := assocSet x.errs id (BitVec.ofNat 8 code) }

/-- Steps 3 and 4 of an error's end: the decrement, the counter, the code where no later command of the thread is on the channel, the event (R73, R78). -/
def State.copyError (s : State) (d cl ch : Nat) (c : Copy) (code : Nat) (recent : Bool) : State :=
  let s := match c.resv with
    | some h => s.taskDec h
    | none => s
  let s := if c.t = 0 then
      let s := s.onTask c.task fun t => { t with ended := 1, complP := t.complP ||| c.lines }
      match s.task? c.task with
      | some t => s.haltTask t (0x40 + code)
      | none => s
    else s.cpDown c.t
  (if recent then s.setErr d cl ch c.t code else s).monitor d 1

/-- Marks commands of a channel to end in error; one that already ends keeps its code. -/
def State.failCopies (s : State) (d cl ch code : Nat) (p : Copy → Bool) : State :=
  s.onChan d cl ch fun x => { x with cmds := x.cmds.map fun c => if p c && c.ending.isNone then { c with ending := some (code, false) } else c }

/-- Takes the next step toward the end of a channel's first command that ends in error: its close leaves; once that and the writes of its last sector are
performed, the command ends (R72, R78). -/
def State.endStep (s : State) (d cl ch : Nat) : State :=
  let cmds := (s.chan d cl ch).cmds
  match cmds.findIdx? fun c => c.ending.isSome with
  | none => s
  | some i => match cmds[i]? with
    | none => s
    | some c => match c.ending with
      | none => s
      | some (code, closed) =>
        if !closed then match s.closeAt d cl c with
          | (s, .busy) => s
          | (s, b) => (s.onChan d cl ch fun x => { x with cmds := x.cmds.set i { c with ending := some (code, true) } }).sendClose d b
        else if s.unperformed d then s
        else
          let recent := !((cmds.drop (i + 1)).any fun x => x.t == c.t)
          (s.onChan d cl ch fun x => { x with cmds := x.cmds.eraseIdx i }).copyError d cl ch c code recent

/-! ### Starting (R69, R70) -/

/-- Where a start's template lies. -/
inductive TmplAt where
  | bad | perm | busy
  | absent (p : Page)
  | here (pa : Nat) (trk : Bool)
  deriving DecidableEq, Repr

/-- Step 1 of a start for a thread (R70, R74). -/
def State.tmplFind (s : State) (t : Thread) (data : Word) : State × TmplAt :=
  let w := (s.ctx t.pasid).tmplBase
  let i := data.toNat % 4096
  if 2 ^ min 12 (w.toNat % 16) ≤ i then (s, .bad)
  else
    let va := (fieldN w.toNat 12 45 * 4096 + 64 * i) % 2 ^ 57
    match translateP s t.loc.die (tlbKey t) t.tpasid t.super 0 va .load with
    | (s, .ok pa e _, _) => (s, .here pa (entTrk e))
    | (s, .absent, _) => (s, .absent (pageOf t.tpasid 0 va))
    | (s, .busy, _) => (s, .busy)
    | (s, _, _) => (s, .perm)

/-- The engine's read of a line for a cluster: through its cluster store and slices, allocating nothing that its `str` policy does not hold. -/
def State.engineLine (s : State) (d cl : Nat) (p : Pc) : State × Fill := s.readLine d cl { p with pol := 3 }

/-- A copy command of a thread on its context's words. -/
def Copy.fresh (t : Thread) (x : Ctx) (tmpl : BitVec 512) (data : Word) : Copy :=
  let r := fieldN tmpl.toNat 336 3
  ⟨t.id, t.task, t.tpasid, t.super, tmpl, data, if r = 7 then t.ctl.rmode else BitVec.ofNat 3 r, 0, false, none, none, x, none, 0, none, none⟩

/-- The checks that the snapshot decides, in the manual's order: an error code (R70, R78). -/
def State.copyCheck (s : State) (d cl : Nat) (c : Copy) : Option Nat :=
  let g := geoOf c.tmpl c.data
  if !g.clean || g.rnd == 5 || g.rnd == 6 then some 1
  else if !convOk g.sf g.df then some 2
  else if g.spaceBad (s.cluster d cl).scratch then some 3
  else if g.ck % 2 = 1 ∧ 2 ^ cbLogn c.ctx.cbarBase ≤ g.cb then some 5
  else if 2 ≤ g.ck ∧ !s.decOk c.pasid g.task then some 6
  else if !g.aligned then some 8
  else none

/-- Whether a channel has no free command slot. -/
def State.chanFull (s : State) (d cl ch : Nat) : Bool := decide (Config.chanSlots ≤ (s.chan d cl ch).cmds.length)

/-- How a start went. -/
inductive Started where
  | done | full | busy
  | absent (p : Page)
  deriving DecidableEq, Repr

/-- A copy that its start's checks end in error at once, unless its close must wait for the walkers (R70, R78). -/
def State.copyFail (s : State) (d cl ch : Nat) (c : Copy) (code : Nat) : State × Started :=
  match s.closeAt d cl c with
  | (s, .busy) => (s, .busy)
  | (s, b) =>
    let s := s.modThread c.t fun t => { t with cntCp := t.cntCp + 1 }
    ((s.sendClose d b).copyError d cl ch c code true, .done)

/-- Puts a checked copy on its channel, or ends it in error at once. -/
def State.copyEnqueue (s : State) (d cl ch : Nat) (c : Copy) : State × Started :=
  match s.copyCheck d cl c with
  | some code => s.copyFail d cl ch c code
  | none =>
    let s := s.modThread c.t fun t => { t with cntCp := t.cntCp + 1 }
    let g := geoOf c.tmpl c.data
    let c := if 2 ≤ g.ck then { c with resv := some g.task } else c
    let s := if 2 ≤ g.ck then s.onTask g.task fun t => { t with resv := t.resv + 1 } else s
    (s.onChan d cl ch fun x => { x with cmds := x.cmds ++ [c], errs := x.errs.filter fun e => e.1 != c.t }, .done)

/-- A start that fails before a snapshot: an error with no barrier that it could name (R70). -/
def State.copyReject (s : State) (t : Thread) (ch : Nat) (code : Nat) : State :=
  let d := t.loc.die
  let cl := t.loc.cl
  (s.setErr d cl ch t.id code).monitor d 1

/-- A start from a template in memory, for one lane of a thread. -/
def State.startLane (s : State) (t : Thread) (ch : Nat) (data : Word) : State × Started :=
  let d := t.loc.die
  let cl := t.loc.cl
  match s.tmplFind t data with
  | (s, .absent p) => (s, .absent p)
  | (s, .busy) => (s, .busy)
  | (s, at_) =>
    if s.chanFull d cl ch then (s, .full)
    else match at_ with
      | .here pa trk =>
        let p : Pc := ⟨0, 0, pa, 0, 64, 3, trk, false, false, 0⟩
        match s.engineLine d cl p with
        | (s, .ok x) => (s.doneLines d cl [p]).copyEnqueue d cl ch (Copy.fresh t (s.ctx t.pasid) x data)
        | (s, .err) => (s.copyReject t ch 9, .done)
        | (s, .wait) => (s, .busy)
      | .perm => (s.copyReject t ch 4, .done)
      | _ => (s.copyReject t ch 1, .done)

/-! ### Running (R78, R80) -/

/-- The outcome of resolving a copy's bytes. -/
inductive EngRes where
  | ok (ps : List Pc)
  | absent (p : Page)
  | perm
  | busy
  deriving DecidableEq, Repr

/-- A channel's translation of one address: the one it keeps, or a walk. -/
def State.engineTrans (s : State) (d cl ch : Nat) (c : Copy) (sp va : Nat) (acc : Acc) : State × WalkRes :=
  let x := s.chan d cl ch
  let kept := if acc = .load then x.src else x.dst
  match kept.filter fun e => e.serves s c.pasid.toNat sp va c.super acc with
  | some e => (s, .ok (entPa e.ent e.sz.toNat va) e.ent e.sz.toNat)
  | none =>
    match walk s d c.pasid.toNat sp va c.super acc with
    | (s, .ok pa e sz) =>
      let t : TlbE := ⟨c.pasid, BitVec.ofNat 3 sp, BitVec.ofNat 2 sz, va / 2 ^ pageBits sz, e⟩
      (s.onChan d cl ch fun x => if acc = .load then { x with src := some t } else { x with dst := some t }, .ok pa e sz)
    | r => r

/-- A copy's vault access outside its context's window (R28). -/
def Copy.vaultBad (c : Copy) (ptr n : Nat) : Bool :=
  spaceOf ptr == 5 && !c.super && (decide (fieldN ptr 0 29 < c.ctx.vltBase.toNat) || decide (c.ctx.vltLimit.toNat < fieldN ptr 0 29 + n))

/-- Resolves `n` bytes of an operand. -/
def State.engineAt (s : State) (d cl ch : Nat) (c : Copy) (acc : Acc) (bpm ptr n : Nat) : State × EngRes :=
  let sp := spaceOf ptr
  if c.vaultBad ptr n then (s, .perm)
  else if sp = 4 then
    (s, .ok ((cutAt 16 (fieldN ptr 0 21) 0 n n).map fun p => ⟨0, 4, scratchKey d cl (physOff p.1 bpm), p.2.1, p.2.2, 0, false, false, false, p.1⟩))
  else if sp = 5 then
    (s, .ok ((cutAt 64 (fieldN ptr 0 29) 0 n n).map fun p => ⟨0, 5, vaultKey d p.1, p.2.1, p.2.2, 0, false, false, false, p.1⟩))
  else
    (cutAt 64 (fieldN ptr 0 57) 0 n n).foldl (fun (r : State × EngRes) p =>
      match r with
      | (s, .ok ps) =>
        match s.engineTrans d cl ch c sp p.1 acc with
        | (s, .ok pa e _) => (s, .ok (ps ++ [⟨0, sp, pa, p.2.1, p.2.2, 3, entTrk e && sp == 0, entMir e && entTrk e, entCmp e, p.1⟩]))
        | (s, .absent) => (s, .absent (pageOf c.pasid sp p.1))
        | (s, .busy) => (s, .busy)
        | (s, _) => (s, .perm)
      | r => r) (s, .ok [])

/-- The outcome of an engine's reading or writing. -/
inductive EngRd where
  | ok (v : Nat) | wait | data
  /-- No answer but an error: the line is LOST, or what it needs does not answer (R269, R443). -/
  | lost (p : Pc)
  deriving DecidableEq, Repr

/-- Reads pieces as a number. -/
def State.engineRead (s : State) (d cl : Nat) : List Pc → State × EngRd
  | [] => (s, .ok 0)
  | p :: ps =>
    let one : State × EngRd :=
      if p.sp = 4 ∨ p.sp = 5 then
        (s, if s.marked p.pa p.n then .data else .ok (ofBytes ((rangeFrom p.pa p.n).map s.mem.get)))
      else match s.engineLine d cl p with
        | (s, .ok x) => (s, .ok (fieldN x.toNat (8 * (p.pa % 64)) (8 * p.n)))
        | (s, .err) => (s, .lost p)
        | (s, .wait) => (s, .wait)
    match one with
    | (s, .ok v) =>
      match s.engineRead d cl ps with
      | (s, .ok w) => (s, .ok (v * 2 ^ (8 * p.off) + w))
      | r => r
    | r => r

/-- Writes one piece of a sector at its home (R78 step 1); a host line needs ownership first. -/
def State.engineWrite (s : State) (d cl : Nat) (p : Pc) (v : Nat) : State × EngRd :=
  let la := p.pa / 64
  if p.sp = 4 ∨ p.sp = 5 then
    ({ s with mem := (rangeFrom 0 p.n).foldl (fun m i => m.set (p.pa + i) (BitVec.ofNat 8 (v / 2 ^ (8 * i)))) s.mem
              bad := s.bad.filter fun k => !(decide (p.pa ≤ k) && decide (k + 8 ≤ p.pa + p.n)) }, .ok 0)
  else if p.sp = 7 then
    if s.homeGone d la then (s, .lost p) else (s.performComp d p (placed p v), .ok 0)
  else if p.sp = 1 then
    match s.trackedLine true d cl la false with
    | (s, .ok x) =>
      let s := s.setCline ⟨d, cl, la, 1, .tracked .m false, mergeLine x (pcMask p) (placed p v)⟩
      (((s.sync d la).watchWrite la).evictLine d cl la, .ok 0)
    | (s, .err) => (s, .lost p)
    | (s, .wait) => (s, .wait)
  else if s.lineLost la || s.homeGone d la then (s.countErr la, .lost p)
  else match s.home la with
    | .remote g =>
      ((s.forget d 4 la).askOff d (wrKey s.nextTx la) .remwr
        { mkMsg (s.maq.egress.getD g ⟨0, 0, 0⟩).die.toNat d la 0 with lines := [(pcMask p, placed p v)] }, .ok 0)
    | .dev h =>
      let s := match s.cline? d cl la with
        | some ⟨_, _, _, _, .tracked _ _, _⟩ => s
        | some _ => s.evictLine d cl la
        | none => s
      let s := if h = d then s else (s.l2Flush d la).dropL2 d la false
      let s := if p.cmp then s.markCmp la else s
      (if h = d then s.homeWrite la (pcMask p) (placed p v) else s.sendWrU d h la false (pcMask p) (placed p v), .ok 0)
    | _ => (s, .ok 0)

/-- Writes pieces of a number in order. -/
def State.engineWrites (s : State) (d cl : Nat) (v : Nat) : List Pc → State × EngRd
  | [] => (s, .ok 0)
  | p :: ps =>
    match s.engineWrite d cl p (fieldN v (8 * p.off) (8 * p.n)) with
    | (s, .ok _) => s.engineWrites d cl v ps
    | r => r

/-- Untracked device and remote lines of pieces: what a sector ORs into its slot (R78 step 2). -/
def sectorLines (ps : List Pc) : Patina :=
  (ps.filter fun p => (p.sp == 0 && !p.trk) || p.sp == 2).foldl (fun q p => patAdd q (p.pa / 64)) 0

/-- What a copy's next sector needs and writes: the source's pieces, and the destination's pieces and bytes of each stretch. -/
inductive Sector where
  | ok (src : List Pc) (xs : List (List Pc × Nat))
  | absent (p : Page)
  | perm | busy | data
  | lost (p : Pc)
  deriving DecidableEq, Repr

/-- Reads and converts the stretches of a sector. -/
def State.sectorRead (s : State) (d cl ch : Nat) (c : Copy) (g : Geo) : List (Nat × Nat × Nat) → State × Sector
  | [] => (s, .ok [] [])
  | (r, j0, j1) :: rest =>
    let n := g.need j0 j1
    match s.engineAt d cl ch c .load g.sbpm (g.srcRow r + n.1) n.2 with
    | (s, .ok sp) =>
      match s.engineAt d cl ch c .store g.dbpm (g.dstRow r + j0) (j1 - j0) with
      | (s, .ok dp) =>
        match s.engineRead d cl sp with
        | (s, .ok v) =>
          match s.sectorRead d cl ch c g rest with
          | (s, .ok ps xs) => (s, .ok (sp ++ ps) ((dp, g.convert c.rnd j0 j1 v) :: xs))
          | q => q
        | (s, .wait) => (s, .busy)
        | (s, .data) => (s, .data)
        | (s, .lost p) => (s, .lost p)
      | (s, .absent p) => (s, .absent p)
      | (s, .perm) => (s, .perm)
      | (s, .busy) => (s, .busy)
    | (s, .absent p) => (s, .absent p)
    | (s, .perm) => (s, .perm)
    | (s, .busy) => (s, .busy)

/-- Performs the writes of a sector. -/
def State.sectorWrite (s : State) (d cl : Nat) : List (List Pc × Nat) → State × EngRd
  | [] => (s, .ok 0)
  | x :: xs => match s.engineWrites d cl x.2 x.1 with
    | (s, .ok _) => s.sectorWrite d cl xs
    | r => r

/-- Replaces the running command of a channel. -/
def State.setHead (s : State) (d cl ch : Nat) (c : Copy) : State :=
  s.onChan d cl ch fun x => { x with cmds := match x.cmds with | [] => [] | _ :: r => c :: r }

/-- Takes the running command off a channel. -/
def State.dropHead (s : State) (d cl ch : Nat) : State := s.onChan d cl ch fun x => { x with cmds := x.cmds.drop 1 }

/-- Reports a page that the running copy waits for (R80). -/
def State.copyReport (s : State) (d cl ch : Nat) (p : Page) : State := s.pfPut d ⟨p, 2, BitVec.ofNat 64 (cl * 256 + ch), (s.die d).fclk⟩

/-- Stops the running copy on a page and reports it (R80). -/
def State.copyStop (s : State) (d cl ch : Nat) (c : Copy) (p : Page) : State :=
  (s.setHead d cl ch { c with stopped := some p, sent := none }).copyReport d cl ch p

/-- Stops the running copy on a line that answers with an error, and reports it as waiting on the line, by its page (R269). -/
def State.copyLost (s : State) (d cl ch : Nat) (c : Copy) (p : Pc) : State :=
  (s.setHead d cl ch { c with lostLine := some (p.pa / 64), sent := none }).copyReport d cl ch (pageOf c.pasid p.sp p.va)

/-- The barrier of a copy that counts bytes. -/
def State.copyBarrier (s : State) (d cl : Nat) (c : Copy) (g : Geo) : State × Option BarAt :=
  if g.ck % 2 = 1 then
    let r := s.barrier d (10000 + d * 16 + cl) c.pasid c.super c.ctx.cbarBase g.cb (.atomic 1 false)
    (r.1, some r.2)
  else (s, none)

/-- Reads the running copy's next sector and sends its writes (R78 step 1). -/
def State.sectorSend (s : State) (d cl ch : Nat) (c : Copy) (g : Geo) : State :=
  let e := min (c.committed + 256) g.total
  let fail := fun (s : State) code => s.setHead d cl ch { c with ending := some (code, false) }
  match s.sectorRead d cl ch c g (rowSegs g.rowBytes 257 c.committed e) with
  | (s, .busy) => s
  | (s, .absent p) => s.copyStop d cl ch c p
  | (s, .perm) => fail s 4
  | (s, .data) => fail s 9
  | (s, .lost p) => s.copyLost d cl ch c p
  | (s, .ok src xs) =>
    match s.sectorWrite d cl xs with
    | (s, .wait) => s
    | (s, .data) => s
    | (s, .lost p) => s.copyLost d cl ch c p
    | (s, .ok _) =>
      let pat := xs.foldl (fun q x => q ||| sectorLines x.1) (0 : Patina)
      (s.doneLines d cl src).setHead d cl ch { c with sent := some (e, pat, false) }

/-- Commits the running copy's sector, whose writes are performed: its lines go into the barrier's slot, and once they are there its bytes arrive (R78 steps
2 and 3). -/
def State.sectorCommit (s : State) (d cl ch : Nat) (c : Copy) (g : Geo) (e : Nat) (pat : Patina) (slotted : Bool) : State :=
  match s.copyBarrier d cl c g with
  | (s, some .busy) => s
  | (s, some (.absent p)) => s.copyStop d cl ch c p
  | (s, some .perm) => s.setHead d cl ch { c with ending := some (4, false) }
  | (s, bar) =>
    let done := fun (s : State) => s.setHead d cl ch { c with committed := e, lines := c.lines ||| pat, sent := none }
    match bar with
    | some (.ok obj slot) =>
      if slotted || pat = 0 then done (s.barUpdate d obj 0 (e - c.committed))
      else (s.setHead d cl ch { c with sent := some (e, pat, true) }).barUpdate d slot 3 pat.toNat
    | _ => done s

/-- The next step of a channel: a command that ends in error goes on to its end; else the running copy sends its next sector, or commits the one whose
writes are all performed (R78, R80). -/
def State.sectorStep (s : State) (d cl ch : Nat) : State :=
  if (s.chan d cl ch).cmds.any fun c => c.ending.isSome then s.endStep d cl ch else
  match (s.chan d cl ch).cmds.head? with
  | none => s
  | some c =>
    let g := geoOf c.tmpl c.data
    if !c.running || c.stopped.isSome || c.lostLine.isSome || decide (g.total ≤ c.committed) then s
    else match c.sent with
      | none => s.sectorSend d cl ch c g
      | some (e, pat, slotted) => if s.unperformed d then s else s.sectorCommit d cl ch c g e pat slotted

/-- Completes the running copy once its last sector has committed and arrived (R71, R79). -/
def State.copyFinish (s : State) (d cl ch : Nat) : State :=
  match (s.chan d cl ch).cmds.head? with
  | none => s
  | some c =>
    if c.running && c.ending.isNone && decide ((geoOf c.tmpl c.data).total ≤ c.committed) && !s.unperformed d then
      let s := s.dropHead d cl ch
      let s := match c.resv with
        | some h => s.taskDec h
        | none => s
      let s := if c.t = 0 then s.onTask c.task fun t => { t with ended := 1, complP := t.complP ||| c.lines } else s
      s.cpDown c.t
    else s

/-- COPY_SECTOR_COMMIT (R78). -/
def execCopySectorCommit (die cl ch : Nat) (s : State) : Out := .next (s.sectorStep die cl ch)

/-- COPY_COMPLETE (R71). -/
def execCopyComplete (die cl ch : Nat) (s : State) : Out := .next (s.copyFinish die cl ch)

/-- COPY_COMMAND_DEQUEUE (R69): the channel's next command begins to run. -/
def execCopyCommandDequeue (die cl ch : Nat) (s : State) : Out :=
  .next (s.onChan die cl ch fun x => { x with cmds := match x.cmds with | [] => [] | c :: r => { c with running := true } :: r })

/-! ### Abort and query (R72, R73) -/

/-- Aborts every command of a thread on a channel: each stops at its next sector boundary and ends (R72). -/
def State.abort (s : State) (t : Thread) (ch : Nat) : State := s.failCopies t.loc.die t.loc.cl ch 7 fun c => c.t == t.id

/-- The status that a query returns, and the channel after it. -/
def State.query (s : State) (t : Thread) (ch : Nat) : State × Word :=
  let d := t.loc.die
  let cl := t.loc.cl
  let x := s.chan d cl ch
  let mine := x.cmds.filter fun c => c.t == t.id
  let run := mine.find? fun c => c.running
  let err := assocD 0 x.errs t.id
  let v := (if run.isSome then 2 ^ 63 else 0) + (if err != 0 then 2 ^ 62 else 0) + (mine.countP fun c => !c.running) * 2 ^ 56
    + err.toNat * 2 ^ 48 + (run.map fun c => c.committed).getD 0 % 2 ^ 48
  (s.setChan { x with errs := x.errs.filter fun e => e.1 != t.id }, BitVec.ofNat 64 v)

/-- COPY_START (R70): one command of a thread; a full channel or an absent template starts nothing. -/
def execCopyStart (t : Nat) (ch : BitVec 3) (data : Word) (s : State) : Out :=
  .next (match s.thread? t with
    | some x => (s.startLane x ch.toNat data).1
    | none => s)

/-- COPY_ABORT (R72). -/
def execCopyAbort (t : Nat) (ch : BitVec 3) (s : State) : Out :=
  .next (match s.thread? t with
    | some x => s.abort x ch.toNat
    | none => s)

/-- COPY_QUERY (R73): the read that clears ERR. -/
def execCopyQuery (t : Nat) (ch : BitVec 3) (s : State) : Out :=
  .next (match s.thread? t with
    | some x => (s.query x ch.toNat).1
    | none => s)

end Sys2Proof.Machine
end

