-- ==== Sys2Proof/Machine/Traps.lean ====
section
/-! DEFINITION. Reading a save area back: `rett` (R342, R398), the delivery of PREEMPT (R405), copy records (R83), the entry of a restored
thread (R406). -/

namespace Sys2Proof.Machine

/-! ### Reading a save area -/

/-- Reads `64 * n` bytes from a 64-byte aligned PASID 0 address under hardware authority; a line whose page is not present or fails R34
reads as zeros (log 30). -/
def State.areaLines (s : State) (d key va : Nat) : Nat → State × Nat
  | 0 => (s, 0)
  | n + 1 =>
    let r := s.superRead d key va 64
    let q := r.1.areaLines d key (va + 64) n
    (q.1, r.2.getD 0 + q.2 * 2 ^ 512)

/-- A save area's first 0x1C00 bytes. -/
structure Area where
  v : Nat

/-- Bytes of an area. -/
def Area.f (a : Area) (o n : Nat) : Nat := fieldN a.v (8 * o) (8 * n)

/-- CODE. -/
def Area.code (a : Area) : Nat := a.f 0 2
/-- FLAGS. -/
def Area.flags (a : Area) : Nat := a.f 3 1
/-- RESTORE. -/
def Area.restore (a : Area) : Bool := bitN a.flags 1
/-- The record's PC. -/
def Area.pc (a : Area) : Nat := a.f 8 8
/-- GMASK. -/
def Area.gmask (a : Area) : Nat := a.f 24 1

/-- A token entry from its bits (R315). -/
def tokenOf (v : Nat) : Token := ⟨BitVec.ofNat 2 (fieldN v 62 2), BitVec.ofNat 4 (fieldN v 58 4), BitVec.ofNat 54 v⟩

/-- The slice blocks of a thread with `n` slices, with the group numbers as written. -/
def Area.slices (a : Area) (n : Nat) : List Slice :=
  (rangeFrom 0 n).map fun k =>
    let o := 0xE00 + 0x100 * k
    { pc := BitVec.ofNat 64 (a.f o 8), active := BitVec.ofNat 4 (a.f (o + 8) 1), live := BitVec.ofNat 4 (a.f (o + 9) 1)
      stack := ((rangeFrom 0 (min 16 (a.f (o + 11) 1))).map fun j => tokenOf (a.f (o + 16 + 8 * j) 8)).reverse
      grp := a.f (o + 10) 1, last := 0, wait := .none }

/-- The first live slice of a group number. -/
def firstGrp (g : Nat) : List Slice → Nat → Nat
  | [], k => k
  | x :: xs, k => if x.live != 0 && x.grp == g then k else firstGrp g xs (k + 1)

/-- Slices whose groups take the number of their first live slice; slices of one number that differ in their counters part (R314). -/
def regroupAll (sl : List Slice) : List Slice :=
  let sl := sl.map fun c => { c with grp := firstGrp c.grp sl 0 }
  sl.map fun c => { c with grp := firstAt c.grp c.pc sl 0 }

/-- A fault record of an area. The pages beyond the first and the issuing group are the hardware's own, kept from the open record of the
same number; without one they are the first page and the slices of LMASK. -/
def Area.frec (a : Area) (t : Thread) (i : Nat) : Option FRec :=
  let o := 0x200 + 0x200 * i
  if a.f o 1 % 2 = 0 then none
  else
    let pc := BitVec.ofNat 64 (a.f (o + 8) 8)
    let lm : W32 := BitVec.ofNat 32 (a.f (o + 4) 4)
    let old := t.frs.find? fun r => r.idx == i && r.pc == pc
    let page : Page := ⟨t.pasid, BitVec.ofNat 3 (a.f (o + 16) 1), BitVec.ofNat 41 (a.f (o + 24) 8 / 65536)⟩
    some ⟨i, BitVec.ofNat 8 (a.f (o + 1) 1), BitVec.ofNat 16 (a.f (o + 2) 2), lm, pc,
      (old.map fun r => r.pages).getD [page], (lanesOf lm).map fun l => (l, BitVec.ofNat 64 (a.f (o + 0x100 + 8 * l) 8)),
      (old.map fun r => r.gmask).getD (BitVec.ofNat 8 ((rangeFrom 0 8).foldl (fun m k => if sliceBits lm k = 0 then m else m + 2 ^ k) 0))⟩

/-- The control words, poison bits and patina of an area's thread header (R398). A mode code that is unassigned leaves `rmode`. -/
def Thread.loadHeader (t : Thread) (a : Area) : Thread :=
  let h := fun o n => a.f (0xA00 + o) n
  { t with
    ctl := { t.ctl with
      rmode := if h 0 8 % 8 ≤ 4 then BitVec.ofNat 3 (h 0 8) else t.ctl.rmode
      fflags := BitVec.ofNat 5 (h 8 8)
      tagchk := bitN (h 0x10 8) 0
      bpm := BitVec.ofNat 4 (h 0x18 8)
      mxerr := BitVec.ofNat 18 (h 0x20 8)
      dbgctl := baseMask 63 6 0 (BitVec.ofNat 64 (h 0x28 8))
      patina := BitVec.ofNat 512 (h 0x80 64) }
    regs := { t.regs with rpois := BitVec.ofNat 64 (h 0x38 8), ppois := BitVec.ofNat 16 (h 0x40 2) &&& 0xFFFE }
    apDone := BitVec.ofNat 32 (h 0x4C 4) }

/-! ### Copy records (R83) -/

/-- A copy's 128-byte record. -/
def Copy.record (c : Copy) (ch : Nat) : Nat :=
  let r := fieldN c.tmpl.toNat 336 3
  let tm := c.tmpl.toNat - r * 2 ^ 336 + (if r = 7 then c.rnd.toNat else r) * 2 ^ 336
  tm + c.data.toNat * 2 ^ 512 + c.committed * 2 ^ 576 + ch * 2 ^ 640
    + (if c.stopped.isSome then 2 else if c.running then 1 else 0) * 2 ^ 648

/-- A thread's copies with their channels: running ones first, then the queued ones in queue order. -/
def State.copiesOf (s : State) (t : Thread) : List (Nat × Copy) :=
  let mine := ((rangeFrom 0 8).map fun ch => ((s.chan t.loc.die t.loc.cl ch).cmds.filter fun c => c.t == t.id).map fun c => (ch, c)).flatten
  mine.filter (fun x => x.2.running) ++ mine.filter fun x => !x.2.running

/-- A copy from its record, as its engine takes it up again: it waits in the queue, at its committed position. -/
def Copy.ofRec (t : Thread) (x : Ctx) (v : Nat) : Nat × Copy :=
  let tm : BitVec 512 := BitVec.ofNat 512 v
  let data : Word := BitVec.ofNat 64 (fieldN v 512 64)
  let g := geoOf tm data
  (fieldN v 640 3, ⟨t.id, t.task, t.pasid, t.pasid == 0, tm, data, BitVec.ofNat 3 (fieldN v 336 3), fieldN v 576 64, false, none, none, x,
    if 2 ≤ g.ck then some g.task else none, 0, none, none⟩)

/-- The copy records of the save area at an address, for a thread. -/
def State.copyRecs (s : State) (t : Thread) (area : Nat) : State × List (Nat × Copy) :=
  let d := t.loc.die
  let r := s.areaLines d (tlbKey t) (area + 0xA40) 1
  let n := min 128 (fieldN r.2 16 8)
  let q := r.1.areaLines d (tlbKey t) (area + 0x2000) (2 * n)
  (q.1, (rangeFrom 0 n).map fun i => Copy.ofRec t (q.1.ctx t.pasid) (fieldN q.2 (1024 * i) 1024))

/-- Whether every channel of a cluster has room for a list of copies. -/
def State.chanRoom (s : State) (d cl : Nat) (cs : List (Nat × Copy)) : Bool :=
  (rangeFrom 0 8).all fun ch => decide ((s.chan d cl ch).cmds.length + cs.countP (fun x => x.1 == ch) ≤ Config.chanSlots)

/-- Puts copies back on a cluster's channels. -/
def State.requeue (s : State) (d cl : Nat) (cs : List (Nat × Copy)) : State :=
  cs.foldl (fun s x => s.onChan d cl x.1 fun c => { c with cmds := c.cmds ++ [x.2] }) s

/-! ### rett -/

/-- Bytes of the unit at a tenant's counter: 16 where its first word is a prefix (R132); none while the walkers complete no walk. -/
def State.unitLenAt (s : State) (t : Thread) (pc : Nat) : State × Option Nat :=
  match translateP s t.loc.die (tlbKey t) t.pasid (t.pasid == 0) 0 (pc % 2 ^ 57) .fetch with
  | (s, .ok pa _ _, _) => (s, some (if fieldN (s.physRead pa 8) 62 2 = 2 then 16 else 8))
  | (s, .busy, _) => (s, none)
  | (s, _, _) => (s, some 8)

/-- The thread as `rett` leaves it, from its area (R398): slices, records, control words, patina, poison; the handler bank switches out, and a STEP
that was due at entry is due again. -/
def Thread.resume (t : Thread) (a : Area) (skip : Nat) : Thread :=
  let t1 := t.loadHeader a
  let t2 : Thread := if t.handler then { t1 with regs := t1.regs.swapBank } else t1
  let sl := (a.slices t.nsl).zipIdx.map fun x =>
    let c := if x.1.live != 0 && t.steps.getLsbD x.2 then { x.1 with wait := .step } else x.1
    if skip != 0 && bitN a.gmask x.2 then { c with pc := BitVec.ofNat 64 (a.pc + skip) } else c
  let wasParked := !t.parkPc.isEmpty
  let t3 : Thread := { t2 with
    regs := { t2.regs with rpois := BitVec.ofNat 64 (a.f 0xA38 8) }
    slices := regroupAll sl
    frs := (rangeFrom 0 4).filterMap (a.frec t)
    handler := false
    steps := 0
    noWatch := true
    saved := false
    restoring := false }
  let again := a.code == 5 || (a.code == 0x14 && wasParked && t.missing.isEmpty)
  -- a parked thread whose missing-page count is 0 restarts at once (R402)
  if again && (!t.missing.isEmpty || !t3.frs.isEmpty) then
    ({ t3 with parked := true, parkPc := t3.slices.map fun c => c.pc } : Thread).restart
  else { t3 with parkPc := [] }

/-- Whether live slices' counters are targets that a trap return may take: the first fault found (R132). -/
def pcBad (sl : List Slice) : Option Exc :=
  let bad := fun (f : Nat → Bool) => sl.find? fun c => c.live != 0 && f c.pc.toNat
  match bad fun p => p % 8 != 0 with
  | some c => some (.trap cALIGN c.pc.toNat 0)
  | none => (bad fun p => spaceOf p != 0).map fun c => .trap cADDR c.pc.toNat 0

/-- `rett` (R342, R398). -/
def execRett (sa : BitVec 10) (skip : Bool) (s : State) : Out :=
  let step := s.cur.ctl.dbgctl.getLsbD 63 && !s.cur.handler
  .next (s.unit 8 false noGd fun act => do
    if act = 0 then pure .seq
    else
      superOnly
      if rPois s sa then pure .seq
      else
        let p := (rVal s sa).toNat
        stopIf (spaceOf p != 0 || fieldN p 57 3 != 0) (.trap cADDR p 0)
        stopIf (p % 64 != 0) (.trap cALIGN p 0)
        let (_, miss) ← resolve .load 0 0 1 [(0, p, 0x1C00)]
        if !miss.isEmpty then parkPages 1 2 (miss.map fun m => m.2.1)
        let t := s.cur
        let v ← liftS fun s => s.areaLines t.loc.die (tlbKey t) p 112
        let a : Area := ⟨v⟩
        stopIf (a.code == 0 || decide (0x15 < a.code) || bitN a.flags 3) (.trap cPERM 0 0)
        let decline := a.code == 0x14 && !a.restore
        stopIf (decline && s.clusterTask t.task) (.trap cPERM 0 0)
        let n ← if skip then (do
            match ← liftS fun s => s.unitLenAt t a.pc with
            | some n => pure n
            | none => hold) else pure 0
        match pcBad (t.resume a n).slices with
        | some e => stop e
        | none => pure ()
        if decline then
          let cs ← liftS fun s => s.copyRecs t p
          let s ← getS
          stopIf (!s.chanRoom t.loc.die t.loc.cl cs) (.hold true)
          modS fun s => (s.requeue t.loc.die t.loc.cl cs).onCur fun t => { t with cntCp := t.cntCp + cs.length }
        modS fun s => { s.onCur (fun t => t.resume a n) with issued := s.issued + 1 }
        if a.code == 0x14 && a.restore then
          let s ← getS
          acquire 3 s.cur.ctl.patina false
        if step then modS fun s => s.takeTrap 0x12 0 0 0 act (s.cur.pcOf (lowGrp s.cur)) (s.cur.gslices (lowGrp s.cur))
        stop .waits)
where
  /-- The number of a thread's lowest live group. -/
  lowGrp (t : Thread) : Nat := (t.slices.find? fun c => c.live != 0).elim 0 fun c => c.grp

/-! ### PREEMPT (R405) -/

/-- Makes a resident thread the current one. -/
def State.focus (s : State) (id : Nat) : State :=
  if s.cur.resident && s.cur.id == id then s
  else match s.others.find? fun t => t.id == id with
    | some t =>
      let rest := s.others.filter fun x => x.id != id
      { s with cur := t, others := if s.cur.resident then s.cur :: rest else rest
               curGrp := (t.slices.find? fun c => c.live != 0).elim 0 fun c => c.grp }
    | none => s

/-- Four handles and keys for each lane (R396). -/
def Thread.cohortBytes (t : Thread) : Nat :=
  (rangeFrom 0 32).foldl (fun a l =>
    let ms := t.memb.filter fun m => m.lane == l
    a + (rangeFrom 0 4).foldl (fun b j => b + (match ms[j]? with
      | some m => m.handle + m.key.toNat * 2 ^ 32
      | none => 0xFFFFFFFF) * 2 ^ (64 * j)) 0 * 2 ^ (256 * l)) 0

/-- Waiting instructions as the delivery leaves them (R196, R359): a sleep ends with reason 2, a pause resumes after itself, what else waits
is abandoned and its counter names it. -/
def Thread.dropWaits (t : Thread) : Thread :=
  let t := if t.sleep.isSome then t.wake 2 else t
  { t with watch := none, slices := t.slices.map fun c => { c with wait := c.wait.kept } }

/-- A halted thread ends as `exit` ends one; it is not saved (R395). -/
def State.endHalted (s : State) (id : Nat) : State :=
  (s.leaveAll id (BitVec.allOnes 32)).modThread id fun t => { t with
    saved := false, preempt := false, memb := []
    slices := t.slices.map fun c => { c with live := 0, active := 0, stack := [], wait := .none } }

/-- Delivers PREEMPT to the current thread: copies leave their channels, with what they have not committed discarded (R83), everything of R396
is written, the handler is entered. While the walkers complete no walk for the save area, the delivery waits (R385). -/
def State.takePreempt (s : State) : State :=
  let (s, ready) := s.areaTouch s.cur 1
  if !ready then s else
  let s := (s.abandonWaits s.cur.id).onCur fun t => { t.dropWaits with preempt := false }
  let t := s.cur
  let d := t.loc.die
  let cs := s.copiesOf t
  let g := (t.slices.find? fun c => c.live != 0).elim 0 fun c => c.grp
  let vec := vecPc (s.die d).trapvec
  let rec_ := s.csaAddr t
  let double := vec == 0
  let hdr := recHeader t 0x0014 0 (if double then 8 else 0) 0 (t.mask g) (t.pcOf g) (t.gslices g)
  let s := s.areaWrite t (entryBytes s t hdr cs.length)
  if double then (s.onCur fun t => { t with halted := true }).monitor d 6
  else
    let s := s.areaWrite t ((0x1600, t.cohortBytes, 1024) :: cs.zipIdx.map fun x => (0x2000 + 128 * x.2, x.1.2.record x.1.1, 128))
    let s := { s with chans := s.chans.map fun (c : Chan) => if c.die == d && c.cl == t.loc.cl then { c with cmds := c.cmds.filter fun (k : Copy) => k.t != t.id } else c }
    let parked := t.parked
    { s.onCur (fun t => { t.enter rec_ 0x0014 vec with
        saved := true, cntCp := t.cntCp - cs.length, parkPc := if parked then t.parkPc else [] }) with curGrp := 0 }

/-- The instruction that a slice of a thread stands at, where its translation is at hand. -/
def State.unitAt (s : State) (t : Thread) (pc : Nat) : Option Instr :=
  match translateP s t.loc.die (tlbKey t) t.tpasid t.super 0 (pc % 2 ^ 57) .fetch with
  | (s, .ok pa _ _, _) => match decodeUnit (if t.arm then .armature else .full) (BitVec.ofNat 64 (s.physRead pa 8)) (BitVec.ofNat 64 (s.physRead (pa + 8) 8)) with
    | .ok i => some i
    | .error _ => none
  | _ => none

/-- The instructions that complete, once issued, before their context counts as saved (R196). -/
def finishes : Instr → Bool
  | .srel .. => true
  | .sacq .. => true
  | .pclr .. => true
  | .dcf .. => true
  | _ => false

/-- Whether a thread has sent or recorded atomics of an instruction that is not complete. -/
def State.offOpen (s : State) (t : Thread) : Bool := s.sdir.any fun e => e.die == t.loc.die && isOffKey t.id e.la

/-- Whether an answer to a thread's atomics is still under way. -/
def State.offPending (s : State) (t : Thread) : Bool :=
  s.sdir.any fun e => e.die == t.loc.die && isOffKey t.id e.la && e.req.any fun q => q.data.isNone && !q.err

/-- Whether a waiting slice's instruction completes before PREEMPT is delivered: an atomic some of whose lanes are performed, or one of R196. -/
def State.mustFinish (s : State) (t : Thread) (c : Slice) : Bool :=
  c.live != 0 && (match c.wait with | .again _ => true | _ => false) && (s.offOpen t || (s.unitAt t c.pc.toNat).any finishes)

/-- Whether the delivery of PREEMPT waits: for an instruction, an answer under way, or a copy that ends in error. -/
def State.preemptWaits (s : State) (t : Thread) : Bool :=
  s.offPending t || t.slices.any (s.mustFinish t) || s.chans.any fun c => c.die == t.loc.die && c.cl == t.loc.cl && c.cmds.any fun k => k.t == t.id && k.ending.isSome

/-- PREEMPT_TAKE (R405): at an issue boundary outside handler mode; a halted thread ends. -/
def execPreemptTake (t : Nat) (s : State) : Out :=
  .next (match s.thread? t with
    | some x =>
      if !x.preempt then s
      else if x.halted then s.endHalted t
      else if x.handler || s.preemptWaits x then s
      else (s.focus t).takePreempt
    | none => s)

/-! ### Entry of a restored thread (R406) -/

/-- The restored thread in handler mode: the tenant's names 56 to 63 come from the area into the bank that is switched out, and the live
lanes and token stacks from the slice blocks. Until its `rett` an `exit` ends it as saved again (R405). -/
def Thread.restored (t : Thread) (a : Area) (vec : Word) (rec_ : Nat) (ncopy : Nat) : Thread :=
  let bank := (rangeFrom 0 8).foldl (fun r k => r.wrR (56 + k) (BitVec.ofNat 64 (a.f (0xC00 + 8 * (56 + k)) 8))) Regs.start
  let steps := t.steps
  let t : Thread := { t with regs := bank, slices := regroupAll (a.slices t.nsl), outs := [], cntCp := ncopy, cntMx := 0, restoring := true, saved := true }
  { t.enter rec_ 0x0014 vec with steps := steps }

/-- Sets RESTORE in a record's FLAGS, and its CODE to PREEMPT. -/
def State.markRestore (s : State) (t : Thread) : State := s.areaWrite t [(0, 0x02000014, 4)]

end Sys2Proof.Machine
end

