-- ==== Sys2Proof/Machine/Sched.lean ====
section
/-! DEFINITION. The task scheduler and the dispatcher (chapter 16): spawn records and `spawn` (R345 to R347), records entering the window
(R364 to R367), placement (R53 to R56, R371 to R374), the end of threads and tasks (R335, R368), restores (R406). -/

namespace Sys2Proof.Machine

/-! ### Spawn records (R345, R346) -/

/-- Whether bytes [a, b) of a record are all zero. -/
def recZ (im : BitVec 2048) (a b : Nat) : Bool := recF im a (b - a) == 0

/-- An entry PC that R346 refuses. -/
def badPc (p : Nat) : Bool := p % 8 != 0 || spaceOf p != 0

/-- A role that R346 refuses. -/
def roleBad (im : BitVec 2048) (r : Bool) : Bool :=
  let x := recRole im r
  let o := if r then 96 else 64
  x.slices == 0 || decide (8 < x.slices) || x.regs == 0 || decide (32 < x.regs) || decide (64 < x.tiles) || x.gangs == 0
    || decide (65535 < x.gangs) || badPc x.entry || !recZ im (o + 15) (o + 32)

/-- BAD_RECORD. -/
def recBad (im : BitVec 2048) : Bool :=
  let n := recRoles im
  recF im 0 1 != 1 || n == 0 || decide (2 < n) || decide (2 < recF im 2 1) || decide (15 < recF im 3 1) || decide (64 < recNN im)
    || decide (1 < recF im 5 1) || !recZ im 6 8 || decide (2 ^ 20 ≤ recF im 8 4) || badPc (recF im 16 8)
    || (!recArm im && recF im 16 8 != 0) || recF im 40 4 % 4 != 0 || !recZ im 44 64 || !recZ im 224 256
    || roleBad im false || (if n = 1 then !recZ im 96 128 else roleBad im true)

/-- The used ranges: base, length, and whether it is written. -/
def recRanges (im : BitVec 2048) : List (Nat × Nat × Bool) :=
  ((rangeFrom 0 6).map fun i => (recF im (128 + 16 * i) 8, recF im (136 + 16 * i) 8, decide (4 ≤ i))).filter fun r => r.2.1 != 0

/-- RANGE. -/
def rangeBad (r : Nat × Nat × Bool) : Bool := !([0, 1, 2, 7].contains (spaceOf r.1)) || decide (2 ^ 48 ≤ r.2.1)

/-- The checks of R346 that the record decides: the first failing status, 0 when it passes. -/
def spawnStatus (im : BitVec 2048) (issuer : BitVec 20) (super : Bool) : Nat :=
  let p := recF im 8 4
  if recBad im then 1
  else if p ≠ 0 ∧ p ≠ issuer.toNat ∧ !super then 2
  else if recF im 3 1 = 15 then 3
  else if (recRanges im).any rangeBad then 4
  else 0

/-- The context that a record names. -/
def recPasid (im : BitVec 2048) (issuer : BitVec 20) : BitVec 20 := let p := recF im 8 4; if p = 0 then issuer else BitVec.ofNat 20 p

/-- The gangs of a record in the order in which they are placed: role, index. -/
def recGangs (im : BitVec 2048) : List (Bool × Nat) :=
  (rangeFrom 0 (recRole im false).gangs).map (fun g => (false, g)) ++
    if recRoles im = 2 then (rangeFrom 0 (recRole im true).gangs).map (fun g => (true, g)) else []

/-- The threads of a record. -/
def recThreads (im : BitVec 2048) : Nat := (recGangs im).length + if recArm im then 1 else 0

/-! ### Fitting gangs into partitions (R372) -/

/-- What a gang takes of a cluster. -/
structure Occ where
  cl : Nat
  core : Nat
  part : Nat
  slot : Nat
  rbase : Nat
  allot : Nat
  tiles : Nat
  deriving DecidableEq, Repr

/-- What the resident gangs of a die take. -/
def State.occ (s : State) (d : Nat) : List Occ :=
  (s.threads.filter fun t => t.loc.die == d && !t.arm).map fun t =>
    ⟨t.loc.cl, t.loc.core, t.loc.part, t.loc.slot, t.rbase, t.allot, if t.resvHeld then t.resv else 0⟩

/-- The first register of the run that a gang of a role takes in a partition: the lowest fitting one, or the highest. -/
def runFor (here : List Occ) (role : Bool) (n : Nat) : Option Nat :=
  let free := fun b => here.all fun o => decide (o.rbase + o.allot ≤ b) || decide (b + n ≤ o.rbase)
  let bases := (rangeFrom 0 (33 - n / 32)).map (32 * ·)
  (if role then bases.reverse else bases).find? free

/-- Whether a gang fits a partition, and what it takes. -/
def fitPart (occ : List Occ) (cl core part : Nat) (role : Bool) (r : Role) : Option Occ :=
  let here := occ.filter fun o => o.cl == cl && o.core == core && o.part == part
  let tiles := (occ.filter fun o => o.cl == cl && o.core == core).foldl (fun n o => n + o.tiles) 0
  match (rangeFrom 0 32).find? fun k => here.all fun o => o.slot != k with
  | none => none
  | some slot =>
    if Config.coreTiles < tiles + r.tiles then none
    else (runFor here role (32 * r.regs)).map fun b => ⟨cl, core, part, slot, b, 32 * r.regs, r.tiles⟩

/-- The first partition that a gang fits, from candidate `q` on. -/
def seekPart (occ : List Occ) (cls : List Nat) (role : Bool) (r : Role) (q : Nat) : Nat → Option Occ
  | 0 => none
  | n + 1 =>
    let p := 128 * cls.length
    let k := if p = 0 then 0 else q % p
    match cls[k / 128]? with
    | none => none
    | some cl => match fitPart occ cl (k % 128 / 32) (k % 32) role r with
      | some o => some o
      | none => seekPart occ cls role r (q + 1) n

/-- Where gang `g` of a role goes among candidate clusters. -/
def seek (occ : List Occ) (cls : List Nat) (role : Bool) (r : Role) (g : Nat) : Option Occ :=
  seekPart occ cls role r g (128 * cls.length)

/-- Whether every gang of a list fits at once. -/
def fitAll (im : BitVec 2048) (cls : List Nat) : List (Bool × Nat) → List Occ → Bool
  | [], _ => true
  | (r, g) :: rest, occ => match seek occ cls r (recRole im r) g with
    | some o => fitAll im cls rest (o :: occ)
    | none => false

/-- Clusters that a die has enabled and not retired. -/
def State.liveClusters (s : State) (d : Nat) : List Nat := (rangeFrom 0 10).filter fun c => (s.cluster d c).enabled && !(s.cluster d c).retired

/-- The progress class of a record can be honoured on an idle die (R371). -/
def State.progressOk (s : State) (d : Nat) (im : BitVec 2048) (pasid : BitVec 20) : Bool :=
  if recF im 2 1 < 2 then true
  else
    let cls := (s.liveClusters d).filter fun c => pasid == 0 || c != 0
    let cls := if recCluster im then cls.take 1 else cls
    !cls.isEmpty && fitAll im cls (recGangs im) []

/-! ### Tasks -/

/-- A handle that names no task (R346). -/
def State.freshHandle (s : State) : BitVec 32 :=
  ((rangeFrom 0 (s.tasks.length + 3)).map fun k => s.nextTask + BitVec.ofNat 32 k).find?
    (fun h => h != 0 && h != BitVec.allOnes 32 && !(s.tasks.any fun t => t.h == h)) |>.getD 1

/-- Creates a task from a record, not yet in the window. -/
def State.newTask (s : State) (d : Nat) (pasid qpasid : BitVec 20) (qn : BitVec 16) (im : BitVec 2048) (pos : Nat) (bySpawn : Bool)
    (spawnP : Patina) (ctx : Ctx) : State × BitVec 32 :=
  let h := s.freshHandle
  let x := if recF im 0 1 = 3 then 0 else recF im 12 4
  ({ s with nextTask := h + 1
            tasks := s.tasks ++ [⟨h, d, pasid, qpasid, qn, im, .accepted, x, 0, pos, bySpawn, [], 0, [], 0, spawnP, 0, 0, ctx, none⟩] }, h)

/-! ### spawn (R346, R347) -/

/-- The status of a submission and, when it is accepted, the queue that takes it; a bad control block is halted at the lookup (R362). -/
def State.submit (s : State) (d : Nat) (im : BitVec 2048) (issuer : BitVec 20) (super : Bool) (qn : Nat) : State × Nat × Option Qcb :=
  let st := spawnStatus im issuer super
  if st ≠ 0 then (s, st, none)
  else match s.findQueue d (recPasid im issuer).toNat qn with
    | none => (s, 5, none)
    | some q =>
      if q.bad then (s.sched q.die fun s => s.haltQueue q q.head 1, 6, none)
      else if q.halt || decide (2 ^ q.rlogn ≤ q.count) then (s, 6, none)
      else if !s.progressOk q.die im (recPasid im issuer) then (s, 7, none)
      else (s, 0, some q)

/-- The queue number that `spawn` names: s[SB][15:0], or the immediate as it stands (R346). -/
def queueNo (s : State) : Src → Nat
  | .imm v => ctlVal s (.imm v)
  | .wide v => ctlVal s (.wide v)
  | sb => ctlVal s sb % 65536

/-- `spawn` (R346, R347). -/
def execSpawn (dst sa : BitVec 10) (sb : Src) (s : State) : Out :=
  .next (s.unitSeq (srcLen sb) false noGd fun _ => do
    let s ← getS
    stopIf (rPois s sa || ctlPois s sb) (.park 0)
    let p := (rVal s sa).toNat
    let (ps, miss) ← resolve .load 0 0 64 [(0, p, 256)] (fun _ => true) (fun q => spaceOf q == 0)
    watchTrap false [(0, p, 256)]
    if !miss.isEmpty then parkPages 1 2 (miss.map fun m => m.2.1)
    let xs ← readPcs ps
    stopIf (xs.any fun x => x.2.isNone) (.trap cLOST 0 0)
    let im : BitVec 2048 := BitVec.ofNat 2048 (laneVal xs 0)
    let qn := queueNo s sb
    let s ← getS
    let t := s.cur
    let (st, q) ← liftS fun s => s.submit t.loc.die im t.pasid t.super qn
    match q with
    | none => setR dst (BitVec.ofNat 64 (st * 2 ^ 56))
    | some q =>
      release 3
      let pas := recPasid im t.pasid
      let h ← liftS fun s => s.newTask q.die pas pas (BitVec.ofNat 16 qn) im q.tail true t.ctl.patina .unset
      modS fun s => (s.physWrite (q.slot q.tail) (bytesN im.toNat 256)).physWrite (q.pa + 40) (bytesN ((q.tail + 1) % 2 ^ 64) 8)
      clearPatina
      setR dst (h.setWidth 64))

/-! ### Records entering the window (R364 to R367) -/

/-- The bits of a control block that no producer writes: all but TAIL. -/
def blockStamp (w : Nat) : Nat := w - fieldN w 320 64 * 2 ^ 320

/-- Whether a control block has been rewritten since the scheduler saw or left it last: TAIL only ever rises (R364; log 49). -/
def rewritten (old new : Nat) : Bool :=
  blockStamp old != blockStamp new || decide (2 ^ 63 ≤ (fieldN new 320 64 + 2 ^ 64 - fieldN old 320 64) % 2 ^ 64)

/-- A queue whose control block the supervisor has rewritten starts afresh: its lists and its retired patina are dropped (R368), and of the tasks that
`spawn` submitted those whose positions the ring no longer holds (R364). -/
def State.freshQueue (s : State) (d : Nat) (pasid : BitVec 20) (qn : BitVec 16) : State :=
  let k := s.queue d pasid qn
  match s.schedQueue d pasid.toNat qn.toNat with
  | some q =>
    if k.seen = some q.w then s
    else if (k.seen.map fun w => rewritten w q.w) = some true then
      let gone := fun (t : Task) => t.st == .accepted && t.bySpawn && t.die == d && t.qpasid == pasid && t.qn == qn
        && decide (q.count ≤ (t.pos + 2 ^ 64 - q.head) % 2 ^ 64)
      { s.setQueue { k with halted := q.halt, lists := [], pq := 0, page := none, seen := some q.w } with tasks := s.tasks.filter fun t => !gone t }
    else s.setQueue { k with seen := some q.w }
  | none => s

/-- The next record of a queue. -/
inductive NextRec where
  | none
  | bad (q : Qcb)
  | perm (q : Qcb)
  | absent (p : Page)
  | ok (q : Qcb) (im : BitVec 2048)

/-- Finds the next record of a queue: nothing while it is halted, empty, held on a page, or its window is full. -/
def State.nextRec (s : State) (d : Nat) (pasid : BitVec 20) (qn : BitVec 16) : State × NextRec :=
  let k := s.queue d pasid qn
  let win := s.tasks.filter fun t => t.inWin && t.die == d
  match s.schedQueue d pasid.toNat qn.toNat with
  | none => (s, .none)
  | some q =>
    if q.halt || q.count = 0 || s.stoppedM d 0 then (s, .none)
    else if q.bad then (s, .bad q)
    else if k.page.isSome || decide (4096 ≤ win.length)
        || decide (64 ≤ win.countP fun t => t.qpasid == pasid && t.qn == qn) then (s, .none)
    else match k.lists with
      | [] => (s, .ok q (BitVec.ofNat 2048 (s.physRead (q.slot q.head) 256)))
      | (addr, _, i) :: _ =>
        let va := (fieldN addr.toNat 0 57 + 256 * i) % 2 ^ 57
        match walk s d pasid.toNat 0 va (pasid == 0) .load with
        | (s, .ok pa _ _) => (s, .ok q (BitVec.ofNat 2048 (s.physRead pa 256)))
        | (s, .absent) => (s, .absent (pageOf pasid 0 va))
        | (s, .busy) => (s, .none)
        | (s, _) => (s, .perm q)

/-- Moves the open lists past the entry just taken; answers whether the ring moves too. -/
def bumpLists : List (Word × Nat × Nat) → List (Word × Nat × Nat) × Bool
  | [] => ([], true)
  | (a, n, i) :: rest => if i + 1 < n then ((a, n, i + 1) :: rest, false) else bumpLists rest

/-- A record has been taken: the list or HEAD moves on (R366). -/
def State.tookRec (s : State) (q : Qcb) : State :=
  let k := s.queue q.die (BitVec.ofNat 20 q.pasid) (BitVec.ofNat 16 q.qn)
  let r := bumpLists k.lists
  let s := s.setQueue { k with lists := r.1 }
  if r.2 then
    let s := s.physWrite (q.pa + 32) (bytesN ((q.head + 1) % 2 ^ 64) 8)
    s.setQueue { s.queue q.die (BitVec.ofNat 20 q.pasid) (BitVec.ofNat 16 q.qn) with seen := some (s.qcb q.pa).w }
  else s

/-- A range rounded out to granules of 256 bytes. -/
def granules (r : Nat × Nat × Bool) : Nat × Nat × Bool := (r.1 / 256 * 256, (r.1 + r.2.1 + 255) / 256 * 256, r.2.2)

/-- Whether two records conflict (R367). -/
def conflict (a b : BitVec 2048) : Bool :=
  (recRanges a).any fun x => (recRanges b).any fun y =>
    let p := granules x
    let q := granules y
    (x.2.2 || y.2.2) && spaceOf x.1 == spaceOf y.1 && decide (p.1 < q.2.1) && decide (q.1 < p.2.1)

/-- A task enters the window: its predecessors are counted (R367), and its start takes the spawn patina and P_Q (R368). -/
def State.enterWindow (s : State) (h : BitVec 32) : State :=
  match s.task? h with
  | none => s
  | some t =>
    let before := s.tasks.filter fun x => x.inWin && x.die == t.die && x.qpasid == t.qpasid && x.qn == t.qn
    let preds := if t.kind = 3 then [] else (before.filter fun x => x.kind == 3 || conflict x.image t.image).map fun (x : Task) => x.h
    let pq := (s.queue t.die t.qpasid t.qn).pq
    (s.onTask h fun t => { t with st := .window, preds := preds, startP := t.spawnP ||| pq }).readyCheck h

/-- Takes a queue's next record if it has a KIND: `f` accepts it or answers a halt code. -/
def State.takeKind (s : State) (d : Nat) (pasid : BitVec 20) (qn : BitVec 16) (kind : Nat → Bool)
    (f : State → Qcb → BitVec 2048 → State × Option Nat) : State :=
  match (s.freshQueue d pasid qn).nextRec d pasid qn with
  | (s, .ok q im) =>
    if kind (recF im 0 1) then s.sched d fun s =>
      match f s q im with
      | (s, none) => s
      | (s, some code) => s.haltQueue q q.head code
    else s
  | (s, .absent p) =>
    (s.setQueue { s.queue d pasid qn with page := some p }).pfPut d ⟨p, 3, qn.setWidth 64, (s.die d).fclk⟩
  | (s, .perm q) => s.sched d fun s => s.haltQueue q q.head 0x12
  | (s, _) => s

/-- QUEUE_TAIL_ADVANCE (R364): a bad control block and an unassigned KIND halt the queue; other records are taken by their own steps. -/
def execQueueTailAdvance (die : Nat) (pasid : BitVec 20) (qn : BitVec 16) (s : State) : Out :=
  .next (match (s.freshQueue die pasid qn).nextRec die pasid qn with
    | (s, .bad q) => s.sched die fun s => s.haltQueue q q.head 1
    | (s, _) => s.takeKind die pasid qn (fun k => k == 0 || decide (4 < k)) fun s _ _ => (s, some 8))

/-- SPAWN_RECORD (R367): the record that `spawn` submitted, or one written directly, which is checked now (R364, R370). -/
def execSpawnRecord (die : Nat) (pasid : BitVec 20) (qn : BitVec 16) (s : State) : Out :=
  .next (s.takeKind die pasid qn (· == 1) fun s q im =>
    let inRing := (s.queue die pasid qn).lists.isEmpty
    let here := fun (t : Task) => inRing && t.bySpawn && t.st == .accepted && t.die == die && t.qpasid == pasid && t.qn == qn && t.pos == q.head
    match s.tasks.find? fun t => here t && t.image == im with
    | some t => ((s.tookRec q).enterWindow t.h, none)
    | none =>
      -- what `spawn` put at this position has been written over
      let s : State := { s with tasks := s.tasks.filter fun t => !here t }
      let st := spawnStatus im pasid (pasid == 0)
      let pas := recPasid im pasid
      if st ≠ 0 then (s, some st)
      else if !s.progressOk die im pas then (s, some 7)
      else
        let r := s.newTask die pas pasid qn im q.head false 0 .unset
        ((r.1.tookRec q).enterWindow r.2, none))

/-- A queue's context record: the words of its copy tasks and barrier waits, and the mode of `dyn` (R363). -/
def State.ctxRec (s : State) (q : Qcb) : Option (Ctx × BitVec 3) :=
  if q.ctx = 0 then none
  else
    let v := s.physRead q.ctx 64
    if fieldN v 200 312 ≠ 0 ∨ 4 < fieldN v 192 8 then none
    else some (⟨0, BitVec.ofNat 64 v, 0, BitVec.ofNat 29 (fieldN v 64 64), BitVec.ofNat 29 (fieldN v 128 64)⟩, BitVec.ofNat 3 (fieldN v 192 8))

/-- The copy command of a copy task (R365). -/
def Task.copy (t : Task) (rm : BitVec 3) : Copy :=
  let tm : BitVec 512 := BitVec.ofNat 512 (recF t.image 64 64)
  let r := fieldN tm.toNat 336 3
  ⟨0, t.h, t.pasid, t.pasid == 0, tm, BitVec.ofNat 64 (recF t.image 16 8), if r = 7 then rm else BitVec.ofNat 3 r, 0, false, none, none, t.ctx,
    none, 0, none, none⟩

/-- The cluster of a die with the fewest commands on a channel, the lowest number on a tie. -/
def State.leastBusy (s : State) (d ch : Nat) : List Nat → Option Nat
  | [] => none
  | c :: cs => match s.leastBusy d ch cs with
    | some x => if (s.chan d x ch).cmds.length < (s.chan d c ch).cmds.length then some x else some c
    | none => some c

/-- Starts a ready copy task; it waits while its channel is full (R365). -/
def State.startCopyTask (s : State) (t : Task) : State :=
  let ch := recF t.image 1 1 % 8
  let rm := BitVec.ofNat 3 (t.ctx.csaBase.toNat)
  match s.leastBusy t.die ch (s.liveClusters t.die) with
  | none => s
  | some cl =>
    if s.chanFull t.die cl ch then s
    else
      let c := t.copy rm
      match (if c.data.toNat % 4096 ≠ 0 then s.copyFail t.die cl ch c 1 else s.copyEnqueue t.die cl ch c) with
      | (s, .busy) => s
      | (s, _) => s.onTask t.h fun t => { t with st := .placed }

/-- COPY_TASK (R365): a ready copy task of the queue starts; else the next record, a copy task, enters the window. -/
def execCopyTask (die : Nat) (pasid : BitVec 20) (qn : BitVec 16) (s : State) : Out :=
  .next (match s.tasks.find? fun t => t.die == die && t.qpasid == pasid && t.qn == qn && t.kind == 2 && t.st == .ready with
    | some t => s.startCopyTask t
    | none => s.takeKind die pasid qn (· == 2) fun s q im =>
      if decide (7 < recF im 1 1) || !recZ im 2 12 || !recZ im 24 64 || !recZ im 224 256 then (s, some 8)
      else match s.ctxRec q with
        | none => (s, some 0x14)
        | some (x, rm) =>
          -- the mode stands in a context word that a copy never reads
          let r := s.newTask die pasid pasid qn im q.head false 0 { x with csaBase := rm.setWidth 64 }
          ((r.1.tookRec q).enterWindow r.2, none))

/-- COUNT_BARRIER_WAIT (R365): a wait enters the window; it takes no predecessor. -/
def execCountBarrierWait (die : Nat) (pasid : BitVec 20) (qn : BitVec 16) (s : State) : Out :=
  .next (s.takeKind die pasid qn (· == 3) fun s q im =>
    if !recZ im 1 16 || !recZ im 24 256 then (s, some 8)
    else match s.ctxRec q with
      | none => (s, some 0x14)
      | some (x, _) =>
        if 2 ^ cbLogn x.cbarBase ≤ recF im 16 4 then (s, some 0x13)
        else
          let r := s.newTask die pasid pasid qn im q.head false 0 x
          ((r.1.tookRec q).enterWindow r.2, none))

/-- LIST (R366): a list record opens a level. -/
def execList (die : Nat) (pasid : BitVec 20) (qn : BitVec 16) (s : State) : Out :=
  .next (s.takeKind die pasid qn (· == 4) fun s _ im =>
    let a := recF im 16 8
    let n := recF im 24 4
    let k := s.queue die pasid qn
    if !recZ im 1 12 || !recZ im 28 128 || !recZ im 224 256 || n == 0 || decide (65535 < n) || a % 256 != 0 || decide (2 ^ 57 ≤ a) then (s, some 8)
    else if 4 ≤ k.lists.length then (s, some 0x10)
    else if k.lists.any fun l => l.1.toNat == a then (s, some 0x11)
    else (s.setQueue { k with lists := (BitVec.ofNat 64 a, n, 0) :: k.lists }, none))

/-- A wait that halts its queue and never completes (R365, R370). -/
def State.waitDead (s : State) (t : Task) : State := (s.onTask t.h fun t => { t with st := .placed }).haltTask t 0x13

/-- COUNT_BARRIER_WAIT_COMPLETE (R365): the scheduler reads the barrier; the read that sees the flip acquires its slot. -/
def execCountBarrierWaitComplete (task : BitVec 32) (s : State) : Out :=
  .next (match s.task? task with
    | none => s
    | some t =>
      if t.kind != 3 || t.st != .window || t.page.isSome || t.ended != 0 || s.stoppedM t.die 0 then s
      else match s.barrier t.die (10000 + t.die * 16 + 15) t.pasid (t.pasid == 0) t.ctx.cbarBase (recF t.image 16 4) .load with
        | (s, .ok obj slot) =>
          let b := s.cbar obj
          if b.flips = recF t.image 20 4 then s
          else if b.err then s.waitDead t
          else s.onTask task fun t => { t with ended := 1, complP := s.slotAt slot }
        | (s, .perm) => s.waitDead t
        | (s, .absent p) =>
          (s.onTask task fun t => { t with page := some p }).pfPut t.die ⟨p, 3, t.qn.setWidth 64, (s.die t.die).fclk⟩
        | (s, .busy) => s)

/-! ### Clusters (R53 to R56, R372) -/

/-- The resident threads of a cluster. -/
def State.residents (s : State) (d c : Nat) : List Thread := s.threads.filter fun t => t.loc.die == d && t.loc.cl == c

/-- An idle cluster: no thread, no copy, no matrix command (R54). -/
def State.idle (s : State) (d c : Nat) : Bool :=
  (s.residents d c).isEmpty && s.chans.all (fun x => !(x.die == d && x.cl == c) || x.cmds.isEmpty)
    && s.mqs.all fun q => !(q.die == d && q.core / 4 == c) || q.cmds.isEmpty

/-- Whether a cluster qualifies for a task (R372): a cluster whose last task had another PASID must be idle (R54, R55), and one that drains takes no
task of another PASID or split (R56). -/
def State.qualifies (s : State) (d c : Nat) (split : Nat) (pasid : BitVec 20) : Bool :=
  let x := s.cluster d c
  x.enabled && !x.retired && x.spk.toNat == split && ((s.residents d c).all fun t => t.pasid == pasid) && (x.lastPasid == some pasid || s.idle d c)

/-- Whether a cluster can take a cluster task's armature thread and niches (R323, R324). -/
def State.takesCluster (s : State) (d c : Nat) (im : BitVec 2048) : Bool :=
  !recCluster im || (!(recArm im && (s.residents d c).any Thread.arm) && (recNN im == 0 || (s.cluster d c).nn == 0))

/-- Writes zero to every byte of a cluster's scratchpad (R55 step 2). -/
def State.zeroScratch (s : State) (d c bytes : Nat) : State :=
  { s with mem := s.mem.filter fun p => !(decide (scratchKey d c 0 ≤ p.1) && decide (p.1 < scratchKey d c 0 + bytes))
           bad := s.bad.filter fun k => !(decide (scratchKey d c 0 ≤ k) && decide (k < scratchKey d c 0 + bytes)) }

/-- Gives an idle cluster a split (R55): lines of the ways that pass to the scratchpad leave, the scratchpad is zero, SPK changes. The manual does not
say which way holds a line; here every line of the cluster leaves when its ways pass (log 50). -/
def State.resplit (s : State) (d c split : Nat) : State :=
  let x := s.cluster d c
  let s := if x.spk.toNat < split then
      ((s.clines.filter fun l => l.die == d && l.cl == c).map fun l => l.la).foldl (fun s la => s.evictLine d c la) s else s
  (s.zeroScratch d c (split * 0x20000)).onCluster d c fun x => { x with spk := BitVec.ofNat 4 split }

/-- Has a cluster drain for a task that finds no place (R56): the one with the fewest gangs; one at a time on a die. -/
def State.drain (s : State) (d : Nat) (pasid : BitVec 20) : State :=
  let sup := (s.residents d 0).any fun t => t.pasid == 0
  let cls := (s.liveClusters d).filter fun c => !(pasid != 0 && c == 0 && sup)
  let gangs := fun c => (s.residents d c).countP fun t => !t.arm
  if (rangeFrom 0 10).any fun c => (s.cluster d c).drain then s
  else match cls.foldl (fun (b : Option Nat) c => match b with
      | some x => if gangs c < gangs x then some c else b
      | none => some c) none with
    | some c => s.onCluster d c fun x => { x with drain := true }
    | none => s

/-- The candidate clusters of a task; an idle cluster changes its split, or one drains (R372). -/
def State.candidates (s : State) (d : Nat) (im : BitVec 2048) (pasid : BitVec 20) : State × List Nat :=
  let split := recF im 3 1 % 16
  let ok := (s.liveClusters d).filter fun c => s.qualifies d c split pasid && s.takesCluster d c im
  if !ok.isEmpty then (s, if recCluster im then ok.take 1 else ok)
  else match (s.liveClusters d).find? fun c => s.idle d c with
    | some c => (s.resplit d c split, [c])
    | none => (s.drain d pasid, [])

/-! ### Placing threads (R372 to R374) -/

/-- The lowest free save-area index of a context (R393). -/
def State.freeCsa (s : State) (pasid : BitVec 20) : Option Nat :=
  let used := ((s.threads ++ s.savedT).filter fun t => t.pasid == pasid).map fun t => t.csaIdx
  let n := 2 ^ min 20 ((s.ctx pasid).csaBase.toNat % 32)
  ((rangeFrom 0 (used.length + 1)).find? fun i => !used.contains i).filter fun i => decide (i < n)

/-- Registers at a thread's start (R374). -/
def startRegs (im : BitVec 2048) (h : BitVec 32) (idx gangs : Nat) : Regs :=
  ((((Regs.start.wrR 0 (BitVec.ofNat 64 (recF im 24 8))).wrR 1 (BitVec.ofNat 64 (recF im 32 8))).wrR 2 (BitVec.ofNat 64 idx)).wrR 3
    (BitVec.ofNat 64 gangs)).wrR 4 (h.setWidth 64)

/-- A thread as it is placed (R374, R91). -/
def Task.thread (t : Task) (id : Nat) (kind : TKind) (loc : Place) (role : Bool) (idx csa rbase : Nat) : Thread :=
  let r := recRole t.image role
  let arm := kind == .armature
  let n := if arm then 1 else r.slices
  { Thread.nobody with
    id := id, resident := true, kind := kind, loc := loc, task := t.h, role := role, gidx := BitVec.ofNat 16 idx, pasid := t.pasid
    nsl := n, allot := if arm then 32 else 32 * r.regs, rbase := rbase, resv := if arm then 0 else r.tiles, resvHeld := !arm
    tcount := if arm then 0 else r.tiles, csaIdx := csa, regs := startRegs t.image t.h idx r.gangs
    ctl := { Ctl.start with prvSize := if arm then 0 else BitVec.ofNat 32 (recF t.image 40 4) }
    slices := (rangeFrom 0 n).map fun _ =>
      ⟨BitVec.ofNat 64 (if arm then recF t.image 16 8 else r.entry), if arm then 1 else 15, if arm then 1 else 15, [], 0, 0, .none⟩ }

/-- Gangs in the active set of a partition (R375). -/
def State.activeIn (s : State) (p : Place) : Nat :=
  s.threads.countP fun t => t.act && !t.arm && t.loc.die == p.die && t.loc.cl == p.cl && t.loc.core == p.core && t.loc.part == p.part

/-- The cluster takes a task's PASID: another than its last one finds the scratchpad zero (R54, R55); the task's niches start empty (R324). -/
def State.claimCluster (s : State) (d c : Nat) (im : BitVec 2048) (pasid : BitVec 20) (first : Bool) : State :=
  let x := s.cluster d c
  let s := if x.lastPasid = some pasid then s else s.zeroScratch d c x.scratch
  let s := s.onCluster d c fun x => { x with lastPasid := some pasid, nn := if recNN im = 0 then x.nn else recNN im }
  if first then { s with niches := s.niches.filter fun n => !(n.die == d && n.cl == c && decide (n.n < recNN im)) } else s

/-- Makes a thread resident; its accesses begin after the acquire of R178 at `pkg` (R347, R368). -/
def State.admitThread (s : State) (x : Thread) (p : Patina) : State :=
  let now := (s.die x.loc.die).aclk.toNat
  let x := { x with act := decide (s.activeIn x.loc < 8), actSince := now, age := 0, rdy := true, readySince := now }
  let s := s.acquireAct x.loc.die x.loc.cl 3 p
  if s.cur.resident then { s with others := s.others ++ [x] } else { s with cur := x, curGrp := 0 }

/-- Places one more thread of a task: the armature thread first, then gangs in order. None where it does not fit now. -/
def State.placeOne (s : State) (t : Task) (cls : List Nat) : Option State :=
  let im := t.image
  let n := t.placed.length
  let arm := recArm im && n == 0
  let put := fun (s : State) (x : Thread) =>
    let s := s.claimCluster x.loc.die x.loc.cl im t.pasid (n == 0)
    { (s.admitThread x t.startP).onTask t.h (fun k => { k with placed := k.placed ++ [x.loc.cl] }) with nextId := s.nextId + 1 }
  match s.freeCsa t.pasid with
  | none => none
  | some csa =>
    if arm then (cls.head?).map fun c => put s (t.thread s.nextId .armature ⟨t.die, c, 0, 0, 0⟩ false 0 csa 0)
    else match (recGangs im)[n - if recArm im then 1 else 0]? with
      | none => none
      | some (r, g) => (seek (s.occ t.die) cls r (recRole im r) g).map fun o =>
          put s (t.thread s.nextId .gang ⟨t.die, o.cl, o.core, o.part, o.slot⟩ r g csa o.rbase)

/-- Places threads of a task while they fit; each is one output of the dispatcher (R383). -/
def State.placeMany (s : State) (h : BitVec 32) (cls : List Nat) : Nat → State
  | 0 => s
  | n + 1 =>
    match s.task? h with
    | none => s
    | some t =>
      if t.placed.length = recThreads t.image then s
      else if (s.placeOne t cls).isNone then s
      else
        let r := s.output t.die 1
        match r.1.placeOne t cls with
        | some s' => if r.2 then s'.placeMany h cls n else r.1
        | none => r.1

/-- Save-area indices that a context has left. -/
def State.csaRoom (s : State) (pasid : BitVec 20) : Nat :=
  2 ^ min 20 ((s.ctx pasid).csaBase.toNat % 32) - (s.threads ++ s.savedT).countP fun t => t.pasid == pasid

/-- The saved thread of a die whose turn to be placed again is first (R373); a cluster task's armature thread comes before its gangs (R406). -/
def State.firstSaved (s : State) (d : Nat) : Option Thread :=
  match (s.savedT.filter fun t => t.loc.die == d && !s.saving t.task).foldl (fun (b : Option Thread) t => match b with
      | some x => if t.readySince < x.readySince then some t else b
      | none => some t) none with
  | none => none
  | some x => match s.savedT.find? fun t => t.arm && t.task == x.task && s.clusterTask x.task with
    | some a => some { a with readySince := x.readySince }
    | none => some x

/-- The oldest ready spawn task of a die. -/
def State.oldestReady (s : State) (d : Nat) : Option Task :=
  (s.tasks.filter fun t => t.die == d && t.st == .ready && t.kind == 1).foldl (fun b t => match b with
    | some x => if t.readySeq < x.readySeq then some t else b
    | none => some t) none

/-- Ends a die's drain: the task or thread that waited has been placed (R56). -/
def State.endDrain (s : State) (d : Nat) : State :=
  { s with clusters := s.clusters.map fun x => if x.die == d then { x with drain := false } else x }

/-- The cluster where the rest of a cluster task goes once some of it has been placed (R323): the one where it stands, or, while none of it stands
anywhere, the one that it had, if R54 lets it in. -/
def State.sameCluster (s : State) (d : Nat) (t : Task) (c : Nat) : State × List Nat :=
  let split := recF t.image 3 1 % 16
  match s.threads.find? fun x => x.task == t.h with
  | some x => (s, [x.loc.cl])
  | none =>
    if s.savedT.any fun x => x.task == t.h then (s, [])
    else if s.qualifies d c split t.pasid && s.takesCluster d c t.image then (s, [c])
    else if s.idle d c then (s.resplit d c split, [c])
    else (s, [])

/-- TASK_PLACE (R372, R373): the oldest ready task's threads, as many as fit; a concurrent task whole or not at all. A thread that waits longer for its
restore comes first, and a die in minimal mode places nothing (R425). -/
def State.place (s : State) (d : Nat) : State :=
  if s.stoppedM d 1 || (s.die d).boot.mode == 2 then s
  else match s.oldestReady d with
    | none => s
    | some t =>
      if (s.firstSaved d).any fun x => decide (x.readySince < t.readySeq) then s else
      let im := t.image
      let r := match recCluster im, t.placed with
        | true, c :: _ => s.sameCluster d t c
        | _, _ => s.candidates d im t.pasid
      let s := r.1
      let cls := r.2
      if cls.isEmpty then s
      else if recF im 2 1 = 2 ∧ (!fitAll im cls (recGangs im) (s.occ d) ∨ s.csaRoom t.pasid < recThreads im) then s
      else
        let s := s.placeMany t.h cls (recThreads im)
        if (s.task? t.h).any fun t => t.placed.length == recThreads im then
          (s.onTask t.h fun t => { t with st := .placed }).endDrain d
        else s

/-- A start succeeds once the die's supervisor task has been placed: the attempt count goes to 0 (R424). -/
def State.startDone (s : State) (d : Nat) : State :=
  let x := (s.die d).boot
  if x.mode = 0 ∧ x.stage = 2 ∧ (s.tasks.any fun t => t.die == d && t.pasid == 0 && t.st == .placed) then
    s.onDie d fun y => { y with boot := { y.boot with mode := 1, att := 0, reason := 0 } }
  else s

/-- TASK_PLACE. -/
def execTaskPlace (die : Nat) (s : State) : Out := .next ((s.place die).startDone die)

/-! ### The end of threads and tasks (R335, R368, R405) -/

/-- What a thread without live lanes still waits for (R335). -/
def Thread.ended (t : Thread) : Bool :=
  t.slices.all (fun c => c.live == 0) && t.cntCp == 0 && (t.arm || t.cntMx == 0)
    && !(t.outs.any fun o => match o with | .load => false | _ => true)

/-- Private lines of a thread in its cluster store. -/
def State.privLines (s : State) (t : Thread) : List Nat :=
  (s.clines.filter fun x => x.die == t.loc.die && x.cl == t.loc.cl && (match x.kind with | .priv _ _ o => o == t.id | _ => false)).map fun x => x.la

/-- Takes a thread off its partition. Its errors that no query has read go with it: no field of the save area holds them (R73, R396; log 51). -/
def State.dropThread (s : State) (t : Thread) : State :=
  let s : State := { s with
    niches := s.niches.map fun x => { x with writers := x.writers.filter (·.1 != t.id) }
    sdir := s.sdir.filter fun e => !(e.die == t.loc.die && isOffKey t.id e.la)
    chans := s.chans.map fun c => { c with errs := c.errs.filter fun e => e.1 != t.id } }
  let s := if s.cur.resident && s.cur.id == t.id then { s with cur := .nobody } else { s with others := s.others.filter fun x => x.id != t.id }
  if (s.residents t.loc.die t.loc.cl).any fun x => x.task == t.task then s
  else if (s.task? t.task).any fun k => recNN k.image != 0 then s.onCluster t.loc.die t.loc.cl fun x => { x with nn := 0 } else s

/-- Members of a saved thread leave their entries, which its restore rebuilds; no phase completes by it (R328). -/
def State.dropMembers (s : State) (id : Nat) : State :=
  let cs := s.cohorts.map fun (c : Cohort) =>
    { c with members := c.members.filter fun m => m.1 != id, late := c.late.filter fun m => m.1 != id, waits := c.waits.filter fun w => w.t != id }
  { s with cohorts := cs.filter fun c => !c.members.isEmpty }

/-- THREAD_END: a thread ends as finished, or as saved after a pre-emption, once its release action is complete (R293, R368). -/
def State.endThread (s : State) (t : Thread) : State :=
  if !t.ended then s
  else
    let s := (s.releaseAct t.loc.die t.loc.cl 3 t.ctl.patina).settle settleBound
    if s.unperformed t.loc.die then s
    else if t.saved then
      -- a thread that ends again before its restore is over has no copies left to record
      let s := if t.restoring then s.areaWrite t [(0xA42, 0, 1)] else s
      let s := (s.privLines t).foldl (fun s la => s.evictLine t.loc.die t.loc.cl la) s
      let x : Thread := { t with
        resident := false, regs := .start, slices := [], outs := [], claims := [], batches := [], watch := none, sleep := none, lpr := []
        handler := false, preempt := false, parked := false, act := false, age := 0, saved := true, restoring := false, rdy := false
        readySince := s.nextOrder }
      let s := (s.dropMembers t.id).dropThread t
      { s with savedT := s.savedT ++ [x] }
    else
      let s := (s.privLines t).foldl (fun s la => s.dropCline t.loc.die t.loc.cl la) s
      (s.dropThread t).onTask t.task fun k => { k with ended := k.ended + 1, complP := k.complP ||| t.ctl.patina }

/-- THREAD_END (R335). -/
def execThreadEnd (t : Nat) (s : State) : Out :=
  .next (match s.thread? t with
    | some x => s.endThread x
    | none => s)

/-- Whether a task's record has completed (R368). -/
def Task.over (t : Task) : Bool :=
  match t.kind with
  | 1 => t.st == .placed && t.ended == recThreads t.image
  | 2 => t.st == .placed && t.ended == 1
  | _ => t.st == .window && t.ended == 1

/-- TASK_COMPLETE (R368): held while the scheduler is stopped (R385). -/
def execTaskComplete (task : BitVec 32) (s : State) : Out :=
  .next (match s.task? task with
    | some t => if t.over && !s.stoppedM t.die 0 then s.taskDone t else s
    | none => s)

/-! ### Restores (R328, R373, R406) -/

/-- Whether a cluster has what a saved thread needs: its partition slot or the armature core, registers, tiles, channel slots, cohort
entries; the run it takes. -/
def State.restoreFit (s : State) (t : Thread) (c : Nat) (cs : List (Nat × Copy)) : Option Nat :=
  let d := t.loc.die
  let entries := t.memb.all fun m => s.cohorts.all fun (x : Cohort) =>
    !(x.die == d && x.core == c * 4 + m.handle / 64 && x.ent == m.handle % 64) || (x.key == m.key && x.task == t.task)
  if !entries || !s.chanRoom d c cs then none
  else if t.arm then (if (s.residents d c).any Thread.arm then none else some 0)
  else
    let occ := s.occ d
    let here := occ.filter fun o => o.cl == c && o.core == t.loc.core && o.part == t.loc.part
    let tiles := (occ.filter fun o => o.cl == c && o.core == t.loc.core).foldl (fun n o => n + o.tiles) 0
    if here.any (fun o => o.slot == t.loc.slot) || (t.resvHeld && decide (Config.coreTiles < tiles + t.resv)) then none
    else runFor here t.role t.allot

/-- The clusters where a saved thread may be placed again: the one where its task's armature thread or another gang of a cluster task already
stands, else its own and then every other that qualifies. -/
def State.restoreClusters (s : State) (t : Thread) (im : BitVec 2048) : State × List Nat :=
  let d := t.loc.die
  match s.threads.find? fun x => x.task == t.task && recCluster im with
  | some x => (s, [x.loc.cl])
  | none =>
    if recCluster im && !t.arm && s.savedT.any (fun x => x.task == t.task && x.arm) then (s, [])
    else
      let r := s.candidates d im t.pasid
      (r.1, if r.2.contains t.loc.cl then t.loc.cl :: r.2.filter (· != t.loc.cl) else r.2)

/-- Rebuilds a restored thread's memberships at the entries that its handles name. -/
def State.rebuild (s : State) (t : Thread) : State :=
  t.memb.foldl (fun s m =>
    let core := t.coreNo (m.handle / 64)
    match s.cohorts.find? fun c => c.die == t.loc.die && c.core == core && c.ent == m.handle % 64 with
    | some c => s.setCohort { c with members := c.members ++ [(t.id, m.lane)] }
    | none => s.setCohort ⟨t.loc.die, core, m.handle % 64, m.key, t.task, [(t.id, m.lane)], [], [], false⟩) s

/-- Whether it is a saved thread's turn: no saved thread and no ready task of the die waits longer (R373). -/
def State.restoreTurn (s : State) (t : Thread) : Bool :=
  match s.firstSaved t.loc.die with
  | some x => x.id == t.id && (s.oldestReady t.loc.die).all fun k => decide (x.readySince < k.readySeq)
  | none => false

/-- THREAD_RESTORE (R406): while the walkers complete no walk for the save area, the restore waits (R385). -/
def State.restoreThread (s : State) (t : Thread) : State :=
  let d := t.loc.die
  match s.task? t.task with
  | none => s
  | some k =>
    if s.stoppedM d 1 || !s.restoreTurn t then s else
    let a := s.areaTouch t 1
    if !a.2 then a.1 else
    let r := a.1.restoreClusters t k.image
    let q := r.1.copyRecs t (r.1.csaAddr t)
    match findMap (fun c => (q.1.restoreFit t c q.2).map fun b => (c, b)) r.2 with
    | none => q.1
    | some (c, b) =>
      let s0 := q.1
      let v := s0.output d 1
      if !v.2 then v.1
      else
        let s := v.1
        let x : Thread := { t with resident := true, rbase := b, loc := { t.loc with cl := c } }
        let a := s.areaTouch x 1
        if !a.2 then a.1 else
        let s := a.1
        let w := s.areaLines d (tlbKey x) (s.csaAddr x) 112
        let vec := vecPc (w.1.die d).trapvec
        let x := x.restored ⟨w.2⟩ vec (w.1.csaAddr x) q.2.length
        let s := { w.1 with savedT := w.1.savedT.filter fun y => y.id != t.id }
        let s := ((s.claimCluster d c k.image t.pasid false).requeue d c q.2).markRestore x
        let s := s.admitThread x 0
        let s := (s.rebuild x).endDrain d
        let s := if recCluster k.image then s.onTask t.task fun k => { k with placed := k.placed.map fun _ => c } else s
        if vec = 0 then (s.modThread x.id fun t => { t with halted := true }).monitor d 6 else s

/-- THREAD_RESTORE. -/
def execThreadRestore (t : Nat) (s : State) : Out :=
  .next (match s.savedT.find? fun x => x.id == t with
    | some x => s.restoreThread x
    | none => s)

end Sys2Proof.Machine
end

