-- ==== Sys2Proof/Machine/Boot.lean ====
section
/-! DEFINITION. Start and atelier: the maquette (R302 to R305), DISCOVER (R304), the start and minimal mode (R423 to R425), the DOE protocol
and SPDM (R426), the lease (R379 to R382). -/

namespace Sys2Proof.Machine

/-! ### Flash (R423) -/

/-- `n` bytes of flash from an address. -/
def State.flashN (s : State) (at_ n : Nat) : Nat := ofBytes ((rangeFrom at_ n).map s.flash.get)

/-- A part of flash, its addresses counted from its start. -/
def State.flashPart (s : State) (at_ n : Nat) : SMap 8 :=
  (s.flash.filter fun e => decide (at_ ≤ e.1) && decide (e.1 < at_ + n)).map fun e => (e.1 - at_, e.2)

/-- Where slot A (0), B (1) and the staging slot (2) begin. -/
def slotOff (k : Nat) : Nat := k * 0x1000000

/-- The image in a slot. -/
def State.image (s : State) (k : Nat) : SMap 8 := s.flashPart (slotOff k) 0x1000000

/-- Where the maquette begins. -/
def maqAt : Nat := 0x3000000

/-- The signed maquette's bytes. -/
def State.maqBytes (s : State) : SMap 8 := s.flashPart maqAt 0x10000

/-- The first 8 bytes of the maquette's digest (R304). -/
def State.maqDigest8 (s : State) : Nat := (Config.digest s.maqBytes).toNat % 2 ^ 64

/-! ### The maquette's fields (R302, R303, R305) -/

/-- A port field of a die entry. -/
def readPort (w : Nat) : MPort :=
  ⟨BitVec.ofNat 2 (fieldN w 14 2), BitVec.ofNat 2 (fieldN w 12 2), BitVec.ofNat 4 (fieldN w 8 4), BitVec.ofNat 4 (fieldN w 4 4), bitN w 3⟩

/-- A die entry. -/
def readMDie (w : Nat) : MDie :=
  ⟨BitVec.ofNat 4 (fieldN w 76 4), BitVec.ofNat 4 (fieldN w 72 4), (rangeFrom 0 4).map fun k => readPort (fieldN w (16 * k) 16)⟩

/-- A region entry. -/
def readRegion (w : Nat) : Region :=
  ⟨BitVec.ofNat 22 (fieldN w 62 22), BitVec.ofNat 22 (fieldN w 84 22), BitVec.ofNat 2 (fieldN w 0 2), BitVec.ofNat 4 (fieldN w 8 4),
    BitVec.ofNat 4 (fieldN w 12 4), bitN w 7⟩

/-- An egress record. -/
def readEgress (w : Nat) : Egress := ⟨BitVec.ofNat 3 (fieldN w 8 3), BitVec.ofNat 2 (fieldN w 4 2), BitVec.ofNat 4 (fieldN w 0 4)⟩

/-- The maquette that flash holds. -/
def State.readMaq (s : State) : Maq :=
  let h := s.flashN maqAt 64
  { ndies := fieldN h 32 4 + 1, hostDie := fieldN h 36 4, hostPort := fieldN h 40 2, roll := BitVec.ofNat 32 (fieldN h 64 32)
    dies := (rangeFrom 0 8).map fun k => readMDie (s.flashN (maqAt + 64 + 64 * k) 64)
    routes := (rangeFrom 0 256).map fun i => s.flash.get (maqAt + 576 + i)
    buckets := (rangeFrom 0 256).map fun i => s.flash.get (maqAt + 832 + i)
    regions := (rangeFrom 0 (min 32 (fieldN h 48 8))).map fun k => readRegion (s.flashN (maqAt + 1088 + 16 * k) 16)
    egress := (rangeFrom 0 (min 8 (fieldN h 56 8))).map fun k => readEgress (s.flashN (maqAt + 1600 + 16 * k) 16) }

/-- Identifiers in use: the D40 dies and the standalone junctions that some port names. -/
def Maq.ids (m : Maq) : List Nat :=
  rangeFrom 0 m.ndies ++ (rangeFrom 8 8).filter fun i => m.dies.any fun d => d.ports.any fun p => p.kind == 3 && p.pid.toNat == i

/-- A route byte. -/
def Maq.route (m : Maq) (a b : Nat) : Nat := (m.routes.getD (16 * a + b) 0).toNat

/-- A port of a die. -/
def Maq.port (m : Maq) (d p : Nat) : MPort := ((m.dies.getD d ⟨0, 0, []⟩).ports).getD p ⟨0, 0, 0, 0, false⟩

/-- Whether the primary routes lead from an identifier to another within a number of hops, each over a connected port; a standalone junction forwards by
its own row (R302). -/
def Maq.reaches (m : Maq) (a b : Nat) : Nat → Bool
  | 0 => a == b
  | n + 1 => a == b || match m.peer a (m.route a b % 4) with
    | some q => m.reaches q.1 b n
    | none => false

/-- Whether a route is good: its primary port leads there within 7 hops, and so does an alternate one that is valid (R302, R304). -/
def Maq.routeOk (m : Maq) (a b : Nat) : Bool :=
  m.reaches a b 7 && (a == b || !bitN (m.route a b) 4 || match m.peer a (m.route a b / 4 % 4) with
    | some q => m.reaches q.1 b 6
    | none => false)

/-- Whether a port's partner names it back; a standalone junction's port is named once. -/
def Maq.symm (m : Maq) (d p : Nat) : Bool :=
  let q := m.port d p
  let r := m.port q.pid.toNat q.pport.toNat
  if q.kind = 1 then decide (q.pid.toNat < m.ndies) && r.kind == 1 && r.pid.toNat == d && r.pport.toNat == p
  else if q.kind = 3 then decide (8 ≤ q.pid.toNat) && m.peer q.pid.toNat q.pport.toNat == some (d, p)
  else true

/-- GiB of HBM4E regions of a die. -/
def Maq.gib (m : Maq) (d : Nat) : Nat :=
  m.regions.foldl (fun n r => if r.kind == 0 && r.home.toNat == d then n + (r.limit.toNat + 1 - r.base.toNat) else n) 0

/-- Whether two regions overlap. -/
def Region.meets (a b : Region) : Bool := a.base.toNat ≤ b.limit.toNat && b.base.toNat ≤ a.limit.toNat

/-- Whether no two regions of a list overlap. -/
def disjoint : List Region → Bool
  | [] => true
  | r :: rs => rs.all (fun x => !r.meets x) && disjoint rs

/-- Whether a reserved field of the maquette in flash is not zero, or a fixed one has another value (R302, R303, R305). -/
def State.maqReserved (s : State) : Bool :=
  let h := s.flashN maqAt 64
  let n := fieldN h 32 4 + 1
  h % 2 ^ 32 != 0x54514D41 || h / 2 ^ 128 != 0 || fieldN h 42 6 != 0 || fieldN h 96 32 != 1
    || decide (8 < fieldN h 56 8) || fieldN h 48 8 == 0 || decide (32 < fieldN h 48 8)
    || ((rangeFrom 0 8).any fun k =>
      let w := s.flashN (maqAt + 64 + 64 * k) 64
      w / 2 ^ 80 != 0 || fieldN w 64 8 != 0 || ((rangeFrom 0 4).any fun i => fieldN w (16 * i) 3 != 0) || (decide (n ≤ k) && w != 0))
    || ((rangeFrom 0 256).any fun i => 32 ≤ (s.flash.get (maqAt + 576 + i)).toNat)
    || ((rangeFrom 0 (fieldN h 48 8)).any fun k =>
      let w := s.flashN (maqAt + 1088 + 16 * k) 16
      fieldN w 106 22 != 0 || fieldN w 16 46 != 0 || fieldN w 2 5 != 0)
    || ((rangeFrom 0 (fieldN h 56 8)).any fun k =>
      let w := s.flashN (maqAt + 1600 + 16 * k) 16
      w / 2 ^ 11 != 0 || fieldN w 6 2 != 0)

/-- Whether a maquette is invalid, code 0x20 (R304). -/
def State.maqBad (s : State) : Bool :=
  let m := s.readMaq
  let ids := m.ids
  let d40 := rangeFrom 0 m.ndies
  let ports := d40.flatMap fun d => (rangeFrom 0 4).map fun p => (d, p)
  s.maqReserved || decide (m.ndies < 2) || decide (8 < m.ndies)
    || (ports.any fun q => !m.symm q.1 q.2)
    || (ids.any fun a => ids.any fun b => !m.routeOk a b)
    || ((rangeFrom 0 16).any fun i => !ids.contains i && (rangeFrom 0 16).any fun k => m.route i k != 0 || m.route k i != 0)
    || (m.buckets.any fun b => b.toNat % 16 == b.toNat / 16)
    || (d40.any fun d => (m.dies.getD d ⟨0, 0, []⟩).buddy.toNat == d)
    || !disjoint m.regions || (m.regions.any fun r => decide (r.limit.toNat < r.base.toNat) || r.kind == 3)
    || (d40.any fun d => 95 < m.gib d)
    || (m.regions.any fun r => r.kind == 2 && decide (m.egress.length ≤ r.egr.toNat))
    || (ports.filter fun q => (m.port q.1 q.2).host) != [(m.hostDie, m.hostPort)]
    || (ports.any fun q => let x := m.port q.1 q.2; x.host && (x.kind != 0 || x.pport != 0 || x.pid != 0 || x.egr != 0))
    || (ids.any fun i => ids.all (fun k => m.route i k == 0) || ids.all fun k => m.route k i == 0)

/-! ### Resetting a die (R2, R91, R386, R424) -/

/-- Enabled positions of a die: all but those recorded as failed, and but the spare while none has failed (R17, R427). -/
def positions (failed : List Nat) (spare : Nat) : List Nat :=
  (rangeFrom 0 11).filter fun p => !failed.contains p && (!failed.isEmpty || p != spare)

/-- The records of a die's failed positions (R427). -/
def failedClusters (d : Nat) (failed : List Nat) : List Cluster :=
  failed.map fun p => ⟨d, 16 + p, BitVec.ofNat 4 p, false, true, true, 0, false, none, 0⟩

/-- The positions of a die that its status area records as failed. -/
def State.failedAt (s : State) (d : Nat) : List Nat := ((s.clusters.filter fun c => c.die == d && c.retired).map fun c => c.pos.toNat).eraseDups

/-- The clusters of a die as its start enables them, behind a record of each failed position. -/
def bootClusters (d : Nat) (failed : List Nat) (spare : Nat) : List Cluster :=
  let ps := positions failed spare
  ((rangeFrom 0 ps.length).map fun c => (⟨d, c, BitVec.ofNat 4 (ps.getD c 0), true, false, false, 0, false, none, 0⟩ : Cluster)) ++ failedClusters d failed

/-- Enables a die's clusters as the maquette directs (R17). -/
def State.enableClusters (s : State) (d : Nat) : State :=
  let spare := (s.maq.dies.getD d ⟨0, 0, []⟩).spare.toNat
  { s with clusters := s.clusters.filter (fun (c : Cluster) => c.die != d) ++ bootClusters d (s.failedAt d) spare }

/-- The directories of the other dies forget a die whose caches are gone: a line whose dirty data it held is LOST with it (log 53). -/
def State.forgetDie (s : State) (d : Nat) : State :=
  let held := (s.jdir.filter fun j => j.die != d && j.holders.contains d).map fun j => (j.die, j.la)
  let dirty := fun la => s.dieDirty d la
  held.foldl (fun (t : State) h =>
    let j := t.jent h.1 h.2
    if (j.st == .own || j.st == .os) && j.owner == d && dirty h.2 then t.loseLine h.2 2 d else t.setJent (j.leave d)) s

/-- A die at reset: its threads, caches, directories, engines, tasks and control words are gone; memory and flash keep their bytes, the
status area its failed positions and its attempt count. -/
def State.wipe (s : State) (d : Nat) (keepFailed : Bool) : State :=
  let x := s.die d
  let here := fun (t : Thread) => t.loc.die == d
  let s := if s.cur.resident && here s.cur then { s with cur := .nobody } else s
  { s with
    others := s.others.filter fun (t : Thread) => !here t
    savedT := s.savedT.filter fun (t : Thread) => !here t
    clusters := s.clusters.filter (fun (c : Cluster) => c.die != d) ++ failedClusters d (s.failedAt d)
    niches := s.niches.filter fun (n : Niche) => n.die != d
    cohorts := s.cohorts.filter fun (c : Cohort) => c.die != d
    tlb := s.tlb.filter fun p => keyDie p.1 != d
    ilines := s.ilines.filter fun (l : ILine) => l.die != d
    clines := s.clines.filter fun (l : CLine) => l.die != d
    l2 := s.l2.filter fun (l : L2Line) => l.die != d
    sdir := s.sdir.filter fun (e : SEnt) => e.die != d
    jdir := s.jdir.filter fun (j : JEnt) => j.die != d
    mirrors := s.mirrors.filter fun (m : Mirror) => m.die != d
    chans := s.chans.filter fun (c : Chan) => c.die != d
    mqs := s.mqs.filter fun (q : MQueue) => q.die != d
    tasks := s.tasks.filter fun (t : Task) => t.die != d
    queues := s.queues.filter fun (q : Queue) => q.die != d
    hws := s.hws.filter fun (w : HomeWr) => w.home != d
    msgs := s.msgs.filter fun (p : Mop × Msg) => p.2.dst != d && p.2.at_ != d
    wires := s.wires.filter fun w => w.1 != d
    dies := s.dies.set d { Die.reset with
      failed := keepFailed && x.failed
      unreach := keepFailed && x.unreach
      boot := ⟨0, x.boot.att, 0, 0, 0, 0, 0, 0⟩ } }

/-- Minimal mode with a reason (R424, R425). -/
def State.minimal (s : State) (d reason : Nat) : State :=
  s.onDie d fun x => { x with boot := { x.boot with mode := 2, reason := BitVec.ofNat 8 reason } }

/-! ### The lease (R379 to R382) -/

/-- Dies that home an atelier page, in ascending order. -/
def State.lineDies (s : State) : List Nat := (rangeFrom 0 s.maq.ndies).filter fun d => s.maq.regions.any fun r => r.kind == 0 && r.home.toNat == d

/-- The physical address of a die's atelier page: the last 64 KiB of its HBM4E region of lowest BASE (R379). -/
def State.atePage (s : State) (d : Nat) : Nat :=
  match (s.maq.regions.filter fun r => r.kind == 0 && r.home.toNat == d).foldl (fun (b : Option Region) r => match b with
      | some x => if r.base.toNat < x.base.toNat then some r else b
      | none => some r) none with
  | some r => (r.limit.toNat + 1) * 2 ^ 30 - 65536
  | none => 0

/-- A lease word (R379). -/
def leaseWord (epoch ldr hb : Nat) : Word := BitVec.ofNat 64 (epoch % 2 ^ 32 * 2 ^ 32 + ldr % 16 * 2 ^ 28 + hb % 2 ^ 28)
/-- EPOCH. -/
def lEpoch (w : Word) : Nat := fieldN w.toNat 32 32
/-- LDR. -/
def lLdr (w : Word) : Nat := fieldN w.toNat 28 4
/-- HB. -/
def lHb (w : Word) : Nat := fieldN w.toNat 0 28

/-- The lease line after one that is dead for a core: that of the next higher die that homes a page, wrapping, skipping dead ones (R382). -/
def nextLine (dies dead : List Nat) (cur : Nat) : Nat :=
  let ok := dies.filter fun x => !dead.contains x
  ((ok.filter fun x => cur < x) ++ ok).headD cur

/-- The current lease line's word, unless the access receives an error reply: its home cannot be reached, or the line is LOST (R382). The word stands where
no other access reaches it; line 0 of the page shows it (R379). -/
def State.leaseRead (s : State) (d : Nat) : Option Word :=
  let k := (s.die d).lease.line
  if s.lineLost (s.atePage k / 64) || s.cut d k || s.dead k then none else some (s.die k).leaseLine

/-- Writes the lease word of a core's current line. -/
def State.leaseWrite (s : State) (d : Nat) (w : Word) : State :=
  let k := (s.die d).lease.line
  (s.onDie k fun x => { x with leaseLine := w }).physWrite (s.atePage k) (bytesN w.toNat 8)

/-- Applies a change to a core's share of the lease. -/
def State.onLease (s : State) (d : Nat) (f : Lease → Lease) : State := s.onDie d fun x => { x with lease := f x.lease }

/-- Becomes the leader with a lease that the core writes, and probes again every junction that has been declared failed (R381). -/
def State.lead (s : State) (d : Nat) (w : Word) : State :=
  let now := (s.die d).tclk.toNat
  let s := ((s.leaseWrite d w).onLease d fun l => { l with leader := true, epoch := lEpoch w, word := w, since := now }).onDie d fun x => { x with
    epochSeen := max x.epochSeen (lEpoch w) }
  ((rangeFrom 0 s.maq.ndies).filter fun x => (s.die x).failed).foldl (fun s x => s.probeDie d x) s

/-- Follows the lease that a word states. -/
def State.follow (s : State) (d : Nat) (w : Word) : State :=
  let now := (s.die d).tclk.toNat
  (s.onLease d fun l => { l with leader := false, word := w, since := now }).onDie d fun x => { x with epochSeen := max x.epochSeen (lEpoch w) }

/-- An error reply (R382): the line is dead for the core, which claims the next one with an EPOCH above any it has seen, the word there included. -/
def State.leaseMove (s : State) (d : Nat) : State :=
  let l := (s.die d).lease
  let dead := l.dead ++ [l.line]
  let s := s.onLease d fun l => { l with dead := dead, line := nextLine s.lineDies dead l.line, leader := false }
  match s.leaseRead d with
  | none => s
  | some w => s.lead d (leaseWord (max (max (s.die d).epochSeen (lEpoch l.word)) (lEpoch w) + 1) d 0)

/-- The claim at boot (R380). -/
def State.leaseClaim (s : State) (d : Nat) : State :=
  let s := s.onLease d fun l => { l with line := s.lineDies.headD 0 }
  match s.leaseRead d with
  | none => s.leaseMove d
  | some w => if w = 0 then s.lead d (leaseWord 1 d 0) else s.follow d w

/-- The leader renews its lease. -/
def State.renew (s : State) (d : Nat) (w : Word) : State :=
  let now := (s.die d).tclk.toNat
  (s.leaseWrite d w).onLease d fun l => { l with word := w, since := now }

/-- LEASE_RENEWAL (R380): a failed swap ends the leadership at once. -/
def execLeaseRenewal (die : Nat) (s : State) : Out :=
  .next (
    let l := (s.die die).lease
    if !l.leader then s
    else match s.leaseRead die with
      | none => s.leaseMove die
      | some w => if w = l.word then s.renew die (leaseWord (lEpoch w) die (lHb w + 1)) else s.follow die w)

/-- LEASE_WATCH (R380): the count restarts when HB or EPOCH has changed. -/
def execLeaseWatch (die : Nat) (s : State) : Out :=
  .next (
    let l := (s.die die).lease
    if l.leader then s
    else match s.leaseRead die with
      | none => s.leaseMove die
      | some w => if lHb w = lHb l.word ∧ lEpoch w = lEpoch l.word then s else s.follow die w)

/-- LEASE_TAKEOVER (R380, R381): the swap of the word last read for a lease with EPOCH plus one; the new leader probes failed junctions again. -/
def execLeaseTakeover (die : Nat) (s : State) : Out :=
  .next (
    let l := (s.die die).lease
    if l.leader then s
    else match s.leaseRead die with
      | none => s.leaseMove die
      | some w =>
        if w = l.word then (s.lead die (leaseWord (lEpoch w + 1) die 0)).monitor die 0x0A
        else s.follow die w)

/-! ### The start (R424) -/

/-- Ports that take part in DISCOVER: connected ones. -/
def MPort.disc (p : MPort) : Bool := p.kind != 0 && !p.host

/-- Whether every port of a die has trained and answered as its maquette entry asks. -/
def State.portsUp (s : State) (d : Nat) : Bool :=
  (rangeFrom 0 4).all fun p =>
    let q := s.mport d p
    let x := s.port d p
    if q.host then x.trained else !q.disc || x.discovered

/-- The leader places the supervisor's first task on a die that has claimed or followed the lease and runs nothing yet, from the signed image that the
die's start chose (R388, R424). -/
def State.superviseDie (s : State) (l d : Nat) : State :=
  let x := (s.die d).boot
  if x.mode != 0 || x.stage != 2 || s.cut l d || s.tasks.any (fun t => t.die == d) then s
  else
    let n := s.nextOrder
    let r := s.newTask d 0 0 0 (Config.imgRecord (s.image x.slot.toNat)) 0 true 0 .unset
    r.1.onTask r.2 fun t => { t with st := .ready, readySeq := n }

/-- The leader's part of every die's start. -/
def State.supervise (s : State) (l : Nat) : State :=
  if (s.die l).lease.leader && !s.dead l then (rangeFrom 0 s.maq.ndies).foldl (fun s d => s.superviseDie l d) s else s

/-- Step 5 once DISCOVER has passed: the lease is claimed or followed (R424); a core that leads goes on to step 6. -/
def State.bootNext (s : State) (d : Nat) : State :=
  let x := (s.die d).boot
  if x.mode != 0 || x.stage != 1 || !s.portsUp d then s
  else ((s.leaseClaim d).onDie d fun y => { y with boot := { y.boot with stage := 2 } }).supervise d

/-- The D40 dies that the package has, by the maquette in flash. -/
def State.present (s : State) (d : Nat) : Bool := decide (d ≤ fieldN (s.flashN maqAt 64) 32 4) && decide (d < 8)

/-- The slot a start chooses: the valid one of higher VERSION, slot A on a tie (R423, R424). -/
def State.chooseSlot (s : State) (roll : BitVec 32) : Option Nat :=
  let ok := fun k => Config.imgVerifies (s.image k) && decide (Config.imgMinRoll (s.image k) ≤ roll)
  let ver := fun k => (Config.imgVersion (s.image k)).toNat
  if ok 0 && ok 1 then some (if ver 0 < ver 1 then 1 else 0) else if ok 0 then some 0 else if ok 1 then some 1 else none

/-- Minimal mode before a slot has been chosen: SLOT reads 0xF, none (R425). -/
def State.noSlot (s : State) (d reason : Nat) : State := (s.minimal d reason).onDie d fun x => { x with boot := { x.boot with slot := 0xF } }

/-- A start (R424), steps 1 to 4: what fails leads to minimal mode. -/
def State.start (s : State) (d : Nat) : State :=
  let att := (s.die d).boot.att
  if !s.present d then s
  else if 3 ≤ att.toNat then s.noSlot d 0x11
  else
    let s := s.onDie d fun x => { x with boot := { x.boot with att := x.boot.att + 1, since := x.tclk.toNat, trainAt := x.fclk.toNat } }
    let m := s.readMaq
    match s.chooseSlot m.roll with
    | none => s.noSlot d (if Config.imgVerifies (s.image 0) || Config.imgVerifies (s.image 1) then 0x19 else 0x10)
    | some k =>
      let s := s.onDie d fun x => { x with boot := { x.boot with slot := BitVec.ofNat 4 k, vers := Config.imgVersion (s.image k) } }
      if !Config.maqVerifies s.maqBytes then s.minimal d 0x18
      else if s.maqBad then s.minimal d 0x20
      else
        let s := ({ s with maq := m } : State).enableClusters d
        -- the home die's atelier zeroes its lease line before a port leaves training (R379)
        let s := if s.lineDies.contains d then (s.onDie d fun x => { x with leaseLine := 0 }).homeWrite (s.atePage d / 64) fullMask 0 else s
        (s.onDie d fun x => { x with boot := { x.boot with stage := 1 } }).bootNext d

/-- A die reset, with the reason that its status record keeps. -/
def State.resetDie (s : State) (d reason : Nat) (keepFailed : Bool) : State :=
  let s := (s.forgetDie d).wipe d keepFailed
  (s.onDie d fun x => { x with boot := { x.boot with reason := BitVec.ofNat 8 reason } }).start d

/-- DIE_RESET (R424). -/
def execDieReset (die : Nat) (s : State) : Out := .next (s.resetDie die 0 true)

/-- BOOT_START_TIMEOUT (R424): a start without success within 2^30 atelier clocks. -/
def execBootStartTimeout (die : Nat) (s : State) : Out := .next (if (s.die die).boot.mode = 0 then s.resetDie die 0x12 true else s)

/-! ### DISCOVER (R304) -/

/-- What a die sends in `Disc` and `DiscR` by a port: identifier, port, kind of partner, the digest's first 8 bytes (log 20). -/
def State.discMsg (s : State) (d p : Nat) : Msg :=
  { mkMsg (s.mport d p).pid.toNat d 0 0 with
    req := p, hops := 1, arg := BitVec.ofNat 46 (d % 16 + p % 4 * 16 + 1 * 64), lines := [(fullMask, BitVec.ofNat 512 s.maqDigest8)] }

/-- The failure that a partner's message shows: 0x23 another partner, 0x24 another digest (R304). -/
def State.discBad (s : State) (d p : Nat) (m : Msg) : Option Nat :=
  let q := s.mport d p
  let f := fieldN m.arg.toNat
  if f 0 4 != q.pid.toNat || f 4 2 != q.pport.toNat || f 6 2 != q.kind.toNat then some 0x23
  else if (m.lines.head?.map fun x => x.2.toNat % 2 ^ 64) != some s.maqDigest8 then some 0x24 else none

/-- Whether a die has validated the maquette and is not in minimal mode. -/
def State.discovers (s : State) (d : Nat) : Bool := (s.die d).boot.mode != 2 && (s.die d).boot.stage != 0

/-- A failure of DISCOVER while a start runs (R304, R424). -/
def State.discFail (s : State) (d code : Nat) : State := if (s.die d).boot.mode = 0 then s.minimal d code else s

/-- DISC (R304): answered with `DiscR` where it agrees with the maquette. -/
def execDisc (m : Msg) (port : Nat) (s : State) : Out :=
  .next (if !s.discovers m.dst then s
  else match s.discBad m.dst port m with
    | some c => s.discFail m.dst c
    | none => s.post .discr (s.discMsg m.dst port))

/-- DISCR (R304). -/
def execDiscr (m : Msg) (port : Nat) (s : State) : Out :=
  .next (if !s.discovers m.dst then s
  else match s.discBad m.dst port m with
    | some c => s.discFail m.dst c
    | none => (s.onPort m.dst port fun x => { x with discovered := true }).bootNext m.dst)

/-- PORT_TRAINED (R304): `Disc` goes out on a connected port; one that the maquette leaves unconnected fails the die with 0x22. -/
def execPortTrained (die port : Nat) (s : State) : Out :=
  .next (
    let q := s.mport die port
    let s := s.onPort die port fun x => { x with trained := true }
    if !s.discovers die then s
    else if q.host then s.bootNext die
    else if q.kind = 0 then s.discFail die 0x22
    else s.post .disc (s.discMsg die port))

/-- DISCOVER_TIMEOUT (R304): a connected port has not trained, or has no `DiscR`, within 2^20 fabric clocks. -/
def execDiscoverTimeout (die port : Nat) (s : State) : Out :=
  .next (if (s.mport die port).disc && !(s.port die port).discovered && (s.die die).boot.stage = 1 then s.discFail die 0x21 else s)

/-- HOST_PORT_TRAIN_TIMEOUT (R304). -/
def execHostPortTrainTimeout (die : Nat) (s : State) : Out :=
  .next (if s.maq.hostDie = die ∧ !(s.port die s.maq.hostPort).trained ∧ (s.die die).boot.stage = 1 then s.discFail die 0x21 else s)

/-! ### DOE and SPDM (R426) -/

/-- The boot status record of a die (R425). -/
def Boot.word (b : Boot) : Word :=
  BitVec.ofNat 64 (b.vers.toNat + b.mode.toNat * 2 ^ 24 + b.slot.toNat * 2 ^ 28 + b.att.toNat * 2 ^ 32 + b.reason.toNat * 2 ^ 40)

/-- DOE_STATUS (R426): all ones for a die that is not reached. -/
def execDoeStatus (die : Nat) (s : State) : Out :=
  .next (s.emit (.doe (if s.maq.ndies ≤ die || (s.die die).failed || (s.die die).unreach then BitVec.allOnes 64 else (s.die die).boot.word)))

/-- DOE_STAGE (R426): up to 1 KiB into the staging slot; status 1 for an offset beyond 16 MiB. -/
def execDoeStage (off : Nat) (bytes : List (BitVec 8)) (s : State) : Out :=
  .next (if 0x1000000 ≤ off then s.emit (.doe 1)
  else
    let bs := (bytes.take 1024).take (0x1000000 - off)
    { s with flash := (rangeFrom 0 bs.length).foldl (fun m i => m.set (slotOff 2 + off + i) (bs.getD i 0)) s.flash }.emit (.doe 0))

/-- Copies a slot over another. -/
def State.copySlot (s : State) (from_ dst : Nat) : State :=
  let keep := s.flash.filter fun e => !(decide (slotOff dst ≤ e.1) && decide (e.1 < slotOff dst + 0x1000000))
  { s with flash := (s.image from_).foldl (fun m e => m.set (slotOff dst + e.1) e.2) keep }

/-- DOE_RESTART (R426): a valid staged image replaces the one of lower VERSION, slot B on a tie, every attempt count goes to 0 and every die
resets. -/
def execDoeRestart (s : State) : Out :=
  .next (
    let m := s.readMaq
    if !(Config.imgVerifies (s.image 2) && decide (Config.imgMinRoll (s.image 2) ≤ m.roll)) then s.emit (.doe 2)
    else
      let s := s.copySlot 2 (if Config.imgVersion (s.image 0) < Config.imgVersion (s.image 1) then 0 else 1)
      let s := { s with dies := s.dies.map fun (x : Die) => { x with boot := { x.boot with att := 0 } } }
      ((rangeFrom 0 8).foldl (fun s d => s.resetDie d 0 false) s).emit (.doe 0))

/-- SPDM_REQUEST (R426): the identity, or the digest of the running image or of the maquette. -/
def execSpdmRequest (q : Spdm) (s : State) : Out :=
  .next (match q with
    | .identity => s.emit (.spdm Config.identity)
    | .imageDigest => s.emit (.spdm (Config.digest (s.image (s.die s.maq.hostDie).boot.slot.toNat)))
    | .maquetteDigest => s.emit (.spdm (Config.digest s.maqBytes)))

end Sys2Proof.Machine
end

