-- ==== Sys2Proof/Machine/HostSide.lean ====
section
/-! DEFINITION. The host link (R272 to R274, R308, R309): host snoops of host lines, host requests for device lines, back-invalidation and its
conflicts, the host's answers, the configuration space and BAR 0. -/

namespace Sys2Proof.Machine

/-- Whether the host-port die answers every CXL.cache and CXL.mem request with a link-layer error (R425). -/
def State.hostDown (s : State) : Bool := s.dead s.maq.hostDie

/-! ### Host snoops of host-space lines (R272) -/

/-- The package entry of a host line. -/
def State.hostEnt (s : State) (la : Nat) : JEnt := s.jent s.maq.hostDie la

/-- Answers a host snoop: the data, or that the package has none. -/
def State.hostAnswer (s : State) (la : Nat) (x : Option LineData) : State :=
  match x with
  | some x => s.emit (.hostData la x)
  | none => s.emit (.hostDone la)

/-- The dirty data of a line anywhere in the package. -/
def State.pkgDirty (s : State) (la : Nat) : Option LineData := (s.clines.find? fun x => x.la == la && x.dirtyT).map fun x => x.data

/-- The data of a line anywhere in the package. -/
def State.pkgData (s : State) (la : Nat) : Option LineData :=
  match s.pkgDirty la with
  | some x => some x
  | none => (s.clines.find? fun x => x.la == la && x.kind.moesi?.isSome).map fun x => x.data

/-- Applies a change to a die's permission of a line. -/
def State.setDp (s : State) (d la : Nat) (f : Dp → Dp) : State := s.setSent { s.sent d la with dp := f (s.sent d la).dp }

/-- Every die, in order, as a fold. -/
def State.eachDie (s : State) (f : State → Nat → State) : State := (rangeFrom 0 8).foldl f s

/-- `SnpInv`: every holder gives up the line; dirty data go to the host. -/
def State.hostInv (s : State) (la : Nat) : State :=
  let x := s.pkgDirty la
  let s := s.eachDie fun s d => ((s.dropCopies d la none true).sync d la).setDp d la fun _ => .i
  (s.setJent { s.hostEnt la with st := .absent, holders := [], grants := [] }).hostAnswer la x

/-- The owner's copies become S, their data going to the host. -/
def toShared : LineKind → LineKind
  | .tracked _ mir => .tracked .s mir
  | k => k

/-- `SnpData`: the owner goes to S and the data to the host. -/
def State.hostShared (s : State) (la : Nat) : State :=
  let x := s.pkgData la
  let s := { s with clines := s.clines.map fun (y : CLine) => if y.la == la then { y with kind := toShared y.kind } else y }
  let s := s.eachDie fun s d => (s.sync d la).setDp d la fun p => if p == Dp.i then .i else .s
  let j := s.hostEnt la
  (if j.st == .own || j.st == .os then s.setJent { j with st := .sh } else s).hostAnswer la x

/-- A host snoop by its number, of a line whose entry is not in transition. -/
def State.hostSnoop (s : State) (kind la : Nat) : State :=
  if kind = 0 then s.hostInv la else if kind = 1 then s.hostShared la else s.hostAnswer la (s.pkgData la)

/-- A host snoop arrives: a transaction in progress on the line ends first (R258, R272). -/
def State.hostSnoopIn (s : State) (kind la : Nat) : State :=
  if s.hostDown then s.emit (.hostErr la)
  else if (s.hostEnt la).tx.isSome then { s with host := { s.host with snps := s.host.snps ++ [(kind, la)] } }
  else s.hostSnoop kind la

/-- SNPINV (R272). -/
def execSnpinv (la : Nat) (s : State) : Out := .next (s.hostSnoopIn 0 la)

/-- SNPDATA (R272). -/
def execSnpdata (la : Nat) (s : State) : Out := .next (s.hostSnoopIn 1 la)

/-- SNPCUR (R272): the data, with no change of state. -/
def execSnpcur (la : Nat) (s : State) : Out := .next (s.hostSnoopIn 2 la)

/-! ### The host's requests for device lines (R273, R309) -/

/-- Whether the host may address a line: a region in HBM4E with HDM (R308). -/
def State.hdm (s : State) (la : Nat) : Bool := (s.region la).any fun r => r.kind == 0 && r.hdm

/-- The host as a reader elsewhere: the home's copies go M to O and E to S, its permission for a line of the junction likewise, and the filter lists the
line (R273). -/
def State.hostShare (s : State) (h la : Nat) : State :=
  let dirty := s.dieDirty h la
  let s := (s.demote h la none).sync h la
  let s := if (s.sent h la).exp then s.setDp h la fun p => if p == Dp.i then .i else if dirty then .o else .s else s
  { s with host := { s.host with filter := s.host.filter.filter (· != la) ++ [la] } }

/-- The filter's victim for a line: the least recently allocated one of its set of 16 ways, where the set is full (R273). -/
def State.filterVictim (s : State) (la : Nat) : Option Nat :=
  let set := s.host.filter.filter fun x => x % 16384 == la % 16384
  if s.host.filter.contains la || set.length < 16 then none else set.head?

/-- Whether a device transaction on a line has not ended: a BISnp is out, a write waits at the home, or the junction works on it. -/
def State.deviceBusy (s : State) (la : Nat) : Bool :=
  (s.host.bis.any fun b => b.1 == la) || (s.hws.any fun w => w.la == la) || (s.jent (s.dirDie la) la).tx.isSome
    || s.msgs.any fun p => p.2.la == la && (p.1 == .rdx || p.1 == .upg) && p.2.dst == s.dirDie la && !p.2.toSlice

/-- A host's read at the home: as the slice of the home reads it, once no other die owns the line (R273). -/
def State.hostRead (s : State) (h la : Nat) : State × Bool :=
  match s.homeFill h la with
  | (s, .ok x) => ((s.hostShare h la).emit (.hostData la x), true)
  | (s, .err) => (s.emit (.hostDone la), true)
  | (s, .wait) => (s, false)

/-- Serves a host request if nothing holds it up, and says whether it is served: a write of whole or partial lines at the home, or a read; a read that finds
its filter set full waits for the victim's BIRsp (R273). -/
def State.tryHost (s : State) (q : HostReq) : State × Bool :=
  match s.home q.la with
  | .dev h =>
    if !s.hdm q.la || s.lineLost q.la then (s.emit (.hostDone q.la), true)
    else if s.deviceBusy q.la then (s, false)
    else if q.write then (s.homeAccept ⟨h, q.la, q.mask, q.data, none, none, true, false⟩, true)
    else match s.filterVictim q.la with
      | some v => (if s.host.bis.any fun b => b.1 == v then s else s.biSnoop v .wru (mkMsg h h v 0), false)
      | none => s.hostRead h q.la
  | _ => (s.emit (.hostDone q.la), true)

/-- Serves host requests in order, those for one line in their order; what is held up waits on. -/
def State.serveAll (s : State) : List HostReq → List HostReq → State
  | [], rest => { s with host := { s.host with yielded := rest } }
  | q :: qs, rest =>
    if rest.any fun r => r.la == q.la then s.serveAll qs (rest ++ [q])
    else
      let r := s.tryHost q
      r.1.serveAll qs (if r.2 then rest else rest ++ [q])

/-- Serves the host's requests and snoops that waited and that nothing holds up any longer, in order (R272, R274). -/
def State.serveYielded (s : State) : State :=
  let go := s.host.snps.filter fun p => !(s.hostEnt p.2).tx.isSome
  let s := { s with host := { s.host with snps := s.host.snps.filter fun p => !go.contains p } }
  let s := go.foldl (fun s p => s.hostSnoop p.1 p.2) s
  s.serveAll s.host.yielded []

/-- HOST_M2S_REQUEST (R273, R274): performed at the home as a tracked access by HOST; it yields to a device transaction on the line. A line that the host
cannot address is answered with no effect. -/
def State.hostReq (s : State) (q : HostReq) : State :=
  if s.hostDown then s.emit (.hostErr q.la)
  else ({ s with host := { s.host with yielded := s.host.yielded ++ [q] } } : State).serveYielded

/-- HOST_M2S_REQUEST. -/
def execHostM2sRequest (q : HostReq) (s : State) : Out := .next (s.hostReq q)

/-- BIRSP (R273, R274): the host holds the line no longer and the transactions that waited for it proceed; a BIConflict that met it is acknowledged, and the
host's request is served after the transaction. -/
def execBirsp (la : Nat) (s : State) : Out :=
  .next (
    let held := s.host.bis.filter fun b => b.1 == la && b.2.1 != Mop.wru
    let met := s.host.conflicts.contains la
    let s := { s with
      host := { s.host with
        filter := s.host.filter.filter (· != la), bis := s.host.bis.filter fun b => b.1 != la, conflicts := s.host.conflicts.filter (· != la) }
      msgs := (held.map fun (b : Nat × Mop × Msg) => b.2) ++ s.msgs }
    let s := s.jAck (s.dirDie la) la biAck false false
    let s := if met then s.emit (.biack la) else s
    (s.settle settleBound).serveYielded)

/-- BICONFLICT (R274): the host's request yields; BIConflictAck follows BIRsp. -/
def execBiconflict (q : HostReq) (s : State) : Out :=
  .next (if s.host.bis.any fun b => b.1 == q.la then
    { s with host := { s.host with yielded := s.host.yielded ++ [q], conflicts := s.host.conflicts.filter (· != q.la) ++ [q.la] } }
  else (s.emit (.biack q.la)).hostReq q)

/-! ### The host's answers (R272) -/

/-- CXL_CACHE_HOST_RESPONSE (R272): data for the asker of a host line, and the junction's wait ends. A completion of an eviction ends
nothing. -/
def execCxlCacheHostResponse (la : Nat) (data : LineData) (s : State) : Out :=
  .next (
    let j := s.hostEnt la
    match j.tx with
    | some t =>
      if t.acks.contains hostAck then
        (s.send .data { mkMsg t.m.req s.maq.hostDie la t.m.rtx with lines := [(fullMask, data)] }).jAck s.maq.hostDie la hostAck false false
      else s
    | none => s)

/-! ### The configuration space and BAR 0 (R308) -/

/-- Bytes of the configuration space; a CXL.io address from here on is one of BAR 0 (log 14). -/
def cfgBytes : Nat := 4096

/-- Where the registers of the two HDM decoders stand in BAR 0, and the bytes of each decoder (log 14). -/
def hdmBase : Nat := 0x1210
/-- Bytes of one HDM decoder's registers. -/
def hdmStride : Nat := 0x20

/-- A read of BAR 0: what was written to a decoder's base, size and control, COMMITTED following COMMIT; every other component register is free (log 14). -/
def State.barRead (s : State) (off : Nat) : W32 :=
  let w := s.host.bar0.get off
  if off < hdmBase ∨ hdmBase + 2 * hdmStride ≤ off then Config.cfgRead s.free (cfgBytes + off) s.host.bar0
  else match (off - hdmBase) % hdmStride with
    | 0x00 | 0x08 => w &&& 0xF0000000
    | 0x04 | 0x0C => w
    | 0x10 => (w &&& 0x13FF) ||| (if w.getLsbD 9 then 0x400 else 0)
    | _ => 0

/-- CONFIGURATION_SPACE_ACCESS (R308): a word of the configuration space, or of BAR 0; what the manual gives no bits of is free (log 14). -/
def execConfigurationSpaceAccess (addr : Nat) (write : Bool) (data : W32) (s : State) : Out :=
  .next (
    if addr < cfgBytes then
      if write then { s with host := { s.host with cfg := s.host.cfg.set addr data } }
      else s.takeFree.emit (.cfg (Config.cfgRead s.free addr s.host.cfg))
    else
      let off := addr - cfgBytes
      if write then { s with host := { s.host with bar0 := s.host.bar0.set off data } }
      else s.takeFree.emit (.cfg (s.barRead off)))

end Sys2Proof.Machine
end

