-- ==== Sys2Proof/Machine/Integer.lean ====
section
/-! DEFINITION. Integer and bit instructions, opcodes 0x20 to 0x37 (R198 to R204). -/

namespace Sys2Proof.Machine

/-- A binary integer operation on I32 sources. -/
def opInt2 (sc : Bool) (dst sa : BitVec 10) (sb : Src) (w : Nat) (f : Nat → Nat → Nat) : Op where
  srcs := [(regOpd sc sa, isTag tI32), (srcOpd sc (.int w) 1 sb, isTag tI32)]
  dsts := [regDst sc dst]
  tag := tagC tI32
  fn := lane1 fun x => f (arg x 0) (arg x 1)

/-- `iadd` and `isub` (R201). -/
def opAdd (sub sc : Bool) (dst sa : BitVec 10) (sb : Src) (it cy : BitVec 2) (cp : BitVec 3) : Op :=
  let w := itW it
  let base := opInt2 sc dst sa sb w (fun a b => if cy = 3 then satAdd (itS it) w sub a b
    else carryAdd w sub a b (if sub then 1 else 0) % 2 ^ w)
  if cy = 1 then { base with
    dsts := [regDst sc dst, .p cp.toNat]
    fn := fun _ rd l =>
      let r := carryAdd w sub (arg (rd l) 0) (arg (rd l) 1) (if sub then 1 else 0)
      ([r % 2 ^ w, if carryOut w r then 1 else 0], 0) }
  else if cy = 2 then { base with
    srcs := base.srcs ++ [(.p cp.toNat, anyTag)]
    dsts := [regDst sc dst, .p cp.toNat]
    fn := fun _ rd l =>
      let r := carryAdd w sub (arg (rd l) 0) (arg (rd l) 1) (arg (rd l) 2)
      ([r % 2 ^ w, if carryOut w r then 1 else 0], 0) }
  else base

/-- `imul` (R200). -/
def opImul (sc : Bool) (dst sa : BitVec 10) (sb : Src) (it hw : BitVec 2) : Op :=
  let w := itW it
  if hw = 2 then { opInt2 sc dst sa sb w (fun a b => mulWide (itS it) a b 0) with dsts := [regDst sc dst 2] }
  else opInt2 sc dst sa sb w fun a b => if hw = 0 then a * b % 2 ^ w else mulHi (itS it) w a b 0

/-- `imad` (R200). -/
def opImad (sc : Bool) (dst sa : BitVec 10) (sb : Src) (sC : BitVec 10) (it hw : BitVec 2) : Op :=
  let w := itW it
  let k := if hw = 2 then 2 else 1
  { opInt2 sc dst sa sb w (fun _ _ => 0) with
    srcs := [(regOpd sc sa, isTag tI32), (srcOpd sc (.int w) 1 sb, isTag tI32), (regOpd sc sC k, isTag tI32)]
    dsts := [regDst sc dst k]
    fn := lane1 fun x =>
      let a := arg x 0
      let b := arg x 1
      let c := arg x 2
      if hw = 2 then mulWide (itS it) a b c else if hw = 0 then (a * b + c) % 2 ^ w else mulHi (itS it) w a b c }

/-- `idiv` (R202). -/
def opIdiv (sc : Bool) (dst sa : BitVec 10) (sb : Src) (it : BitVec 2) (rem : Bool) : Op :=
  opInt2 sc dst sa sb (itW it) fun a b => divI (itS it) rem (itW it) a b

/-- `imin` and `imax` (R200). -/
def opMinMax (mx sc : Bool) (dst sa : BitVec 10) (sb : Src) (it : BitVec 2) : Op :=
  let w := itW it
  opInt2 sc dst sa sb w fun a b =>
    let a := a % 2 ^ w
    let b := b % 2 ^ w
    if cmpPat 2 (itS it) w a b == mx then b else a

/-- `iabs` and `ineg` (R200). -/
def opAbsNeg (neg sc : Bool) (dst sa : BitVec 10) (it : BitVec 2) (sat : Bool) : Op where
  srcs := [(regOpd sc sa, isTag tI32)]
  dsts := [regDst sc dst]
  tag := tagC tI32
  fn := lane1 fun x => absNeg neg sat (itW it) (arg x 0)

/-- `icmp` (R200): a predicate, or an s or x register. -/
def opIcmp (sc : Bool) (dst sa : BitVec 10) (sb : Src) (it : BitVec 2) (cmp : BitVec 3) : Op :=
  { opInt2 sc dst sa sb (itW it) (fun a b => if cmpPat cmp (itS it) (itW it) a b then 1 else 0) with
    dsts := [if sc then .r dst.toNat else .p dst.toNat] }

/-- `idp4` and `sad` (R204). -/
def opPacked (dot sc : Bool) (dst sa : BitVec 10) (sb : Src) (sC : BitVec 10) (pk : BitVec 2) (sat : Bool) : Op :=
  let t := if pk.toNat ≤ 1 then tI8 else tI16
  { srcs := [(regOpd sc sa, isTag t), (srcOpd sc (.int 32) 1 sb, isTag t), (regOpd sc sC, isTag tI32)]
    dsts := [regDst sc dst]
    tag := tagC tI32
    fn := lane1 fun x => packedSum dot sat pk (arg x 0) (arg x 1) (arg x 2) }

/-- `lea` (R200). -/
def opLea (sc : Bool) (dst sa : BitVec 10) (sb : Src) (w : BitVec 2) (sh : BitVec 5) : Op :=
  opInt2 sc dst sa sb (wW w) fun a b => (a + b * 2 ^ sh.toNat) % 2 ^ wW w

/-- A binary bit operation on any tags, with the result tag of bitwise logic or I32 (R94). -/
def opBit2 (logic sc : Bool) (dst sa : BitVec 10) (sb : Src) (w : BitVec 2) (f : Nat → Nat → Nat → Nat) : Op where
  srcs := [(regOpd sc sa, anyTag), (srcOpd sc (.int (wW w)) 1 sb, anyTag)]
  dsts := [regDst sc dst]
  tag := if logic then logicTag else tagC tI32
  fn := lane1 fun x => f (wW w) (arg x 0 % 2 ^ wW w) (arg x 1 % 2 ^ wW w)

/-- A unary bit operation. -/
def opBit1 (logic sc : Bool) (dst sa : BitVec 10) (w : BitVec 2) (f : Nat → Nat → Nat) : Op where
  srcs := [(regOpd sc sa, anyTag)]
  dsts := [regDst sc dst]
  tag := if logic then logicTag else tagC tI32
  fn := lane1 fun x => f (wW w) (arg x 0 % 2 ^ wW w)

/-- Position and length of `bfe` and `bfi` from SB and SC, or from the immediate (R203). -/
def fieldSrcs (sc : Bool) (sb : Src) (sC : BitVec 10) : List (Opd × (BitVec 4 → Bool)) :=
  match sb with
  | .imm v => [(.const (v.toNat % 256), anyTag), (.const (v.toNat / 256 % 256), anyTag)]
  | .wide v => [(.const (v.toNat % 256), anyTag), (.const (v.toNat / 256 % 256), anyTag)]
  | sb => [(srcOpd sc (.int 32) 1 sb, anyTag), (regOpd sc sC, anyTag)]

/-- `bfe` (R203). -/
def opBfe (sc : Bool) (dst sa : BitVec 10) (sb : Src) (sC : BitVec 10) (w : BitVec 2) (sx : Bool) : Op where
  srcs := (regOpd sc sa, anyTag) :: fieldSrcs sc sb sC
  dsts := [regDst sc dst]
  tag := tagC tI32
  fn := lane1 fun x => bfeN sx (wW w) (arg x 0) (arg x 1 % 256) (arg x 2 % 256)

/-- `bfi` (R203); DST is read. -/
def opBfi (sc : Bool) (dst sa : BitVec 10) (sb : Src) (sC : BitVec 10) (w : BitVec 2) : Op where
  srcs := (regOpd sc dst, anyTag) :: (regOpd sc sa, anyTag) :: fieldSrcs sc sb sC
  dsts := [regDst sc dst]
  tag := tagC tI32
  fn := lane1 fun x => bfiN (wW w) (arg x 0) (arg x 1) (arg x 2 % 256) (arg x 3 % 256)

/-- `iadd` (R201). -/
def execIadd (h : Hd) (dst sa : BitVec 10) (sb : Src) (it cy : BitVec 2) (cp : BitVec 3) (s : State) : Out :=
  .next (runAlu (srcLen sb) (hdGd h) (opAdd false (scalar h s) dst sa sb it cy cp) s)

/-- `isub` (R201). -/
def execIsub (h : Hd) (dst sa : BitVec 10) (sb : Src) (it cy : BitVec 2) (cp : BitVec 3) (s : State) : Out :=
  .next (runAlu (srcLen sb) (hdGd h) (opAdd true (scalar h s) dst sa sb it cy cp) s)

/-- `imul` (R200). -/
def execImul (h : Hd) (dst sa : BitVec 10) (sb : Src) (it hw : BitVec 2) (s : State) : Out :=
  .next (runAlu (srcLen sb) (hdGd h) (opImul (scalar h s) dst sa sb it hw) s)

/-- `imad` (R200). -/
def execImad (h : Hd) (dst sa : BitVec 10) (sb : Src) (sc : BitVec 10) (it hw : BitVec 2) (s : State) : Out :=
  .next (runAlu (srcLen sb) (hdGd h) (opImad (scalar h s) dst sa sb sc it hw) s)

/-- `idiv` (R202). -/
def execIdiv (h : Hd) (dst sa : BitVec 10) (sb : Src) (it : BitVec 2) (rem : Bool) (s : State) : Out :=
  .next (runAlu (srcLen sb) (hdGd h) (opIdiv (scalar h s) dst sa sb it rem) s)

/-- `imin` (R200). -/
def execImin (h : Hd) (dst sa : BitVec 10) (sb : Src) (it : BitVec 2) (s : State) : Out :=
  .next (runAlu (srcLen sb) (hdGd h) (opMinMax false (scalar h s) dst sa sb it) s)

/-- `imax` (R200). -/
def execImax (h : Hd) (dst sa : BitVec 10) (sb : Src) (it : BitVec 2) (s : State) : Out :=
  .next (runAlu (srcLen sb) (hdGd h) (opMinMax true (scalar h s) dst sa sb it) s)

/-- `iabs` (R200). -/
def execIabs (h : Hd) (dst sa : BitVec 10) (it : BitVec 2) (sat : Bool) (s : State) : Out :=
  .next (runAlu 8 (hdGd h) (opAbsNeg false (scalar h s) dst sa it sat) s)

/-- `ineg` (R200). -/
def execIneg (h : Hd) (dst sa : BitVec 10) (it : BitVec 2) (sat : Bool) (s : State) : Out :=
  .next (runAlu 8 (hdGd h) (opAbsNeg true (scalar h s) dst sa it sat) s)

/-- `icmp` (R200). -/
def execIcmp (h : Hd) (dst sa : BitVec 10) (sb : Src) (it : BitVec 2) (cmp : BitVec 3) (s : State) : Out :=
  .next (runAlu (srcLen sb) (hdGd h) (opIcmp (scalar h s) dst sa sb it cmp) s)

/-- `idp4` (R204). -/
def execIdp4 (h : Hd) (dst sa : BitVec 10) (sb : Src) (sc : BitVec 10) (pk : BitVec 2) (sat : Bool) (s : State) : Out :=
  .next (runAlu (srcLen sb) (hdGd h) (opPacked true (scalar h s) dst sa sb sc pk sat) s)

/-- `lea` (R200). -/
def execLea (h : Hd) (dst sa : BitVec 10) (sb : Src) (w : BitVec 2) (sh : BitVec 5) (s : State) : Out :=
  .next (runAlu (srcLen sb) (hdGd h) (opLea (scalar h s) dst sa sb w sh) s)

/-- `and` (R200). -/
def execAnd (h : Hd) (dst sa : BitVec 10) (sb : Src) (w : BitVec 2) (s : State) : Out :=
  .next (runAlu (srcLen sb) (hdGd h) (opBit2 true (scalar h s) dst sa sb w (fun _ a b => a &&& b)) s)

/-- `or` (R200). -/
def execOr (h : Hd) (dst sa : BitVec 10) (sb : Src) (w : BitVec 2) (s : State) : Out :=
  .next (runAlu (srcLen sb) (hdGd h) (opBit2 true (scalar h s) dst sa sb w (fun _ a b => a ||| b)) s)

/-- `xor` (R200). -/
def execXor (h : Hd) (dst sa : BitVec 10) (sb : Src) (w : BitVec 2) (s : State) : Out :=
  .next (runAlu (srcLen sb) (hdGd h) (opBit2 true (scalar h s) dst sa sb w (fun _ a b => a ^^^ b)) s)

/-- `not` (R200). -/
def execNot (h : Hd) (dst sa : BitVec 10) (w : BitVec 2) (s : State) : Out :=
  .next (runAlu 8 (hdGd h) (opBit1 true (scalar h s) dst sa w (fun n a => 2 ^ n - 1 - a)) s)

/-- `shl` (R200). -/
def execShl (h : Hd) (dst sa : BitVec 10) (sb : Src) (w : BitVec 2) (s : State) : Out :=
  .next (runAlu (srcLen sb) (hdGd h) (opBit2 false (scalar h s) dst sa sb w shlN) s)

/-- `shr` (R200). -/
def execShr (h : Hd) (dst sa : BitVec 10) (sb : Src) (w : BitVec 2) (a : Bool) (s : State) : Out :=
  .next (runAlu (srcLen sb) (hdGd h) (opBit2 false (scalar h s) dst sa sb w (shrN a)) s)

/-- `rot` (R200). -/
def execRot (h : Hd) (dst sa : BitVec 10) (sb : Src) (w : BitVec 2) (s : State) : Out :=
  .next (runAlu (srcLen sb) (hdGd h) (opBit2 false (scalar h s) dst sa sb w rotN) s)

/-- `bfe` (R203). -/
def execBfe (h : Hd) (dst sa : BitVec 10) (sb : Src) (sc : BitVec 10) (w : BitVec 2) (sx : Bool) (s : State) : Out :=
  .next (runAlu (srcLen sb) (hdGd h) (opBfe (scalar h s) dst sa sb sc w sx) s)

/-- `bfi` (R203). -/
def execBfi (h : Hd) (dst sa : BitVec 10) (sb : Src) (sc : BitVec 10) (w : BitVec 2) (s : State) : Out :=
  .next (runAlu (srcLen sb) (hdGd h) (opBfi (scalar h s) dst sa sb sc w) s)

/-- `bfrev` (R200). -/
def execBfrev (h : Hd) (dst sa : BitVec 10) (w : BitVec 2) (s : State) : Out :=
  .next (runAlu 8 (hdGd h) (opBit1 false (scalar h s) dst sa w (fun n a => revN a n)) s)

/-- `bcnt` (R200). -/
def execBcnt (h : Hd) (dst sa : BitVec 10) (w bop : BitVec 2) (s : State) : Out :=
  .next (runAlu 8 (hdGd h) (opBit1 false (scalar h s) dst sa w (bcntN bop)) s)

/-- `sad` (R204). -/
def execSad (h : Hd) (dst sa : BitVec 10) (sb : Src) (sc : BitVec 10) (pk : BitVec 2) (sat : Bool) (s : State) : Out :=
  .next (runAlu (srcLen sb) (hdGd h) (opPacked false (scalar h s) dst sa sb sc pk sat) s)

end Sys2Proof.Machine
end

