-- ==== Sys2Proof/Machine/Memory.lean ====
section
/-! DEFINITION. Memory, synchronisation-object and copy-start instructions, opcodes 0x64 to 0x73 (R158 to R196, R66 to R73). -/

namespace Sys2Proof.Machine

/-! ### Addresses (R160) -/

/-- One lane's access: pointer, bytes, and the bit of the first byte where an element narrower than a byte starts. -/
structure Ea where
  lane : Nat
  ptr : Nat
  n : Nat
  bit : Nat
  deriving DecidableEq, Repr

/-- The offset of a lane. -/
def offOf (s : State) (off : MOff) (l : Nat) : Int :=
  match off with
  | .idx n => sextN (s.cur.regs.rdV n.toNat l).toNat 32
  | .off v => sextN v.toNat 10
  | .wide v => sextN v.toNat 48

/-- The address of a lane for elements of `w` bits (R160): narrower than a byte, the offset counts elements of the bit stream of R104. -/
def eaOf (s : State) (sa : BitVec 10) (off : MOff) (w l : Nat) : Ea :=
  let base := (rVal s sa).toNat
  let o := offOf s off l
  if w < 8 then
    let b := o * w
    ⟨l, ptrAdd base (b / 8), ((b % 8).toNat + w + 7) / 8, (b % 8).toNat⟩
  else ⟨l, ptrAdd base o, w / 8, 0⟩

/-- The lanes that act: the active ones, or once for a uniform access (R159). -/
def accLanes (uni : Bool) (act : W32) : List Nat := if uni then [0] else lanesOf act

/-- The addresses as a list of accesses. -/
def eaReqs (es : List Ea) : Reqs := es.map fun e => (e.lane, e.ptr, e.n)

/-- Whether an index register is PSN. -/
def idxPois (s : State) : MOff → Bool
  | .idx n => s.cur.regs.tag n.toNat == tPSN
  | _ => false

/-- Whether an address register is PSN or poisoned (R164). -/
def addrPois (s : State) (sa : BitVec 10) (off : MOff) : Bool := rPois s sa || idxPois s off

/-- The strict check of an index register: I32 or NIL (R94). -/
def idxTag (off : MOff) : M Unit := do
  let s ← getS
  match off with
  | .idx n => stopIf (s.cur.ctl.tagchk && !orNil tI32 (s.cur.regs.tag n.toNat)) (.trap cFMT 0 0)
  | _ => pure ()

/-- The bank permutation mode: a prefix's, or the control word's (R61). -/
def bpmOf (s : State) (b : Bpm) : Nat := (b.getD s.cur.ctl.bpm).toNat

/-- The missing pages of an access. -/
def missPages (ms : List (Nat × Page × Nat)) : List Page := ms.map fun m => m.2.1

/-- The aperture operation that a pointer names (R67): 0 start, 1 abort, 2 query. -/
def apOp (ptr : Nat) : Nat := fieldN ptr 3 3
/-- The channel that an aperture pointer names. -/
def apCh (ptr : Nat) : Nat := fieldN ptr 12 3
/-- Whether a load may use the pointer: not the aperture, or its query (R67). -/
def apLoad (ptr : Nat) : Bool := spaceOf ptr != 6 || apOp ptr == 2
/-- Whether a store may use the pointer: not the aperture, or a start or abort. -/
def apStore (ptr : Nat) : Bool := spaceOf ptr != 6 || apOp ptr != 2

/-- Counts an outstanding operation of the current thread (R188). -/
def countOut (o : OutOp) : M Unit := modS fun s => s.onCur fun t => { t with outs := t.outs ++ [o] }

/-! ### Values (R165, R169) -/

/-- A memory element as the register value of `rw` bits. -/
def loadVal (ty : BitVec 5) (rw m : Nat) : Nat :=
  let w := tyBits ty
  if 0x10 ≤ ty.toNat ∧ ty.toNat ≤ 0x14 then (widenN (nfmtOf ty) m).toNat
  else if tySigned ty ∨ 0x15 ≤ ty.toNat then truncI (sextN m w) (max rw w)
  else m

/-- The tag that a load sets (R94). -/
def loadTag (ty : BitVec 5) : BitVec 4 :=
  if ty.toNat ≤ 7 then tI32 else if ty.toNat ≤ 0x0C then tNIL else if ty = 0x0E then tBF
  else if 0x15 ≤ ty.toNat then tI32 else tFP32

/-- Whether a store or an atomic accepts a data tag (R94). -/
def dataTagOk (ty : BitVec 5) (t : BitVec 4) : Bool :=
  if ty.toNat ≤ 7 then t == tI32 else if ty.toNat ≤ 0x0C then true else if ty = 0x0E then t == tBF
  else if 0x15 ≤ ty.toNat then t == tI32 || t == tFP32 else t == tFP32

/-- The element that a store writes, and the flags of its narrowing (R107, R108, R169). -/
def storeVal (ty : BitVec 5) (fp : Bool) (rm : BitVec 3) (d : Nat) : Nat × Flags :=
  let w := tyBits ty
  if ty.toNat < 0x10 then (d % 2 ^ w, 0)
  else if ty.toNat ≤ 0x14 then narrowF (nfmtOf ty) rm (BitVec.ofNat 32 d)
  else if fp then f2i rm true w (BitVec.ofNat 32 d)
  else (truncI (satI true w (sextN d 32)) w, 0)

/-- The value of `k` registers in a lane. -/
def vecVal (s : State) (n k l : Nat) : Nat :=
  (rangeFrom 0 k).foldl (fun a i => a + (s.cur.regs.rdV (n + i) l).toNat * 2 ^ (32 * i)) 0

/-- The data of a lane for a store or an atomic. -/
def dataOf (s : State) (uni : Bool) (dst : BitVec 10) (k l : Nat) : Nat := if uni then (rVal s dst).toNat else vecVal s dst.toNat k l

/-- Whether a data register is PSN or poisoned. -/
def dataPois (s : State) (uni : Bool) (dst : BitVec 10) (k : Nat) : Bool :=
  if uni then (rangeFrom dst.toNat k).any fun n => s.cur.regs.rpois.getLsbD n
  else (rangeFrom dst.toNat k).any fun n => s.cur.regs.tag n == tPSN

/-- The strict check of data tags; s and x registers carry none. -/
def dataTag (uni : Bool) (ty : BitVec 5) (dst : BitVec 10) (k : Nat) : M Unit := do
  let s ← getS
  stopIf (!uni && s.cur.ctl.tagchk && (rangeFrom dst.toNat k).any fun n => !dataTagOk ty (s.cur.regs.tag n)) (.trap cFMT 0 0)

/-- Writes a loaded or old value per lane (R97, R165, R179). -/
def putLanes (uni : Bool) (ty : BitVec 5) (dst : BitVec 10) (k : Nat) (act : W32) (vs : List (Nat × Nat)) : M Unit :=
  if uni then setR dst (BitVec.ofNat 64 (assocD 0 vs 0))
  else modS fun s => s.onCur fun t =>
    let rs := (rangeFrom 0 k).foldl (fun r j =>
      r.wrV t.exist (dst.toNat + j) act (loadTag ty) fun l => BitVec.ofNat 32 (assocD 0 vs l / 2 ^ (32 * j))) t.regs
    { t with regs := rs }

/-- Poisons a load's destination (R166, R167). -/
def spoil (uni : Bool) (dst : BitVec 10) (k : Nat) (act : W32) : M Unit :=
  if uni then psnRM dst
  else modS fun s => s.onRegs fun r => (rangeFrom dst.toNat k).foldl (fun r n => r.psnV n act) r

/-! ### Loads (R165 to R168) -/

/-- `ld` and `sld`: `kind` is the KIND of a fault record (R397). -/
def runLoad (len : Nat) (g : Gd) (uni : Bool) (kind : Nat) (dst sa : BitVec 10) (off : MOff) (scope pol : BitVec 3) (now : Bool)
    (ord : BitVec 3) (ty : BitVec 5) (bpm : Bpm) (s : State) : State :=
  s.unitSeq len true g fun act => do
    let s ← getS
    let k := if uni then 1 else tyRegs ty
    let w := tyBits ty
    if addrPois s sa off then spoil uni dst k act
    else
      idxTag off
      let es := (accLanes uni act).map (eaOf s sa off w)
      let (ps, miss) ← resolve .load pol.toNat (bpmOf s bpm) (tyAlign ty) (eaReqs es) (adr := apLoad) (ap8 := w == 64)
      watchTrap false (eaReqs es)
      if !miss.isEmpty then
        if now || s.cur.handler then parkPages 1 3 (missPages miss)
        else
          deferLoad kind dst.toNat miss (s.cur.pcOf s.curGrp)
          spoil uni dst k act
      else
        let xs ← readPcs ps
        let qs ← mapM' (fun (e : Ea) => if spaceOf e.ptr = 6 then do
            let q ← liftS fun s => s.query s.cur (apCh e.ptr)
            pure (e.lane, q.toNat)
          else pure (e.lane, 0)) es
        if xs.any fun x => x.2.isNone then spoil uni dst k act
        else
          putLanes uni ty dst k act (es.map fun e =>
            (e.lane, if spaceOf e.ptr = 6 then assocD 0 qs e.lane else loadVal ty (if uni then 64 else 32) (fieldN (laneVal xs e.lane) e.bit w)))
          countOut .load
          if ord = 1 then acquire scope patFull false

/-- `ld` (R165 to R168). -/
def execLd (g : Gd) (dst sa : BitVec 10) (off : MOff) (scope pol : BitVec 3) (now : Bool) (ord : BitVec 3) (ty : BitVec 5) (bpm : Bpm)
    (s : State) : Out :=
  .next (runLoad (offLen bpm off) g s.cur.arm (if s.cur.arm then 3 else 0) dst sa off scope pol now ord ty bpm s)

/-- `sld` (R165 to R168). -/
def execSld (dst sa : BitVec 10) (off : MOff) (scope pol : BitVec 3) (now : Bool) (ord : BitVec 3) (ty : BitVec 5) (bpm : Bpm)
    (s : State) : Out :=
  .next (runLoad (offLen bpm off) noGd true 1 dst sa off scope pol now ord ty bpm s)

/-! ### Stores (R169 to R176) -/

/-- The bytes that the lanes' elements narrower than a byte leave, by address, the later lane over the earlier (R170, R171). -/
def mergeSub (w : Nat) (xs : List (Pc × Option Nat)) (es : List (Ea × Nat)) : List (Nat × Nat) :=
  es.foldl (fun m x =>
    let e := x.1
    (xs.filter fun y => y.1.lane == e.lane).foldl (fun m y =>
      let p := y.1
      (rangeFrom 0 p.n).foldl (fun m i =>
        let old := assocD (fieldN (y.2.getD 0) (8 * i) 8) m (p.pa + i)
        let j := 8 * (p.off + i)
        let mk := fieldN ((2 ^ w - 1) * 2 ^ e.bit) j 8
        let ins := fieldN (x.2 % 2 ^ w * 2 ^ e.bit) j 8
        assocSet m (p.pa + i) ((old ^^^ (old &&& mk)) ||| ins)) m) m) []

/-- The pieces of a store with their bytes. -/
def storeWrs (w : Nat) (ps : List Pc) (xs : List (Pc × Option Nat)) (es : List (Ea × Nat)) : List Wr :=
  if w < 8 then
    let m := mergeSub w xs es
    ps.map fun p => ⟨p, (rangeFrom 0 p.n).foldl (fun a i => a + assocD 0 m (p.pa + i) * 2 ^ (8 * i)) 0⟩
  else ps.map fun p =>
    let v := match es.find? fun x => x.1.lane == p.lane with
      | some x => x.2
      | none => 0
    ⟨p, fieldN v (8 * p.off) (8 * p.n)⟩

/-- Step 1 of the starts of a store: every template page is present, or the thread parks (R70). -/
def apTemplates (es : List (Ea × Nat)) : M Unit := do
  let miss ← mapM' (fun (x : Ea × Nat) =>
    if spaceOf x.1.ptr = 6 ∧ apOp x.1.ptr = 0 then do
      match ← liftS fun s => s.tmplFind s.cur (BitVec.ofNat 64 x.2) with
      | .absent p => pure [p]
      | .busy => hold
      | _ => pure []
    else pure []) es
  if !miss.flatten.isEmpty then parkPages 1 2 miss.flatten

/-- One lane's command to the aperture (R69): a full channel stalls here, with the lanes below enqueued. -/
def apCommand (x : Ea × Nat) : M Unit := do
  let e := x.1
  if spaceOf e.ptr = 6 then
    if apOp e.ptr = 1 then modS fun s => s.abort s.cur (apCh e.ptr)
    else
      match ← liftS fun s => s.startLane s.cur (apCh e.ptr) (BitVec.ofNat 64 x.2) with
      | .done => pure ()
      | .full => hold true
      | .busy => hold
      | .absent p => parkPages 1 2 [p]
    modS fun s => s.onCur fun t => { t with apDone := t.apDone ||| laneBit e.lane }

/-- `st` and `sst`. -/
def runStore (len : Nat) (g : Gd) (uni : Bool) (dst sa : BitVec 10) (off : MOff) (scope pol rnd ord : BitVec 3) (ty : BitVec 5) (bpm : Bpm)
    (s : State) : State :=
  s.unitSeq len false g fun act => do
    let s ← getS
    let k := if uni then 1 else tyRegs ty
    let w := tyBits ty
    stopIf (addrPois s sa off || dataPois s uni dst k) (.park 0)
    idxTag off
    dataTag uni ty dst k
    -- after a stall or a restore, the lanes that were enqueued act no more (R69)
    let left := act &&& ~~~s.cur.apDone
    if left != 0 then
      let es := (accLanes uni left).map (eaOf s sa off w)
      let (ps, miss) ← resolve .store pol.toNat (bpmOf s bpm) (tyAlign ty) (eaReqs es) (adr := apStore) (ap8 := w == 64)
      watchTrap true (eaReqs es)
      if !miss.isEmpty then parkPages 1 2 (missPages miss)
      let fp := !uni && s.cur.regs.tag dst.toNat == tFP32
      let vs := es.map fun e =>
        let d := dataOf s uni dst k e.lane
        (e, if spaceOf e.ptr = 6 then (d, 0) else storeVal ty fp (rmOf s rnd) d)
      let xs := vs.map fun v => (v.1, v.2.1)
      apTemplates xs
      prepareStore ps
      let old ← if w < 8 then readHeld ps else pure []
      stopIf (old.any fun x => x.2.isNone) (.trap cLOST 0 0)
      if ord = 2 then release scope
      allHeld ps
      eachM apCommand xs
      -- what a release or a start gave up is obtained afresh before any lane is performed (R173, R177)
      allHeld ps
      modS fun s => s.performWrs (storeWrs w ps old (xs.filter fun x => spaceOf x.1.ptr != 6))
      done ps
      countOut .store
      modS fun s => s.onCur fun t => t.orFlags (vs.foldl (fun f v => f ||| v.2.2) 0)

/-- `st` (R169 to R176). -/
def execSt (g : Gd) (dst sa : BitVec 10) (off : MOff) (scope pol rnd ord : BitVec 3) (ty : BitVec 5) (bpm : Bpm) (s : State) : Out :=
  .next (runStore (offLen bpm off) g s.cur.arm dst sa off scope pol rnd ord ty bpm s)

/-- `sst` (R169 to R176). -/
def execSst (dst sa : BitVec 10) (off : MOff) (scope pol ord : BitVec 3) (ty : BitVec 5) (bpm : Bpm) (s : State) : Out :=
  .next (runStore (offLen bpm off) noGd true dst sa off scope pol 0 ord ty bpm s)

/-! ### Atomics (R179 to R182) -/

/-- Spaces that accept atomics. -/
def atomSpc (sp : Nat) : Bool := sp == 0 || sp == 1 || sp == 2 || sp == 4 || sp == 5

/-- Where a lane's atomic is performed (R181): in this cluster (its store, or a scratchpad or vault), or at the home. -/
inductive AtomAt where
  | cluster | home
  deriving DecidableEq, Repr

/-- Where a piece's atomic is performed at a scope. -/
def atomAt (scope : BitVec 3) (p : Pc) : AtomAt :=
  if p.sp = 2 then .home
  else if p.sp = 4 ∨ p.sp = 5 ∨ p.coherent ∨ scope.toNat < 2 then .cluster
  else .home

/-- Gives up this die's copies of an untracked line, dirty bytes first, so that the home's value is the one this die sees. -/
def State.yieldLine (s : State) (la : Nat) : State :=
  let d := s.cur.loc.die
  let s := (s.evictLine d s.cur.loc.cl la).l2Flush d la
  if s.homedAt d la then s else s.dropL2 d la false

/-- Sends one lane's atomic to its home, which may be this die (R181). -/
def State.sendAtom (s : State) (key : Nat) (aop : BitVec 3) (ty : BitVec 5) (p : Pc) (op cmp : Nat) : State :=
  let d := s.cur.loc.die
  let la := p.pa / 64
  let s := if p.sp = 2 then s else s.yieldLine la
  let s := if p.cmp then s.markCmp la else s
  let lines := [(pcMask p, placed p op), (pcMask p, placed p cmp)]
  match s.home la with
  | .remote g =>
    (s.askOff d key .remat { mkMsg (s.maq.egress.getD g ⟨0, 0, 0⟩).die.toNat d la 0 with arg := atuArg aop ty, lines := lines }).settle settleBound
  | .dev h => (s.askOff d key .atu { mkMsg h d la 0 with arg := atuArg aop ty, lines := lines }).settle settleBound
  | _ => s

/-- Records what a lane's atomic that is performed already answered, for an instruction that goes on to wait. -/
def State.keepAtom (s : State) (key : Nat) (x : LineData) : State :=
  s.setSent ⟨s.cur.loc.die, key, [], .i, false, some ⟨0, .atu, 4096, false, 0, some x, false, 0, s.cur.loc.die, 0⟩, []⟩

/-- Drops what an instruction awaits or has recorded of its atomics. -/
def State.dropOff (s : State) (keys : List Nat) : State :=
  { s with sdir := s.sdir.filter fun e => !(e.die == s.cur.loc.die && keys.contains e.la) }

/-- One lane of an atomic (R180): performed in this cluster, or sent and awaited. `far` says that the instruction may wait between its
lanes, so that each lane's answer is recorded and no lane is performed twice. -/
def atomLane (far : Bool) (keys : List Nat) (scope aop : BitVec 3) (ty : BitVec 5) (op cmp : Nat) (key : Nat) (p : Pc) : M Nat := do
  let s ← getS
  let d := s.cur.loc.die
  if (s.sent d key).req.isNone && atomAt scope p == .cluster then
    match ← readPc p with
    | some old => do
      modS fun s =>
        let s := s.performWr ⟨p, aopNew aop ty old op cmp⟩
        if far then s.keepAtom key (placed p old) else s
      pure old
    | none => do
      modS fun s => s.dropOff keys
      trap cLOST
  else
    if (s.sent d key).req.isNone then modS fun s => s.sendAtom key aop ty p op cmp
    let s ← getS
    match s.opAnswer d key with
    | .ok x => pure (lineField x (p.pa % 64) p.n)
    | .wait => hold
    | .err => do
      modS fun s => s.dropOff keys
      trap cLOST

/-- `atom` and `satom` (R179 to R182). -/
def runAtom (len : Nat) (g : Gd) (uni : Bool) (dst sa : BitVec 10) (off : MOff) (scope aop ord : BitVec 3) (ty : BitVec 5) (bpm : Bpm)
    (s : State) : State :=
  s.unitSeq len false g fun act => do
    let s ← getS
    let w := tyBits ty
    let k := if uni then 1 else tyRegs ty
    let kk := k * if aop = 1 then 2 else 1
    stopIf (addrPois s sa off || dataPois s uni dst kk) (.park 0)
    idxTag off
    dataTag uni ty dst kk
    let es := (accLanes uni act).map (eaOf s sa off w)
    let (ps, miss) ← resolve (.atomic (aopClass aop ty) (scope = 4)) 0 (bpmOf s bpm) (tyAlign ty) (eaReqs es) (spcOk := atomSpc)
    watchTrap true (eaReqs es)
    if !miss.isEmpty then parkPages 1 2 (missPages miss)
    let d := s.cur.loc.die
    let key := fun (p : Pc) => offKey s.cur.id (if uni then lowLane act else p.lane) (p.pa / 64)
    let keys := ps.map key
    -- the lanes that a wait between lanes has left to perform
    let todo := ps.filter fun p => (s.sent d (key p)).req.isNone
    prepareStore (todo.filter fun p => p.coherent || p.sp == 2)
    stopIf (todo.any fun p => (p.sp == 4 || p.sp == 5) && s.marked p.pa p.n) (.trap cLOST 0 0)
    eachM (fun (p : Pc) => do
      let s ← getS
      if s.lineLost (p.pa / 64) then lostTrap (p.pa / 64)
      stopIf (s.homeGone d (p.pa / 64)) (.trap cLOST 0 0)) (todo.filter fun p => p.sp == 0 && atomAt scope p == .home)
    -- the operand and the comparand of a lane
    let ops := fun (l : Nat) =>
      let a := dataOf s uni dst k l % 2 ^ w
      if aop = 1 then
        let b := (if uni then (rVal s (dst + 1)).toNat else vecVal s (dst.toNat + k) k l) % 2 ^ w
        (b, a)
      else (a, 0)
    -- lines that the cluster store supplies are brought in before any lane is performed
    let near ← readHeld (todo.filter fun p => atomAt scope p == .cluster && !p.coherent)
    stopIf (near.any fun x => x.2.isNone) (.trap cLOST 0 0)
    if 2 ≤ ord.toNat then release scope
    allHeld todo
    let far := ps.any fun p => atomAt scope p == .home || (p.sp == 0 && !p.coherent && !p.keeps)
    let olds ← mapM' (fun (p : Pc) => do
      let v ← atomLane far keys scope aop ty (ops p.lane).1 (ops p.lane).2 (key p) p
      pure (p.lane, v)) ps
    modS fun s => (ps.filter fun p => (p.sp == 0 && !p.trk) || p.sp == 2).foldl (fun s p => s.notePatina (p.pa / 64)) (s.dropOff keys)
    done ps
    putLanes uni ty dst k act olds
    countOut .load
    if ord = 1 ∨ 3 ≤ ord.toNat then acquire scope patFull false

/-- `atom` (R179 to R182). -/
def execAtom (g : Gd) (dst sa : BitVec 10) (off : MOff) (scope aop ord : BitVec 3) (ty : BitVec 5) (bpm : Bpm) (s : State) : Out :=
  .next (runAtom (offLen bpm off) g s.cur.arm dst sa off scope aop ord ty bpm s)

/-- `satom` (R179 to R182). -/
def execSatom (dst sa : BitVec 10) (off : MOff) (scope aop ord : BitVec 3) (ty : BitVec 5) (bpm : Bpm) (s : State) : Out :=
  .next (runAtom (offLen bpm off) noGd true dst sa off scope aop ord ty bpm s)

/-! ### Synchronisation objects (R183 to R186) -/

/-- Resolves a synchronisation object: its value piece and its patina piece, or the missing pages. -/
def syncObj (acc : Acc) (sa : BitVec 10) (off : MOff) : M (List Pc × List (Nat × Page × Nat)) := do
  let s ← getS
  let e := eaOf s sa off 1024 0
  let r ← resolve acc 0 0 128 [(0, e.ptr, 128)] (spcOk := fun sp => sp ≤ 1)
  stopIf (r.1.any fun p => p.sp == 0 && !p.trk) (.trap cPERM e.ptr 0)
  pure r

/-- Cuts a piece of a line to its first bytes. -/
def Pc.first (p : Pc) (n : Nat) : Pc := { p with n := n }

/-- Waits with what the attempt has done so far. -/
def holdOn : M Unit := do
  modS fun s => s.onCur fun t => t.onGrp s.curGrp fun _ c => { c with wait := .again false }
  stop .waits

/-- The first half of `srel`: the release action, and the atomic at the patina line; what was deposited is recorded, so that it is deposited once
(R185). -/
def deposit (v p : Pc) (key : Nat) (scope : BitVec 3) (fresh : Bool) : M Unit := do
  prepareStore [p]
  let s ← getS
  if s.lineLost (v.pa / 64) then lostTrap (v.pa / 64)
  release scope
  allHeld [p]
  match ← readPc p with
  | none => trap cLOST
  | some pat =>
    let s ← getS
    let rp := s.cur.ctl.patina
    modS fun s => (s.performWr ⟨p, if fresh then rp.toNat else pat ||| rp.toNat⟩).keepAtom key rp
    if isDie scope then clearPatina

/-- The value line of an `srel` is refused after its patina line was written (log 8): the instruction traps with the running patina that it had. -/
def undeposit (key : Nat) : M Unit := do
  modS fun s =>
    let rp := match s.opAnswer s.cur.loc.die key with
      | .ok x => x
      | _ => 0
    let s := (s.dropOff [key]).onCur fun t => { t with ctl := { t.ctl with patina := t.ctl.patina ||| rp } }
    s.stopped (.trap cLOST 0 0) (s.cur.mask s.curGrp) (s.cur.pcOf s.curGrp) (s.cur.gslices s.curGrp)
  stop .waits

/-- `srel` (R184, R185). -/
def execSrel (dst sa : BitVec 10) (off : MOff) (scope : BitVec 3) (fresh : Bool) (sop : BitVec 2) (w : Bool) (s : State) : Out :=
  .next (s.unitSeq (offLen none off) false noGd fun act => do
    let s ← getS
    stopIf (rPois s sa || rPois s dst) (.park 0)
    let (ps, miss) ← syncObj (if sop = 0 then .store else .atomic 1 (scope = 4)) sa off
    watchTrap true [(0, (eaOf s sa off 1024 0).ptr, 128)]
    if !miss.isEmpty then parkPages 1 2 (missPages miss)
    match ps with
    | [v, p] =>
      let key := offKey s.cur.id (lowLane act) (p.pa / 64)
      if (s.sent s.cur.loc.die key).req.isNone then deposit v p key scope fresh
      match ← permit v with
      | .wait => holdOn
      | .err => undeposit key
      | .ok _ =>
        let n := if w then 8 else 4
        match ← readPc (v.first n) with
        | none => undeposit key
        | some old =>
          let x := (rVal s dst).toNat
          let y := match sop.toNat with | 0 => x | 1 => old + x | _ => old ||| x
          modS fun s => (s.dropOff [key]).performWr ⟨v.first n, y % 2 ^ (8 * n)⟩
          done ps
    | _ => pure ())

/-- Reads the value line of an `sacq`, once: what was read is recorded while the patina line is awaited (R186). -/
def valueOf (key : Nat) (v : Pc) : M (Option Nat) := do
  let s ← getS
  match s.opAnswer s.cur.loc.die key with
  | .ok x => pure (some (lineField x (v.pa % 64) v.n))
  | _ =>
    let r ← readPc v
    match r with
    | some x => modS fun s => s.keepAtom key (placed v x)
    | none => pure ()
    pure r

/-- `sacq` (R184, R186). The clearing of CLR is checked as an atomic whose class and reach the manual does not ask about (log 46). -/
def execSacq (dst sa : BitVec 10) (off : MOff) (scope : BitVec 3) (clr w : Bool) (s : State) : Out :=
  .next (s.unitSeq (offLen none off) false noGd fun act => do
    let s ← getS
    if rPois s sa then psnRM dst
    else
      let ptr := (eaOf s sa off 1024 0).ptr
      let (ps, miss) ← syncObj (if clr then .atomic 0 false else .load) sa off
      watchTrap false [(0, ptr, 128)]
      if clr then watchTrap true [(0, ptrAdd ptr 64, 64)]
      if !miss.isEmpty then
        if s.cur.handler then parkPages 1 3 (missPages miss)
        else
          deferLoad 4 dst.toNat miss (s.cur.pcOf s.curGrp)
          psnRM dst
      else
        match ps with
        | [v, p] =>
          let key := offKey s.cur.id (lowLane act) (v.pa / 64)
          match ← valueOf key (v.first (if w then 8 else 4)) with
          | none => psnRM dst
          | some x =>
            -- CLR needs the patina line with write permission
            match ← if clr then permit p else pure (.ok 0) with
            | .wait => hold
            | .err => do
              modS fun s => s.dropOff [key]
              psnRM dst
            | .ok _ =>
              match ← readPc p with
              | some pat =>
                if clr then
                  allHeld [p]
                  modS fun s => s.performWr ⟨p, 0⟩
                modS fun s => s.dropOff [key]
                done ps
                setR dst (BitVec.ofNat 64 x)
                acquire scope (BitVec.ofNat 512 pat) true
              | none =>
                modS fun s => s.dropOff [key]
                psnRM dst
        | _ => pure ())

/-! ### Fences and counters (R187 to R189) -/

/-- `fence` (R187). -/
def execFence (scope ord : BitVec 3) (s : State) : Out :=
  .next (s.unitSeq 8 false noGd fun _ => do
    if 2 ≤ ord.toNat then release scope
    if ord != 2 then acquire scope patFull false)

/-- Whether a counter exceeds a field of `wait`; 63 waits on nothing. -/
def waits (n : BitVec 6) (c : Nat) : Bool := n != 63 && decide (n.toNat < c)

/-- `wait` (R189). -/
def execWait (ldn stn cpn mxn : BitVec 6) (s : State) : Out :=
  .next (s.unitSeq 8 true noGd fun _ => do
    let s ← getS
    let t := s.cur
    let long := waits cpn t.cntCp || waits mxn t.cntMx
    stopIf (waits ldn t.cntLd || waits stn t.cntSt || long) (.hold long))

/-! ### Prefetch and cache maintenance (R190, R191) -/

/-- Brings a resolved line in: into the cluster store, or into an L2 slice, where the line is one that it holds under its policy (R29, R49). -/
def prefetchLine (l2 : Bool) (p : Pc) : M Unit := do
  let s ← getS
  let d := s.cur.loc.die
  let la := p.pa / 64
  if p.sp == 2 || s.lineLost la || s.homeGone d la then pure ()
  else
    let r ←
      if !l2 then liftS fun s => s.readLine d s.cur.loc.cl p
      else if p.sp = 7 then liftS fun s => s.compLine d p
      else if !p.coherent && (p.pol == 1 || p.pol == 2) then liftS fun s => s.fillLine d la true
      else pure (.ok 0)
    match r with
    | .wait => hold
    | _ => done [p]

/-- Brings one lane's line in, where its access would neither trap nor fault nor be absent. -/
def prefetchLane (l2 : Bool) (e : Ea) : M Unit := do
  let s ← getS
  let sp := spaceOf e.ptr
  if ptrBad s e.ptr 1 || sp == 4 || sp == 5 then pure ()
  else
    match cutAccess s e.lane e.ptr 1 with
    | c :: _ =>
      match ← liftS (resolvePc .load 0 0 e.lane sp c) with
      | .ok p => prefetchLine l2 p
      | _ => pure ()
    | [] => pure ()

/-- `prf` (R190). -/
def execPrf (g : Gd) (sa : BitVec 10) (off : MOff) (lvl : Bool) (s : State) : Out :=
  .next (s.unitSeq (offLen none off) true g fun act => do
    let s ← getS
    if addrPois s sa off then pure ()
    else
      idxTag off
      let es := (lanesOf act).map (eaOf s sa off 8)
      match es.find? fun e => spaceOf e.ptr = 6 with
      | some e => trap cADDR e.ptr
      | none => eachM (prefetchLane lvl) es)

/-- The lines that `cmo` acts on: those of the active lanes whose page is present. -/
def runCmo (g : Gd) (sa : BitVec 10) (off : MOff) (f : State → Pc → State) (s : State) : State :=
  s.unitSeq (offLen none off) false g fun act => do
    let s ← getS
    stopIf (addrPois s sa off) (.park 0)
    idxTag off
    let es := (lanesOf act).map (eaOf s sa off 8)
    let (ps, _) ← resolve .load 0 0 1 (eaReqs es)
    modS fun s => (ps.filter fun p => p.sp != 4 && p.sp != 5).foldl f s
    countOut .store

/-- Sends a line's dirty bytes that this die's L2 holds of it to its home on another die, in the view that the piece names (R191). -/
def State.l2Clean (s : State) (d : Nat) (p : Pc) : State :=
  if s.homedAt d (p.pa / 64) then s else s.l2Flush d (p.pa / 64) (p.sp == 7)

/-- `cmo.wb` (R191): tracked lines are given up through the directory. -/
def execCmoWb (g : Gd) (sa : BitVec 10) (off : MOff) (scope : BitVec 3) (s : State) : Out :=
  .next (runCmo g sa off (fun s p =>
    let d := s.cur.loc.die
    let la := p.pa / 64
    let s := if p.sp == 7 then s else if p.coherent then s.evictLine d s.cur.loc.cl la else s.cleanLine d s.cur.loc.cl la
    if isPkg scope then s.l2Clean d p else s) s)

/-- `cmo.wbinv` (R191). -/
def execCmoWbinv (g : Gd) (sa : BitVec 10) (off : MOff) (scope : BitVec 3) (s : State) : Out :=
  .next (runCmo g sa off (fun s p =>
    let d := s.cur.loc.die
    let la := p.pa / 64
    let s := if p.sp == 7 then s else s.evictLine d s.cur.loc.cl la
    if isPkg scope && !s.homedAt d la then (s.l2Clean d p).dropL2 d la (p.sp == 7) else s) s)

/-- `cmo.iinv` (R154, R191). -/
def execCmoIinv (g : Gd) (sa : BitVec 10) (off : MOff) (_scope : BitVec 3) (s : State) : Out :=
  .next (runCmo g sa off (fun s p =>
    { s with ilines := s.ilines.filter fun x => !(x.die == s.cur.loc.die && x.cl == s.cur.loc.cl && x.la == p.pa / 64) }) s)

/-! ### Decompress and fence (R66, R192) -/

/-- One line of a granule: compressed-view bytes go to memory, then the device view's over them; of dies that hold bytes of one view, a later one in the
list of L2 lines wins (log 47). The copies on the covered dies go; a home's record of what the device view writes begins afresh. -/
def State.dcfLine (s : State) (dies : List Nat) (la : Nat) : State :=
  let dev := memLine s.mem la
  let here := fun (y : L2Line) => y.la == la && dies.contains y.die
  let m := (s.l2.filter fun y => here y && y.comp).foldl (fun m y => putLine m la y.mask y.data) s.mem
  -- a home's entry names the bytes that memory already holds; another die's entry holds them
  let m := (s.l2.filter fun y => here y && !y.comp).foldl (fun m y => putLine m la y.mask (if s.homedAt y.die la then dev else y.data)) m
  let l2 := (s.l2.filter fun y => !here y || (!y.comp && s.homedAt y.die la)).map fun y => if here y then { y with mask := 0 } else y
  { s with mem := m, l2 := l2 }

/-- One granule (R66): its lines, and its form, PACKED unless the device view's bytes were merged over it. -/
def State.dcfGranule (s : State) (dies : List Nat) (pa : Nat) : State :=
  let las := rangeFrom (pa / 64) 4
  let merged := s.l2.any fun y => las.contains y.la && dies.contains y.die && !y.comp && y.mask != 0
  let rest := s.packed.filter (· != pa / 256)
  let s := las.foldl (fun s la => s.dcfLine dies la) s
  { s with packed := if merged then rest else rest ++ [pa / 256] }

/-- WATCH over a range of one space (R394). -/
def watchRange (store : Bool) (sp va n : Nat) : M Unit := do
  let s ← getS
  let w := s.cur.ctl.dbgctl.toNat
  let on := (if store then bitN w 62 else bitN w 61) && !s.cur.noWatch
  stopIf (on && sp == fieldN w 57 4 && decide (va / 64 ≤ fieldN w 6 51) && decide (fieldN w 6 51 < (va + n + 63) / 64)) (.trap 0x0013 0 0)

/-- The pages of a range, by their first addresses. -/
def pagesOf (va n : Nat) : List Nat := (rangeFrom (va / 65536) ((va + n - 1) / 65536 + 1 - va / 65536)).map fun p => p * 65536

/-- `dcf` (R192). -/
def execDcf (sa sb : BitVec 10) (scope : BitVec 3) (s : State) : Out :=
  .next (s.unitSeq 8 false noGd fun _ => do
    let s ← getS
    stopIf (rPois s sa || rPois s sb) (.park 0)
    let ptr := (rVal s sa).toNat
    let n := (rVal s sb).toNat
    stopIf (ptrBad s ptr 0 || (spaceOf ptr != 0 && spaceOf ptr != 7)) (.trap cADDR ptr 0)
    stopIf (ptr % 256 != 0 || n % 256 != 0 || decide (2 ^ 32 ≤ n)) (.trap cALIGN ptr 0)
    stopIf (decide (2 ^ 57 < fieldN ptr 0 57 + n)) (.trap cADDR ptr 0)
    if n != 0 then
      let sp := spaceOf ptr
      let va := fieldN ptr 0 57
      let xs ← mapM' (fun a => do
        let r ← liftS fun s => translate s 0 sp (max a va) (.atomic 0 false)
        pure (max a va, r)) (pagesOf va n)
      stopIf (xs.any fun x => match x.2 with
        | .perm => true
        | .reach => true
        | .ok _ e _ => !entCmp e
        | _ => false) (.trap cPERM ptr 0)
      watchRange true sp va n
      if xs.any fun x => x.2 == .busy then hold
      let miss := xs.filterMap fun x => if x.2 = .absent then some (pageOf s.cur.tpasid sp x.1) else none
      if !miss.isEmpty then parkPages 1 2 miss
      -- what has been written before is performed first
      let s ← getS
      stopIf (s.unperformed s.cur.loc.die) (.hold true)
      modS fun s => xs.foldl (fun s x =>
        match x.2 with
        | .ok pa _ _ =>
          let k := (min (va + n) (x.1 / 65536 * 65536 + 65536) - x.1) / 256
          (rangeFrom 0 k).foldl (fun s i =>
            let dies := if isPkg scope then rangeFrom 0 8 else
              s.cur.loc.die :: (match s.home (pa / 64) with | .dev h => [h] | _ => [])
            s.dcfGranule dies (pa + 256 * i)) s
        | _ => s) s)

/-! ### Reclaiming a lost line (R193, R271) -/

/-- Writes a LOST line at its home and frees its entries; copies that stopped on it resume (R269). -/
def State.reclaim (s : State) (la : Nat) (x : LineData) : State :=
  let d := s.dirDie la
  let free := fun (k : Copy) => if k.lostLine == some la then { k with lostLine := none } else k
  let chans := s.chans.map fun c => { c with cmds := c.cmds.map free }
  let s : State := { s with mem := putLine s.mem la fullMask x, chans := chans }
  (s.setJent { s.jent d la with st := .absent, holders := [], tx := none, wq := [], errs := 0, fenced := [], grants := [] }).watchWrite la

/-- `pclr` (R193). Its page is checked for W, as a store's (log 48). -/
def execPclr (dst sa sb : BitVec 10) (s : State) : Out :=
  .next (s.unitSeq 8 false noGd fun _ => do
    let s ← getS
    stopIf (rPois s sa || (rangeFrom sb.toNat 8).any fun n => s.cur.regs.rpois.getLsbD n) (.park 0)
    superOnly
    let ptr := (rVal s sa).toNat
    stopIf (ptrBad s ptr 64) (.trap cADDR ptr 0)
    stopIf (ptr % 64 != 0) (.trap cALIGN ptr 0)
    stopIf (spaceOf ptr != 0) (.trap cPERM ptr 0)
    let (ps, miss) ← resolve .store 0 0 64 [(0, ptr, 64)]
    watchTrap true [(0, ptr, 64)]
    if !miss.isEmpty then parkPages 1 2 (missPages miss)
    stopIf (ps.any fun p => !p.trk) (.trap cPERM ptr 0)
    release 3
    match ps with
    | p :: _ =>
      let la := p.pa / 64
      let s ← getS
      if (s.jent (s.dirDie la) la).st = .lost then
        modS fun s => s.reclaim la (BitVec.ofNat 512 ((rangeFrom 0 8).foldl (fun a i => a + (s.cur.regs.rdR (sb.toNat + i)).toNat * 2 ^ (64 * i)) 0))
        setR dst 0
      else setR dst 1
    | [] => pure ())

/-! ### Count barriers (R194) -/

/-- Checks and finds the barrier that s[SA] names. -/
def findBar (sa sb : BitVec 10) (write : Bool) : M (Nat × Nat) := do
  let s ← getS
  stopIf (rPois s sa || rPois s sb) (.park 0)
  let k := (rVal s sa).toNat
  let base := (s.ctx s.cur.pasid).cbarBase
  stopIf (decide (2 ^ cbLogn base ≤ k)) (.trap cADDR k 0)
  let b := fieldN base.toNat 16 41 * 65536
  watchTrap write [(0, (b + 32 * k) % 2 ^ 57, 32)]
  if write then watchTrap true [(0, (b + 0x2000000 + 64 * k) % 2 ^ 57, 64)]
  match ← liftS fun s => s.barrier s.cur.loc.die (tlbKey s.cur) s.cur.tpasid s.cur.super base k (if write then .atomic 1 false else .load) with
  | .ok obj slot => do
    if write then eachM (fun (la : Nat) => do
      let s ← getS
      if s.lineLost la then lostTrap la
      stopIf (s.homeGone s.cur.loc.die la) (.trap cLOST 0 0)) [obj / 64, slot / 64]
    pure (obj, slot)
  | .perm => trap cPERM k
  | .busy => hold
  | .absent p => do
    parkPages 1 2 [p]
    pure (0, 0)

/-- The status that `cbar.wait` and `cbar.test` return. -/
def CBar.status (b : CBar) : Word := BitVec.ofNat 64 (b.flips + if b.err then 2 ^ 32 else 0)

/-- `cbar.wait` and `cbar.test`. -/
def runCbarRead (stall : Bool) (dst sa sb : BitVec 10) (scope : BitVec 3) (s : State) : State :=
  s.unitSeq 8 false noGd fun _ => do
    let (obj, slot) ← findBar sa sb false
    let s ← getS
    if s.lineLost (obj / 64) || s.homeGone s.cur.loc.die (obj / 64) then do
      modS fun s => s.countErr (obj / 64)
      psnRM dst
    else
      let b := s.cbar obj
      let flipped := b.flips != (rVal s sb).toNat % 2 ^ 32
      stopIf (stall && !flipped) (.hold true)
      if flipped then acquire scope (s.slotAt slot) true
      setR dst b.status

/-- `cbar.wait` (R194). -/
def execCbarWait (dst sa sb : BitVec 10) (scope : BitVec 3) (s : State) : Out := .next (runCbarRead true dst sa sb scope s)

/-- `cbar.test` (R194). -/
def execCbarTest (dst sa sb : BitVec 10) (scope : BitVec 3) (s : State) : Out := .next (runCbarRead false dst sa sb scope s)

/-- `cbar.arm` (R194): the slot is cleared, and the object takes the update, once all that this die has written is performed. -/
def execCbarArm (sa sb : BitVec 10) (_scope : BitVec 3) (s : State) : Out :=
  .next (s.unitSeq 8 false noGd fun _ => do
    let (obj, slot) ← findBar sa sb true
    let s ← getS
    let d := s.cur.loc.die
    if s.unperformed d then hold
    modS fun s => ((s.barUpdate d slot 4 0).barUpdate d obj 2 (rVal s sb).toNat).settle settleBound)

/-- Whether an update of a count barrier's line that a die has sent is still to be performed. -/
def State.barPending (s : State) (d la : Nat) : Bool := s.awaits d 7 la || s.hws.any fun w => w.la == la && w.home == d

/-- `cbar.arrive` (R194): the object takes the arrival once the slot has taken the running patina. -/
def execCbarArrive (sa sb : BitVec 10) (scope : BitVec 3) (s : State) : Out :=
  .next (s.unitSeq 8 false noGd fun _ => do
    let (obj, slot) ← findBar sa sb true
    release scope
    let s ← getS
    let d := s.cur.loc.die
    let key := offKey s.cur.id (lowLane (s.cur.mask s.curGrp)) (slot / 64)
    if (s.sent d key).req.isNone then
      modS fun s => ((s.barUpdate d slot 3 s.cur.ctl.patina.toNat).settle settleBound).keepAtom key 0
    let s ← getS
    if s.barPending d (slot / 64) then hold
    modS fun s => ((s.dropOff [key]).barUpdate d obj 0 (rVal s sb).toNat).settle settleBound
    if isDie scope then clearPatina)

/-! ### Register-template copies (R195) -/

/-- `cpq` (R195). -/
def execCpq (sa sb : BitVec 10) (ch : BitVec 3) (s : State) : Out :=
  .next (s.unitSeq 8 false noGd fun _ => do
    let s ← getS
    stopIf (rPois s sb || (rangeFrom sa.toNat 8).any fun n => s.cur.regs.rpois.getLsbD n) (.park 0)
    let d := s.cur.loc.die
    let cl := s.cur.loc.cl
    stopIf (s.chanFull d cl ch.toNat) (.hold true)
    let tmpl := BitVec.ofNat 512 ((rangeFrom 0 8).foldl (fun a i => a + (s.cur.regs.rdR (sa.toNat + i)).toNat * 2 ^ (64 * i)) 0)
    let r ← liftS fun s =>
      let c := Copy.fresh s.cur (s.ctx s.cur.pasid) tmpl (rVal s sb)
      if (rVal s sb).toNat % 4096 = 0 then s.copyEnqueue d cl ch.toNat c else s.copyFail d cl ch.toNat c 1
    if r = .busy then hold)

end Sys2Proof.Machine
end

