-- ==== Sys2Proof/Machine/Matrix.lean ====
section
/-! DEFINITION. Matrix and tile instructions, opcodes 0x74 to 0x7D (R224 to R249), and the residue arrays (R120 to R131). -/

namespace Sys2Proof.Machine

/-- TILE_BUSY. -/
def cBUSY : Code := 0x000B
/-- ILL_ENC, where an operand's value shows it (R233). -/
def cENC : Code := 0x0001

/-! ### Tiles, claims, outstanding loads (R229, R239, R240, R245) -/

/-- Whether a `tld` to a tile is outstanding. -/
def Thread.tileOut (t : Thread) (n : Nat) : Bool := t.outs.contains (.tile n)

/-- Whether a tile is claimed. -/
def Thread.claimed (t : Thread) (n : Nat) : Bool := t.claims.any fun c => c.1 == n

/-- TILE_BUSY where one of the tiles is claimed; a wait where a `tld` of one is outstanding. -/
def tilesFree (ts : List Nat) : M Unit := do
  let s ← getS
  stopIf (ts.any s.cur.claimed) (.trap cBUSY 0 0)
  stopIf (ts.any s.cur.tileOut) (.hold false)

/-- TILE_BUSY where any tile of the gang is claimed, once every `tld` has written its tile (R229). -/
def allTilesFree : M Unit := do
  let s ← getS
  stopIf (s.cur.outs.any fun o => match o with | .tile _ => true | _ => false) (.hold false)
  stopIf (!s.cur.claims.isEmpty) (.trap cBUSY 0 0)

/-- An element of a tile as FP32; a NIL tile reads as zeros. -/
def Regs.tileVal (r : Regs) (t e : Nat) : W32 := if r.tTag t = tNIL then 0 else r.rdT t e

/-- Tiles of a core that no resident thread's held reservation takes (R127, R227). -/
def State.freeTiles (s : State) (d cl core : Nat) : Nat :=
  Config.coreTiles - (s.threads.filter fun t => t.loc.die == d && t.loc.cl == cl && t.loc.core == core && t.resvHeld && !t.arm).foldl
    (fun n t => n + t.resv) 0

/-- `tcfg` (R227, R229). -/
def execTcfg (dst : BitVec 10) (sb : Src) (zm : Bool) (s : State) : Out :=
  .next (s.unitSeq (srcLen sb) false noGd fun _ => do
    if ctlPois s sb then psnRM dst
    else
      allTilesFree
      let t := s.cur
      let n := ctlVal s sb % 2 ^ 32
      let clear := fun (r : Regs) (keep : Nat → Bool) => (rangeFrom 0 64).foldl (fun r k => if keep k then r else r.clrT k) r
      if t.resv < n then setR dst 2
      else if !t.resvHeld then
        if t.resv ≤ s.freeTiles t.loc.die t.loc.cl t.loc.core then
          modS fun s => s.onCur fun t => { t with resvHeld := true, tcount := n, regs := clear t.regs fun _ => false }
          setR dst 0
        else setR dst 1
      else
        modS fun s => s.onCur fun t => { t with tcount := n, regs := clear t.regs fun k => !zm && decide (k < min t.tcount n) }
        setR dst 0)

/-- `trel` (R228, R229). -/
def execTrel (s : State) : Out :=
  .next (s.unitSeq 8 false noGd fun _ => do
    allTilesFree
    modS fun s => s.onCur fun t => { t with
      resvHeld := false, tcount := 0, regs := (rangeFrom 0 64).foldl (fun r k => r.clrT k) t.regs })

/-- `tzero` (R241). -/
def execTzero (dst : BitVec 10) (cnt : BitVec 6) (s : State) : Out :=
  .next (s.unitSeq 8 false noGd fun _ => do
    let ts := rangeFrom dst.toNat (cnt.toNat + 1)
    tilesFree ts
    modS fun s => s.onRegs fun r => ts.foldl (fun r k => r.wrT k tFP32 fun _ => 0) r)

/-- `tmov.tov` (R243). With a lane count that does not divide 256, the lanes of the last register beyond element 255 keep their bits, and
its tag is set all the same (log 37). -/
def execTmovTov (dst sa : BitVec 10) (s : State) : Out :=
  .next (s.unitSeq 8 false noGd fun _ => do
    tilesFree [sa.toNat]
    modS fun s => s.onCur fun t =>
      let n := t.nlanes
      { t with regs := (rangeFrom 0 (tmovRegs n)).foldl (fun r k =>
          if t.regs.tTag sa.toNat = tPSN then r.psnV (dst.toNat + k) t.exist
          else r.wrV t.exist (dst.toNat + k) t.exist tFP32 fun l =>
            if k * n + l < 256 then t.regs.tileVal sa.toNat (k * n + l) else t.regs.rdV (dst.toNat + k) l) t.regs })

/-- `tmov.fromv` (R243). -/
def execTmovFromv (dst sa : BitVec 10) (s : State) : Out :=
  .next (s.unitSeq 8 false noGd fun _ => do
    tilesFree [dst.toNat]
    let s ← getS
    let n := s.cur.nlanes
    let vs := rangeFrom sa.toNat (tmovRegs n)
    let r := s.cur.regs
    if vs.any fun k => r.tag k == tPSN then modS fun s => s.onRegs fun r => r.psnT dst.toNat
    else
      stopIf (s.cur.ctl.tagchk && vs.any fun k => !orNil tFP32 (r.tag k)) (.trap cFMT 0 0)
      modS fun s => s.onRegs fun r => r.wrT dst.toNat tFP32 fun e => r.rdV (sa.toNat + e / n) (e % n))

/-- `tmov.tot` (R243). -/
def execTmovTot (dst sa : BitVec 10) (s : State) : Out :=
  .next (s.unitSeq 8 false noGd fun _ => do
    tilesFree [dst.toNat, sa.toNat]
    modS fun s => s.onRegs fun r =>
      if r.tTag sa.toNat = tPSN then r.psnT dst.toNat else r.wrT dst.toNat (r.tTag sa.toNat) fun e => r.rdT sa.toNat e)

/-- One element of `tscl` (R242). -/
def tsclEl (rm : BitVec 3) (relu : Bool) (a f b : W32) : W32 × Flags :=
  let r := fmaF rm 24 a f b
  (if relu && r.1.getLsbD 31 && !(unpackF r.1).isNan then 0 else r.1, r.2)

/-- `tscl` (R242). -/
def execTscl (dst sa : BitVec 10) (sb : Src) (sc : BitVec 10) (relu : Bool) (rnd : BitVec 3) (s : State) : Out :=
  let o := srcOpd true .fp 1 sb
  .next (s.unitSeq 8 false noGd fun _ => do
    let s ← getS
    let ns := o.niche?.toList
    stopIf (ns.any s.nicheBad) (.trap cNICHE 0 0)
    tilesFree [dst.toNat, sa.toNat]
    if o.poisoned s.cur.regs || rPois s sc || s.cur.regs.tTag sa.toNat == tPSN then modS fun s => s.onRegs fun r => r.psnT dst.toNat
    else
      eachM readNiche ns
      let s ← getS
      let f := BitVec.ofNat 32 (o.val s 0)
      let b := (rVal s sc).setWidth 32
      let rs := (rangeFrom 0 256).map fun e => tsclEl (rmOf s rnd) relu (s.cur.regs.tileVal sa.toNat e) f b
      modS fun s => (s.onRegs fun r => r.wrT dst.toNat tFP32 fun e => (rs.getD e (0, 0)).1).onCur fun t =>
        t.orFlags (rs.foldl (fun f r => f ||| r.2) 0))

/-! ### Tile loads and stores (R244 to R246) -/

/-- The copy format code of a matrix TYPE (R233). -/
def fmtOfTy (ty : BitVec 5) : Nat := if ty = 0x0D then 1 else if ty = 0x0E then 2 else ty.toNat - 0x0D

/-- The rows of a tile as accesses. -/
def tileRows (s : State) (sa : BitVec 10) (off : MOff) (sc : BitVec 6) (w : Nat) : Reqs :=
  let base := (rVal s sa).toNat
  let stride := sextN (s.cur.regs.rdR sc.toNat).toNat 32
  (rangeFrom 0 16).map fun i => (i, ptrAdd base (offOf s off 0 + stride * i), 2 * w)

/-- Alignment of a row. -/
def rowAlign (w : Nat) : Nat := if w < 8 then 1 else min (w / 8) 4

/-- `tld` (R244, R245). -/
def execTld (dst sa : BitVec 10) (off : MOff) (pol : BitVec 3) (sc : BitVec 6) (now : Bool) (ty : BitVec 5) (s : State) : Out :=
  let fmt := fmtOfTy ty
  let w := fmtBits fmt
  let psn := modS fun s => s.onRegs fun r => r.psnT dst.toNat
  .next (s.unitSeq (offLen none off) true noGd fun _ => do
    tilesFree [dst.toNat]
    let s ← getS
    if rPois s sa || s.cur.regs.rpois.getLsbD sc.toNat then psn
    else
      let rs := tileRows s sa off sc w
      let (ps, miss) ← resolve .load pol.toNat s.cur.ctl.bpm.toNat (rowAlign w) rs (spcOk := atomSpc)
      watchTrap false rs
      if !miss.isEmpty then
        if now || s.cur.handler then parkPages 1 3 (missPages miss)
        else
          deferLoad 2 dst.toNat miss (s.cur.pcOf s.curGrp)
          psn
      else
        let xs ← readPcs ps
        if xs.any fun x => x.2.isNone then psn
        else
          modS fun s => s.onRegs fun r => r.wrT dst.toNat tFP32 fun e => elemF fmt (fieldN (laneVal xs (e / 16)) (e % 16 * w) w)
          countOut (.tile dst.toNat))

/-- An element that `tst` writes, with its flags (R246). -/
def tstEl (ty : BitVec 5) (rm : BitVec 3) (x : W32) : Nat × Flags :=
  if ty = 0x0D then (x.toNat, 0)
  else if ty = 0x0E then let r := packF rm 8 (unpackF x); (r.1.toNat / 65536, r.2)
  else storeVal ty true rm x.toNat

/-- `tst` (R244, R246). -/
def execTst (dst sa : BitVec 10) (off : MOff) (pol : BitVec 3) (sc : BitVec 6) (rnd : BitVec 3) (ty : BitVec 5) (s : State) : Out :=
  let w := fmtBits (fmtOfTy ty)
  .next (s.unitSeq (offLen none off) false noGd fun _ => do
    let s ← getS
    stopIf (rPois s sa || s.cur.regs.rpois.getLsbD sc.toNat) (.park 0)
    tilesFree [dst.toNat]
    stopIf (s.cur.regs.tTag dst.toNat == tPSN) (.park 0)
    let rs := tileRows s sa off sc w
    let (ps, miss) ← resolve .store pol.toNat s.cur.ctl.bpm.toNat (rowAlign w) rs (spcOk := atomSpc)
    watchTrap true rs
    if !miss.isEmpty then parkPages 1 2 (missPages miss)
    prepareStore ps
    let es := (rangeFrom 0 256).map fun e => tstEl ty (rmOf s rnd) (s.cur.regs.tileVal dst.toNat e)
    let row := fun i => (rangeFrom 0 16).foldl (fun a j => a + (es.getD (16 * i + j) (0, 0)).1 * 2 ^ (j * w)) 0
    modS fun s => s.performWrs (ps.map fun p => ⟨p, fieldN (row p.lane) (8 * p.off) (8 * p.n)⟩)
    done ps
    countOut .store
    modS fun s => s.onCur fun t => t.orFlags (es.foldl (fun f e => f ||| e.2) 0))

/-! ### Layout words (R230 to R233) -/

/-- A layout word's fields. -/
structure Lay where
  base : Nat
  sx : Nat
  sy : Nat
  sch : Nat
  kw : Nat
  kh : Nat
  fmt : Nat
  bpm : Nat
  dil : Nat
  cstr : Nat
  res : Nat
  deriving DecidableEq, Repr

/-- Reads a layout word. -/
def layOf (l : BitVec 96) : Lay :=
  let f := fieldN l.toNat
  ⟨f 0 21, f 21 16, f 37 16, f 53 16, f 69 3, f 72 3, f 75 4, f 79 4, f 83 2, f 85 2, f 87 9⟩

/-- The layout word that three s registers hold. -/
def layReg (s : State) (n : BitVec 10) : BitVec 96 :=
  BitVec.ofNat 96 ((rangeFrom 0 3).foldl (fun a i => a + (s.cur.regs.rdR (n.toNat + i)).toNat % 2 ^ 32 * 2 ^ (32 * i)) 0)

/-- The byte at which a group starts (R231). -/
def Lay.gaddr (l : Lay) (y x g : Nat) : Nat := l.base + y * l.sy + x * l.sx + g * l.sch

/-- Kernel positions of A's layout. -/
def Lay.pos (l : Lay) : Nat := (l.kw + 1) * (l.kh + 1)

/-- The checks of R233 in order: a trap code. -/
def layCheck (a b : Lay) (fmt kb nb : Nat) (sca scb : Bool) (scratch : Nat) : Option Code :=
  let w := fmtBits fmt
  let cp := nb * kb / a.pos
  let bad := fun (l : Lay) => l.res != 0 || l.fmt == 0 || 9 < l.fmt || l.fmt != fmt
  let m := min (w / 8) 4
  let mis := fun (l : Lay) => 8 ≤ w && (l.base % m != 0 || l.sx % m != 0 || l.sch % m != 0 || (l.kh != 0 && l.sy % m != 0))
  let last := fun (l : Lay) (y x g : Nat) (sc : Bool) => l.gaddr y x g + 4 * w - 1 + if sc then 1 else 0
  if bad a || bad b || b.kw != 0 || b.kh != 0 || b.dil != 0 || b.cstr != 0 || nb % a.pos != 0 || cp % kb != 0 then some cENC
  else if mis a || mis b then some cALIGN
  else if scratch ≤ last a (a.kh * (a.dil + 1)) (15 * (a.cstr + 1) + a.kw * (a.dil + 1)) ((cp - 1) / 32) sca
      || scratch ≤ last b 0 15 ((nb * kb - 1) / 32) scb then some cADDR
  else none

/-! ### mma, mbat, mwait (R234 to R240) -/

/-- A residue array's queue. -/
def State.mq (s : State) (d core part : Nat) : MQueue :=
  (s.mqs.find? fun q => q.die == d && q.core == core && q.part == part).getD ⟨d, core, part, []⟩

/-- Writes a queue. -/
def State.setMq (s : State) (q : MQueue) : State :=
  { s with mqs := upsert (fun x => x.die == q.die && x.core == q.core && x.part == q.part) q s.mqs }

/-- Applies a change to every command of a thread. -/
def State.mapCmds (s : State) (id : Nat) (f : MCmd → MCmd) : State :=
  { s with mqs := s.mqs.map fun q => { q with cmds := q.cmds.map fun c => if c.t == id then f c else c } }

/-- Whether a command that a test accepts is pending in any queue. -/
def State.anyCmd (s : State) (f : MCmd → Bool) : Bool := s.mqs.any fun q => q.cmds.any f

/-- `mma` (R233, R234). -/
def execMma (dst sa sb : BitVec 10) (rnd : BitVec 3) (sca scb : Bool) (nb : BitVec 5) (kb : BitVec 2) (x3 : Bool) (ty : BitVec 5)
    (s : State) : Out :=
  .next (s.unitSeq 8 false noGd fun _ => do
    let s ← getS
    let t := s.cur
    let pois := fun (n : BitVec 10) => (rangeFrom n.toNat 3).any fun k => t.regs.rpois.getLsbD k
    stopIf (pois sa || pois sb) (.park 0)
    let la := layReg s sa
    let lb := layReg s sb
    match layCheck (layOf la) (layOf lb) (fmtOfTy ty) (32 * 2 ^ kb.toNat) (nb.toNat + 1) sca scb (s.tcl t).scratch with
    | some c => trap c
    | none => pure ()
    stopIf (t.tileOut dst.toNat) (.hold false)
    let core := t.coreNo t.loc.core
    let q := s.mq t.loc.die core t.loc.part
    stopIf (decide (Config.mmaQueue ≤ q.cmds.length)) (.hold false)
    let c : MCmd := ⟨t.id, t.loc.cl, la, lb, 32 * 2 ^ kb.toNat, nb.toNat + 1, ty, x3, sca, scb, rmOf s rnd, dst.toNat, none, 0, false, false,
      false, s.issued⟩
    modS fun s => (s.setMq { q with cmds := q.cmds ++ [c] }).onCur fun t => { t with
      cntMx := t.cntMx + 1
      claims := t.claims.filter (fun x => x.1 != dst.toNat) ++ [(dst.toNat, none)] })

/-- `mbat` (R236). -/
def execMbat (dst : BitVec 10) (s : State) : Out :=
  .next (s.unitSeq 8 false noGd fun _ => do
    let s ← getS
    let t := s.cur
    let opened := s.anyCmd fun c => c.t == t.id && c.bat.isNone
    stopIf ((opened && decide (16 ≤ t.batches.length)) || t.batches.contains t.nextBat) (.hold true)
    setR dst (t.nextBat.setWidth 64)
    modS fun s => (s.mapCmds t.id fun c => if c.bat.isNone then { c with bat := some t.nextBat } else c).onCur fun t => { t with
      batches := if opened then t.batches ++ [t.nextBat] else t.batches
      claims := t.claims.map fun x => if x.2.isNone then (x.1, some t.nextBat) else x
      nextBat := t.nextBat + 1 })

/-- `mwait` (R237). -/
def execMwait (dst : BitVec 10) (all : Bool) (sb : Src) (s : State) : Out :=
  .next (s.unitSeq (srcLen sb) false noGd fun _ => do
    let s ← getS
    let t := s.cur
    if !all && ctlPois s sb then psnRM dst
    else
      let b := BitVec.ofNat 8 (ctlVal s sb)
      stopIf (if all then t.cntMx != 0 else t.batches.contains b) (.hold true)
      modS fun s => s.onCur fun t => { t with claims := if all then [] else t.claims.filter fun x => x.2 != some b }
      setR dst (t.ctl.mxerr.setWidth 64))

/-! ### The residue arrays (R120 to R124, R126, R129, R248) -/

/-- A vector of one K-block after quantisation: integers, low parts under `.x3`, exponent; none for an invalid one (R122, R126). -/
abbrev QVec := Option (List Int × List Int × Int)

/-- An element's exact value by format. -/
def elemFV (fmt x : Nat) : FV :=
  if fmt = 1 then unpackF (BitVec.ofNat 32 x)
  else if fmt = 2 then unpackF (bfUp (BitVec.ofNat 16 x))
  else if fmt ≤ 7 then unpackN (copyFmt fmt) x
  else let i := sextN x (fmtBits fmt); .fin (decide (i < 0)) i.natAbs 0

/-- A value's mantissa with sign and its exponent under a scale; none where it is not finite. -/
def scaled (v : FV) (sc : Nat) : Option (Int × Int) :=
  match v with
  | .fin neg m e => if sc = 255 then none else some (if neg then -(m : Int) else m, e + sc - 127)
  | _ => none

/-- An integer rounded to nearest even from `m * 2^e`, clamped to ±255. -/
def quant (m e : Int) : Int :=
  let r : Int := (quantise 0 (decide (m < 0)) m.natAbs e 0).1
  clampI (-255) 255 (if m < 0 then -r else r)

/-- Quantises a vector of elements with their scales (R122), and its low parts (R126). -/
def quantVec (fmt : Nat) (x3 : Bool) (xs : List (Nat × Nat)) : QVec :=
  let ys := xs.map fun x => scaled (elemFV fmt x.1) x.2
  if ys.any Option.isNone then none
  else
    let ys := ys.filterMap id
    let s0 := (xs.head?.map fun x => x.2).getD 127
    if 8 ≤ fmt ∧ xs.all fun x => x.2 == s0 then some (xs.map fun x => sextN x.1 (fmtBits fmt), [], (s0 : Int) - 120)
    else
      let es := (ys.filter fun y => y.1 != 0).map fun y => (Nat.log2 y.1.natAbs : Int) + y.2
      match es with
      | [] => some (xs.map fun _ => 0, xs.map fun _ => 0, 0)
      | e0 :: rest =>
        let e := rest.foldl max e0
        let hi := ys.map fun y => quant y.1 (y.2 + 7 - e)
        let lo := if x3 then (ys.zip hi).map fun p =>
            let k := p.1.2 + 7 - e
            let low := min k 0
            quant (p.1.1 * 2 ^ (k - low).toNat - p.2 * 2 ^ (-low).toNat) (low + 8)
          else []
        some (hi, lo, e)

/-- The inner product of two integer vectors. -/
def inner : List Int → List Int → Int
  | x :: xs, y :: ys => x * y + inner xs ys
  | _, _ => 0

/-- The exact block sum of two quantised vectors (R123, R126); the three residue channels give the true sum. -/
def blockSum (x3 : Bool) (a b : QVec) : FV :=
  match a, b with
  | some (ha, la, ea), some (hb, lb, eb) =>
    if x3 then
      let z := inner ha hb * 256 + inner ha lb + inner la hb
      .fin (decide (z < 0)) z.natAbs (ea + eb - 22)
    else
      let z := inner ha hb
      .fin (decide (z < 0)) z.natAbs (ea + eb - 14)
  | _, _ => unpackF defNaN

/-- The scratchpad key of a logical byte under a layout's mode. -/
def layKey (d cl : Nat) (l : Lay) (a : Nat) : Nat := scratchKey d cl (physOff a l.bpm)

/-- The keys of the bytes of one element, first bit, and its scale byte's key. -/
def elemKeys (d cl : Nat) (l : Lay) (y x c : Nat) : List Nat × Nat × Nat :=
  let w := fmtBits l.fmt
  let g := l.gaddr y x (c / 32)
  let b := c % 32 * w
  ((rangeFrom (g + b / 8) ((b % 8 + w + 7) / 8)).map (layKey d cl l), b % 8, layKey d cl l (g + 4 * w))

/-- An element and its scale. -/
def State.fetchEl (s : State) (l : Lay) (k : List Nat × Nat × Nat) (sc : Bool) : Nat × Nat :=
  (fieldN (ofBytes (k.1.map s.mem.get)) k.2.1 (fmtBits l.fmt), if sc then (s.mem.get k.2.2).toNat else 127)

/-- The places of row `i` of A in a block (R232). -/
def rowKeys (d : Nat) (c : MCmd) (i : Nat) : List (List Nat × Nat × Nat) :=
  let l := layOf c.la
  let cp := c.nb * c.kb / l.pos
  (rangeFrom (c.blk * c.kb) c.kb).map fun k =>
    let p := k / cp
    elemKeys d c.cl l (p / (l.kw + 1) * (l.dil + 1)) (i * (l.cstr + 1) + p % (l.kw + 1) * (l.dil + 1)) (k % cp)

/-- The places of column `j` of B in a block. -/
def colKeys (d : Nat) (c : MCmd) (j : Nat) : List (List Nat × Nat × Nat) :=
  (rangeFrom (c.blk * c.kb) c.kb).map fun k => elemKeys d c.cl (layOf c.lb) 0 j k

/-- Whether a fetch meets a word marked by an uncorrectable error. -/
def State.keysBad (s : State) (sc : Bool) (ks : List (List Nat × Nat × Nat)) : Bool :=
  ks.any fun k => (k.1.any fun a => s.marked a 1) || (sc && s.marked k.2.2 1)

/-- A tile element plus a block's exact sum, rounded once; an exact zero is +0, or −0 under RDN, whatever the zeros' signs (R124). -/
def addBlock (rm : BitVec 3) (x : W32) (v : FV) : W32 :=
  match unpackF x, v with
  | .fin n m e, .fin n' m' e' =>
    if sumAt (min e e') [.fin n m e, .fin n' m' e'] = 0 then zeroF (rm == 2) else (sumF rm 24 [.fin n m e, .fin n' m' e']).1
  | a, b => (sumF rm 24 [a, b]).1

/-- Adds a block to a tile (R124). -/
def Regs.accumulate (r : Regs) (c : MCmd) (qa qb : List QVec) : Regs :=
  if r.tTag c.tile = tPSN then r
  else r.wrT c.tile tFP32 fun e =>
    addBlock c.mode (r.tileVal c.tile e) (blockSum c.x3 (qa.getD (e / 16) none) (qb.getD (e % 16) none))

/-- Records a failed command in `mxerr` (R247): 1 DATA, 2 SKIPPED. -/
def Thread.mxFail (t : Thread) (c : MCmd) (code : Nat) : Thread :=
  if t.ctl.mxerr.getLsbD 16 then t
  else
    let v := code + (c.bat.getD t.nextBat).toNat * 2 ^ 8 + 2 ^ 16 + if c.bat.isNone then 2 ^ 17 else 0
    { t with ctl := { t.ctl with mxerr := BitVec.ofNat 18 v } }

/-- Applies a change to the first command of a queue. -/
def State.onHead (s : State) (q : MQueue) (f : MCmd → MCmd) : State :=
  s.setMq { q with cmds := match q.cmds with | [] => [] | c :: r => f c :: r }

/-- MMA_COMMAND_START (R128, R129): the queue's first command starts once no earlier command to its tile is pending. -/
def execMmaCommandStart (die core part : Nat) (s : State) : Out :=
  let q := s.mq die core part
  .next (match q.cmds with
    | c :: _ =>
      if c.started || c.failed || (s.anyCmd fun x => x.t == c.t && x.tile == c.tile && decide (x.seq < c.seq)) then s
      else s.onHead q fun c => { c with started := true }
    | [] => s)

/-- Whether the command at a place of a home queue may migrate (R129). -/
def State.mayMove (s : State) (c : MCmd) (ahead : Nat) : Bool :=
  decide (4 ≤ ahead) && !c.moved && !c.started && !c.failed && !s.anyCmd fun x => x.t == c.t && x.tile == c.tile && decide (x.seq < c.seq)

/-- MMA_MIGRATE (R129): the first command that may migrate goes to an idle neighbour. -/
def execMmaMigrate (die core part : Nat) (s : State) : Out :=
  let q := s.mq die core part
  let idle := fun (p : Nat) => (s.mq die core p).cmds.isEmpty
  let up := (part + 1) % 32
  let down := (part + 31) % 32
  .next (match q.cmds.zipIdx.find? fun x => s.mayMove x.1 x.2 with
    | some (c, i) =>
      if idle up || idle down then
        let dest := if idle up then up else down
        (s.setMq { q with cmds := q.cmds.eraseIdx i }).setMq ⟨die, core, dest, [{ c with moved := true }]⟩
      else s
    | none => s)

/-- MMA_BLOCK_ACCUMULATE (R120 to R126, R248): the running command's next block, or its failure. The fetch sees the bytes that stand in the
scratchpad at this step: whether it sees a store made after the `mma` is the model's choice (R121 leaves it open, log 38). -/
def execMmaBlockAccumulate (die core part : Nat) (s : State) : Out :=
  let q := s.mq die core part
  .next (match q.cmds with
    | c :: _ =>
      if !c.started || c.failed || decide (c.nb ≤ c.blk) then s
      else
        let ra := (rangeFrom 0 16).map (rowKeys die c)
        let rb := (rangeFrom 0 16).map (colKeys die c)
        if ra.any (s.keysBad c.sca) || rb.any (s.keysBad c.scb) then
          let s := s.onHead q fun c => { c with failed := true }
          let s := s.mapCmds c.t fun x => if x.tile == c.tile && decide (c.seq < x.seq) && !x.started then { x with failed := true } else x
          (s.modThread c.t fun t => t.mxFail c 1).monitor die 9
        else
          let qa := ra.map fun ks => quantVec (layOf c.la).fmt c.x3 (ks.map fun k => s.fetchEl (layOf c.la) k c.sca)
          let qb := rb.map fun ks => quantVec (layOf c.lb).fmt c.x3 (ks.map fun k => s.fetchEl (layOf c.lb) k c.scb)
          (s.modThread c.t fun t => { t with regs := t.regs.accumulate c qa qb }).onHead q fun c => { c with blk := c.blk + 1 }
    | [] => s)

/-- MMA_COMMAND_COMPLETE (R130, R234, R248): `mx` falls, and the batch completes with its last command. -/
def execMmaCommandComplete (die core part : Nat) (s : State) : Out :=
  let q := s.mq die core part
  .next (match q.cmds with
    | c :: rest =>
      if c.failed || (c.started && decide (c.nb ≤ c.blk)) then
        let s := s.setMq { q with cmds := rest }
        let s := if c.failed && !c.started then (s.modThread c.t fun t => t.mxFail c 2).monitor die 9 else s
        let more := s.anyCmd fun x => x.t == c.t && x.bat == c.bat
        s.modThread c.t fun t => { t with
          cntMx := t.cntMx - 1
          batches := if more then t.batches else t.batches.filter fun b => some b != c.bat }
      else s
    | [] => s)

/-- TLD_COMPLETE (R245): the oldest outstanding `tld` of a thread has written its tile. -/
def execTldComplete (t : Nat) (s : State) : Out :=
  .next (s.modThread t fun x => { x with outs := x.outs.eraseP fun o => match o with | .tile _ => true | _ => false })

end Sys2Proof.Machine
end

