-- ==== Sys2Proof/Machine/Issue.lean ====
section
/-! DEFINITION. The issue slot (R375 to R377): which thread and group issues next, fetch (R132, R150, R154), decode traps (R151), and the
steps that end a thread's waits. -/

namespace Sys2Proof.Machine

/-! ### Readiness (R375) -/

/-- Whether a slice's group may issue as far as its own wait goes. A unit whose condition did not hold when it was last looked at may not. -/
def Wait.open : Wait → Bool
  | .none => true
  | .step => true
  | _ => false

/-- Whether a wait is a long-latency dependence (R326, R339, R349, R69). -/
def Wait.long : Wait → Bool
  | .again b => b
  | .bar _ => true
  | .sleep => true
  | _ => false

/-- No gang of a cluster task issues from the save of its armature thread until that thread's `rett` after its restore (R328, R406); the gangs that are
being saved themselves run their handlers. -/
def State.heldByArm (s : State) (t : Thread) : Bool :=
  !t.arm && s.clusterTask t.task && !t.preempt && !(t.handler && !t.restoring) &&
    ((s.savedT.any fun x => x.task == t.task && x.arm) || s.threads.any fun x => x.task == t.task && x.arm && x.saved)

/-- Whether a thread as a whole may issue: resident, neither halted nor parked nor asleep, no PREEMPT due, its die running. -/
def State.mayIssue (s : State) (t : Thread) : Bool :=
  t.resident && !t.halted && !t.parked && t.sleep.isNone && !(t.preempt && !t.handler) && decide ((s.die t.loc.die).heat < 3)
    && !(s.die t.loc.die).failed && !s.heldByArm t

/-- Whether a group of a thread may issue. -/
def Thread.grpOpen (t : Thread) (g : Nat) : Bool := t.slices.any fun c => c.inGrp g && c.wait.open

/-- Whether some group of a thread may issue. -/
def State.ready (s : State) (t : Thread) : Bool := s.mayIssue t && t.slices.any fun c => c.live != 0 && c.wait.open

/-- Whether the current group issues now. -/
def State.curReady (s : State) : Bool := s.mayIssue s.cur && s.cur.grpOpen s.curGrp

/-! ### The active set (R375 to R377) -/

/-- Threads of one partition, or of one armature core. -/
def samePart (a b : Thread) : Bool :=
  a.loc.die == b.loc.die && a.loc.cl == b.loc.cl && a.arm == b.arm && (a.arm || (a.loc.core == b.loc.core && a.loc.part == b.loc.part))

/-- Records since when each thread has been ready, or not. -/
def State.lookReady (s : State) : State :=
  s.mapThreads fun t =>
    let r := s.ready t
    if r == t.rdy then t else { t with rdy := r, readySince := (s.die t.loc.die).aclk.toNat }

/-- The element that a comparison puts first, the earlier one on a tie. -/
def best {α : Type} (lt : α → α → Bool) : List α → Option α
  | [] => none
  | x :: xs => match best lt xs with
    | some y => if lt y x then some y else some x
    | none => some x

/-- Moves a gang into the active set and another out of it, whose time as a ready pending gang begins (R377). -/
def State.swapSets (s : State) (inn : Nat) (out : Option Nat) : State :=
  let s := match out with
    | some o => s.modThread o fun t => { t with act := false, readySince := (s.die t.loc.die).aclk.toNat }
    | none => s
  s.modThread inn fun t => { t with act := true, actSince := (s.die t.loc.die).aclk.toNat }

/-- The pending gang of a gang's partition that has been ready longest. -/
def State.longestPending (s : State) (t : Thread) : Option Thread :=
  best (fun a b => decide (a.readySince < b.readySince)) (s.threads.filter fun x => samePart x t && !x.act && x.rdy)

/-- An active gang with a long-latency dependence, or one that is parked, swaps with the pending gang ready longest; a free place in the active
set is filled (R375, R377, R400). -/
def State.swapLong (s : State) (t : Thread) : State :=
  if t.arm then s
  else if t.act then
    if t.slices.all (fun c => c.live == 0 || c.wait.long) || t.parked then
      match s.longestPending t with
      | some x => s.swapSets x.id (some t.id)
      | none => s
    else s
  else if t.rdy && decide (s.activeIn t.loc < 8) then s.swapSets t.id none else s

/-- Promotes a pending gang that has been ready for 256 arithmetic clocks: it replaces the active gang not ready longest, or the one that entered
the active set earliest (R377). -/
def State.promote (s : State) (t : Thread) : State :=
  let now := (s.die t.loc.die).aclk.toNat
  if t.act || t.arm || !t.rdy || decide (now < t.readySince + 256) then s
  else
    let acts := s.threads.filter fun x => samePart x t && x.act
    if acts.length < 8 then s.swapSets t.id none
    else match best (fun a b => decide (a.readySince < b.readySince)) (acts.filter fun x => !x.rdy) with
      | some x => s.swapSets t.id (some x.id)
      | none => match best (fun a b => decide (a.actSince < b.actSince)) acts with
        | some x => s.swapSets t.id (some x.id)
        | none => s.swapSets t.id none

/-- PENDING_GANG_PROMOTE (R377): every pending gang that is due. -/
def execPendingGangPromote (s : State) : Out :=
  let s := s.lookReady
  .next (s.threads.foldl (fun s t => match s.thread? t.id with | some x => s.promote x | none => s) s)

/-- The latest issue of a thread. -/
def Thread.lastIssue (t : Thread) : Nat := t.slices.foldl (fun n c => max n c.last) 0

/-- The latest issue of a thread's partition. -/
def State.partLast (s : State) (t : Thread) : Nat := (s.threads.filter (samePart t)).foldl (fun n x => max n x.lastIssue) 0

/-- Within one partition the oldest gang wins, ties to the lowest slot (R376). -/
def Thread.older (a b : Thread) : Bool := decide (b.age < a.age) || (a.age == b.age && decide (a.loc.slot < b.loc.slot))

/-- The group of a thread whose last issue is earliest, ties to the lowest slice. -/
def Thread.nextGrp (t : Thread) : Nat :=
  match best (fun (a b : Slice) => decide (a.last < b.last)) (t.slices.filter fun c => c.live != 0 && c.wait.open) with
  | some c => c.grp
  | none => 0

/-- The winner of the next clock: of the partitions with a candidate the one that issued longest ago takes its turn. -/
def State.winner (s : State) : Option Thread :=
  let cs := s.threads.filter fun t => s.ready t && (t.act || t.arm)
  match best (fun a b => decide (s.partLast a < s.partLast b)) cs with
  | none => none
  | some x => best Thread.older (cs.filter (samePart x))

/-- The sets of a clock: every pending gang that is due is promoted, then gangs swap (R377). -/
def State.arrange (s : State) : State :=
  let each := fun (f : State → Thread → State) (s : State) => s.threads.foldl (fun s t => match s.thread? t.id with | some x => f s x | none => s) s
  each State.swapLong (each State.promote s.lookReady)

/-- Turns to a winner's next group. -/
def State.turnTo (s : State) (w : Thread) : State :=
  let s := s.focus w.id
  { s with curGrp := s.cur.nextGrp }

/-- The winner issues: ages move (R376). -/
def State.pick (s : State) (w : Thread) : State :=
  let s := s.mapThreads fun t => if t.id == w.id then { t with age := 0 } else if t.act && samePart t w then { t with age := t.age + 1 } else t
  { s.turnTo w with phase := .issue }

/-- ISSUE_SELECT (R376): sets change, the winner is chosen, ages move. -/
def State.select (s : State) : State :=
  let s := s.arrange
  match s.winner with
  | none => s
  | some w => s.pick w

/-- ISSUE_SELECT. -/
def execIssueSelect (s : State) : Out := .next s.select

/-! ### Fetch (R132, R150, R154) -/

/-- The outcome of a fetch. -/
inductive Fetched where
  | unit (w0 w1 : Word)
  | stop (e : Exc)

/-- A word of code as a cluster sees it: through the copy of its line that an earlier fetch left, which may still hold the old word (R154). A tracked
page's line is read coherently, and no copy of it stays in the die's L2; another's is kept under `wb` and `wt` (R29, R49). -/
def State.codeWord (s : State) (d cl pa : Nat) (trk keep : Bool) : State × Fill × Option Word :=
  let la := pa / 64
  let word := fun (x : LineData) => BitVec.ofNat 64 (fieldN x.toNat (8 * (pa % 64)) 64)
  match (if trk then s.trackedLine false d cl la false else s.fillLine d la keep) with
  | (s, .ok x) =>
    let s := if trk || keep then s else s.forget d 3 la
    match s.ilines.find? fun y => y.die == d && y.cl == cl && y.la == la with
    | none => ({ s with ilines := s.ilines ++ [⟨d, cl, la, x⟩] }, .ok x, some (word x))
    | some y =>
      if word y.data = word x then (s, .ok x, some (word x))
      else (s.takeFree, .ok x, some (if Config.freeFetchOld s.free then word y.data else word x))
  | (s, f) => (s, f, none)

/-- Fetches one word of the current group's unit, at `pc`; a fault names the unit. -/
def State.fetchWord (s : State) (unitPc pc : Word) : State × Except Exc Word :=
  let t := s.cur
  let p := pc.toNat
  if spaceOf p ≠ 0 ∨ fieldN p 57 3 ≠ 0 then (s, .error (.trap cADDR unitPc.toNat 0))
  else match translateP s t.loc.die (tlbKey t) t.tpasid t.super 0 p .fetch with
    | (s, .ok pa e _, _) => match s.codeWord t.loc.die t.loc.cl pa (entTrk e) (entPol e ≤ 1) with
      | (s, _, some w) => (s, .ok w)
      | (s, .wait, none) => (s, .error (.hold false))
      | (s, _, none) => (s, .error (.trap cLOST 0 0))
    | (s, .absent, _) => (s.reportPages 4 [pageOf t.tpasid 0 p], .error (.park 4))
    | (s, .busy, _) => (s, .error (.hold false))
    | (s, _, _) => (s, .error (.trap cPERM unitPc.toNat 0))

/-- Fetches the current group's issue unit: a prefix brings the word after it. -/
def State.fetchUnit (s : State) : State × Fetched :=
  let pc := s.cur.pcOf s.curGrp
  match s.fetchWord pc pc with
  | (s, .error e) => (s, .stop e)
  | (s, .ok w0) =>
    if unitBytes w0 = 8 then (s, .unit w0 0)
    else match s.fetchWord pc (pc + 8) with
      | (s, .ok w1) => (s, .unit w0 w1)
      | (s, .error e) => (s, .stop e)

/-- What decoding depends on in the current thread (R151). -/
def Thread.dctx (t : Thread) : DCtx := if t.arm then .armature else ⟨false, t.allot, t.tcount, t.nlanes⟩

/-- Whether slot B of a pair word fails to decode while slot A alone would pass (R151, R396). -/
def slotBFails (c : DCtx) (w : Word) : Bool :=
  w.extractLsb' 62 2 == 1 && !c.arm &&
    match Slot.read (w.extractLsb' 31 31) with
    | some a => a.codesOk && a.encOk c.allot false && (match Slot.read (w.extractLsb' 0 31) with
      | some b => !b.codesOk || !b.encOk c.allot true
      | none => true)
    | none => false

/-- The trap of a unit that does not decode (R151). -/
def State.decodeTrap (s : State) (e : DecTrap) (w0 : Word := 0) : State :=
  let code : Code := match e with
    | .illEnc => 0x0001
    | .illOpc => 0x0002
    | .tileRange => 0x000C
  s.stopped (.trap code 0 (if slotBFails s.cur.dctx w0 then 1 else 0)) (s.cur.mask s.curGrp) (s.cur.pcOf s.curGrp) (s.cur.gslices s.curGrp)

/-- STEP is due for the current group: a unit that waited has completed (R394). -/
def State.stepDue (s : State) : Bool := s.cur.slices.any fun c => c.inGrp s.curGrp && c.wait == .step

/-- Takes the STEP that is due. -/
def State.takeStep (s : State) : State :=
  let t := s.cur
  let s := s.onCur fun t => t.onGrp s.curGrp fun _ c => { c with wait := .none }
  s.takeTrap 0x0012 0 0 0 (t.mask s.curGrp) (t.pcOf s.curGrp) (t.gslices s.curGrp)

/-! ### The ends of waits -/

/-- PAUSE_EXPIRE (R350): the pause of slice `k`'s group has run out. -/
def execPauseExpire (t k : Nat) (s : State) : Out :=
  .next (match s.thread? t with
    | none => s
    | some x => match x.slices[k]? with
      | some c => match c.wait with
        | .pause till =>
          if till ≤ (s.die x.loc.die).aclk.toNat then
            s.modThread t fun y => y.onGrp c.grp fun _ q => { q with wait := y.doneWait }
          else s
        | _ => s
      | none => s)

/-- MSLEEP_TIMEOUT (R349): the sleep returns TIMEOUT, unless its event is latched. -/
def execMsleepTimeout (t : Nat) (s : State) : Out :=
  .next (match s.thread? t with
    | none => s
    | some x => match x.sleep with
      | some r => if r.till ≠ 0 ∧ r.till ≤ (s.die x.loc.die).aclk.toNat then
          s.modThread t fun y => y.wake (if (y.watch.map fun (w : Watch) => w.event) == some true then 0 else 1) else s
      | none => s)

/-- LOAD_RETURN (R188): the oldest load or atomic of a thread has written its register, and `ld` falls. -/
def execLoadReturn (t : Nat) (s : State) : Out := .next (s.modThread t fun x => { x with outs := x.outs.erase .load })

/-- STORE_PERFORMED (R176): the oldest store of a thread is performed, and `st` falls. -/
def execStorePerformed (t : Nat) (s : State) : Out := .next (s.modThread t fun x => { x with outs := x.outs.erase .store })

/-- STORE_HOLD_RESOLVED (R173): what held a thread's store is over, and the store may issue: it performs or traps as it then finds its lines. -/
def execStoreHoldResolved (t : Nat) (s : State) : Out :=
  .next (s.modThread t fun x => { x with slices := x.slices.map fun c => if c.wait == .again false then { c with wait := .none } else c })

/-- LINE_EVICT (R58). -/
def execLineEvict (die cl la : Nat) (s : State) : Out := .next (s.evictLine die cl la)

/-- PAGE_WALK (R31 to R36): a walk that some agent asks for; the walkers set A and D and answer. -/
def execPageWalk (w : WalkReq) (s : State) : Out :=
  .next (walk s w.die w.pasid.toNat w.spc.toNat w.va.toNat (w.pasid == 0) w.acc).1

end Sys2Proof.Machine
end

