-- ==== Sys2Proof/Machine/Moves.lean ====
section
/-! DEFINITION. Moves and predicates, opcodes 0x38 to 0x3E (R205 to R208). -/

namespace Sys2Proof.Machine

/-- `mov` (R205): a vector source's tags are copied, any other source is written with tag NIL. -/
def opMov (sc : Bool) (dst : BitVec 10) (sb : Src) (w : BitVec 2) : Op :=
  let k := if w = 2 then 2 else 1
  { srcs := [(srcOpd sc (.int (wW w)) k sb, anyTag)]
    dsts := [regDst sc dst k]
    tag := fun ts i => (ts.getD 0 []).getD i tNIL
    fn := lane1 fun x => arg x 0 % 2 ^ wW w }

/-- The class that a `movi` type gives its immediate, and the tag (R205). -/
def moviCls (mt : BitVec 3) : ImmCls × BitVec 4 :=
  if mt = 1 then (.int 32, tI32) else if mt = 2 then (.fp, tFP32) else if mt = 3 then (.bf, tBF)
  else if mt = 4 then (.int 32, tI16) else if mt = 5 then (.int 32, tI8) else if mt = 6 then (.int 64, tNIL) else (.int 32, tNIL)

/-- `movi` (R205). -/
def opMovi (sc : Bool) (dst : BitVec 10) (imm : Imm) (mt : BitVec 3) : Op where
  srcs := [(.const (immVal (moviCls mt).1 imm), anyTag)]
  dsts := [regDst sc dst (if mt = 6 then 2 else 1)]
  tag := tagC (moviCls mt).2
  fn := lane1 fun x => arg x 0

/-- The tag of `sel`: the non-NIL tag; SA's when the two differ under lax checking (R94, R206). -/
def selTag (ts : List (List (BitVec 4))) (_ : Nat) : BitVec 4 :=
  match ts.flatten.filter (· != tNIL) with
  | t :: _ => t
  | [] => tNIL

/-- Two sources with one tag, or NIL (R94). -/
def selOk (ts : List (BitVec 4)) : Bool :=
  match ts.filter (· != tNIL) with
  | t :: rest => rest.all (· == t)
  | [] => true

/-- `sel` (R206). -/
def opSel (dst sa : BitVec 10) (sb : Src) (sc : BitVec 10) : Op where
  srcs := [(regOpd false sa, anyTag), (srcOpd false (.int 32) 1 sb, anyTag), (.p (sc.toNat % 16), anyTag)]
  dsts := [regDst false dst]
  tag := selTag
  okAll := selOk
  fn := lane1 fun x => if arg x 2 = 1 then arg x 0 else arg x 1 % 2 ^ 32

/-- `movx` (R206): an unassigned tag code traps ILL_TAG where the tag would be written (R92, R142). -/
def opMovx (dst sa : BitVec 10) (tag : BitVec 4) : Op where
  srcs := [(regOpd false sa, anyTag)]
  dsts := [regDst false dst]
  tag := tagC tag
  late := if 6 ≤ tag.toNat ∧ tag.toNat ≤ 14 then some cTAG else none
  fn := lane1 fun x => arg x 0

/-- `plog` (R207). -/
def opPlog (dst sa sb : BitVec 10) (lut : BitVec 4) : Op where
  srcs := [(.p sa.toNat, anyTag), (.p sb.toNat, anyTag)]
  dsts := [.p dst.toNat]
  tag := tagC tNIL
  fn := lane1 fun x => lut.toNat / 2 ^ (2 * arg x 0 + arg x 1) % 2

/-- `pmov` (R207). -/
def opPmov (dst sa : BitVec 10) (dir : BitVec 2) : Op :=
  let d := dst.toNat
  let a := sa.toNat
  if dir = 0 then { srcs := [(.p a, anyTag)], dsts := [.v d 1], tag := tagC tI32, fn := lane1 fun x => arg x 0 }
  else if dir = 1 then { srcs := [(.v a 1, anyTag)], dsts := [.p d], tag := tagC tNIL, fn := lane1 fun x => if arg x 0 = 0 then 0 else 1 }
  else if dir = 2 then { srcs := [(.p a, anyTag)], dsts := [.r d], tag := tagC tNIL
                         fn := fun act rd _ => ([(lanesOf act).foldl (fun m l => m + arg (rd l) 0 * 2 ^ l) 0], 0) }
  else { srcs := [(.r a, anyTag)], dsts := [.p d], tag := tagC tNIL, fn := fun _ rd l => ([arg (rd l) 0 / 2 ^ l % 2], 0) }

/-- The identity that `sreg` writes in a lane (R208). -/
def sregVal (t : Thread) (act : W32) (sel : BitVec 4) (l : Nat) : Nat :=
  match sel.toNat with
  | 0 => l
  | 1 => l / 4
  | 2 => l % 4
  | 3 => 2 ^ l - 1
  | 4 => 2 ^ (l + 1) - 1
  | 5 => act.toNat
  | 6 => t.nlanes
  | 7 => t.loc.part
  | 8 => t.loc.cl * 4 + t.loc.core
  | 9 => t.loc.cl
  | _ => t.loc.die

/-- `sreg` (R208). -/
def opSreg (t : Thread) (dst : BitVec 10) (sel : BitVec 4) : Op where
  srcs := []
  dsts := [.v dst.toNat 1]
  tag := tagC tI32
  fn := fun act _ l => ([sregVal t act sel l], 0)

/-- `mov` (R205). -/
def execMov (h : Hd) (dst : BitVec 10) (sb : Src) (w : BitVec 2) (s : State) : Out :=
  .next (runAlu (srcLen sb) (hdGd h) (opMov (scalar h s) dst sb w) s)

/-- `movi` (R205). -/
def execMovi (h : Hd) (dst : BitVec 10) (imm : Imm) (mt : BitVec 3) (s : State) : Out :=
  .next (runAlu (immLen imm) (hdGd h) (opMovi (scalar h s) dst imm mt) s)

/-- `sel` (R206). -/
def execSel (g : Gd) (dst sa : BitVec 10) (sb : Src) (sc : BitVec 10) (s : State) : Out :=
  .next (runAlu (srcLen sb) g (opSel dst sa sb sc) s)

/-- `movx` (R206). -/
def execMovx (g : Gd) (dst sa : BitVec 10) (tag : BitVec 4) (s : State) : Out := .next (runAlu 8 g (opMovx dst sa tag) s)

/-- `plog` (R207). -/
def execPlog (g : Gd) (dst sa sb : BitVec 10) (lut : BitVec 4) (s : State) : Out := .next (runAlu 8 g (opPlog dst sa sb lut) s)

/-- `pmov` (R207). -/
def execPmov (g : Gd) (dst sa : BitVec 10) (dir : BitVec 2) (s : State) : Out := .next (runAlu 8 g (opPmov dst sa dir) s)

/-- `sreg` (R208). -/
def execSreg (g : Gd) (dst : BitVec 10) (sel : BitVec 4) (s : State) : Out := .next (runAlu 8 g (opSreg s.cur dst sel) s)

end Sys2Proof.Machine
end

