-- ==== Sys2Proof/Machine/Pairs.lean ====
section
/-! DEFINITION. Pair words (R143 to R146): each slot is its full form's operation on the slot's registers; the two read before either
writes, and a trap of either leaves both unwritten (R145). -/

namespace Sys2Proof.Machine

/-- The operation of a slot: `hi` is slot B; d and s are the registers that PDST and PSRC name (R144, R146). -/
def slotOp (hi : Bool) (rm : BitVec 3 → BitVec 3) (x : Slot) : Op :=
  let d := slotReg hi x.a.d
  let s := slotReg hi x.a.s
  let r := rm x.a.rnd
  let n := x.a.m.toNat
  let k := BitVec.setWidth 10 x.a.k
  let int := fun f => opInt2 false d d (.reg s) 32 f
  let bit := fun f => opBit1 false false d s 0 f
  let fp := fun (bf : Bool) f => opFp2 false d d (.reg s) bf f
  match x.op with
  | .pnop => { srcs := [], dsts := [], tag := tagC tNIL, fn := fun _ _ _ => ([], 0) }
  | .iadd => int fun a b => (a + b) % 2 ^ 32
  | .isub => int fun a b => carryAdd 32 true a b 1 % 2 ^ 32
  | .imul => int fun a b => a * b % 2 ^ 32
  | .iminI => opMinMax false false d d (.reg s) 0
  | .imaxI => opMinMax true false d d (.reg s) 0
  | .iminN => opMinMax false false d d (.reg s) 1
  | .imaxN => opMinMax true false d d (.reg s) 1
  | .ineg => opAbsNeg true false d s 0 false
  | .iabs => opAbsNeg false false d s 0 false
  | .and => opBit2 true false d d (.reg s) 0 fun _ a b => a &&& b
  | .or => opBit2 true false d d (.reg s) 0 fun _ a b => a ||| b
  | .xor => opBit2 true false d d (.reg s) 0 fun _ a b => a ^^^ b
  | .not => opBit1 true false d s 0 fun n a => 2 ^ n - 1 - a
  | .shlImm => bit fun w a => shlN w a n
  | .shrLImm => bit fun w a => shrN false w a n
  | .shrAImm => bit fun w a => shrN true w a n
  | .rotImm => bit fun w a => rotN w a n
  | .shl => opBit2 false false d d (.reg s) 0 shlN
  | .shrL => opBit2 false false d d (.reg s) 0 (shrN false)
  | .shrA => opBit2 false false d d (.reg s) 0 (shrN true)
  | .popc => bit (bcntN 0)
  | .clz => bit (bcntN 1)
  | .ctz => bit (bcntN 2)
  | .bfrev => bit fun w a => revN a w
  | .mov => opMov false d (.reg s) 0
  | .movi => { srcs := [], dsts := [.v d.toNat 1], tag := tagC tI32
               fn := fun _ _ _ => ([truncI (sextN (n * 256 + x.a.s.toNat) 14) 32], 0) }
  | .movx => opMovx d s (x.a.m.extractLsb' 0 4)
  | .faddF => fp false (addF r)
  | .fsubF => fp false (subF r)
  | .fmulF => fp false (mulF r)
  | .fminF => fp false fun _ => minmaxF false
  | .fmaxF => fp false fun _ => minmaxF true
  | .faddB => fp true (addF r)
  | .fsubB => fp true (subF r)
  | .fmulB => fp true (mulF r)
  | .fminB => fp true fun _ => minmaxF false
  | .fmaxB => fp true fun _ => minmaxF true
  | .pack => opPack false d d (.reg s) 0 r
  | .unpk => opUnpk false d s 0 (BitVec.ofNat 2 (n / 8))
  | .cvtFI => opCvt false d s 0 r
  | .cvtFN => opCvt false d s 1 r
  | .cvtIF => opCvt false d s 2 r
  | .cvtNF => opCvt false d s 3 r
  | .icmpI => opIcmp false k d (.reg s) 0 x.a.rnd
  | .icmpN => opIcmp false k d (.reg s) 1 x.a.rnd
  | .fcmpF => opFcmp false k d (.reg s) false x.a.rnd

/-- The guard of a slot: p0 to p7, without negation (R143). -/
def slotGd (x : Slot) : Gd := ⟨x.a.prd.setWidth 4, false⟩

/-- An effect on nothing. -/
def Eff.none : Eff := ⟨[], false, fun _ => tNIL, [], 0⟩

/-- Reads and computes one slot, which makes no check with no active lane (R97). -/
def slotEval (o : Op) (act : W32) : M Eff := if act = 0 then pure Eff.none else o.eval act

/-- A trap of slot B alone carries FLAGS bit 0 (R396). -/
def slotBOnly (m : M Eff) : M Eff := fun s =>
  match m s with
  | .error ⟨.trap c i f, s'⟩ => .error ⟨.trap c i (f + 1), s'⟩
  | r => r

/-- Runs a pair word as one issue unit (R145). -/
def runPair (a b : Slot) (s : State) : State :=
  let t := s.cur
  let mask := t.mask s.curGrp
  s.unit 8 true noGd fun _ => do
    stopIf (mask != 0 && t.regs.pPoison a.a.prd.toNat) (.park 0)
    -- NOREC where no record is open, and FLAGS bit 0: slot B alone (R396)
    stopIf (mask != 0 && t.regs.pPoison b.a.prd.toNat) (.trap 0x0005 0 (if t.frs.isEmpty then 5 else 1))
    let la := mask &&& gdLanes (slotGd a) t.regs
    let lb := mask &&& gdLanes (slotGd b) t.regs
    let ea ← slotEval (slotOp false (rmOf s) a) la
    let eb ← slotBOnly (slotEval (slotOp true (rmOf s) b) lb)
    modS fun s => s.onCur fun t => eb.apply lb (ea.apply la t)
    pure .seq

/-- Slot A `pnop` (R146). -/
def execPairPnop (a : SlotArgs) (b : Slot) (s : State) : Out := .next (runPair ⟨.pnop, a⟩ b s)

/-- Slot A `iadd` (R146). -/
def execPairIadd (a : SlotArgs) (b : Slot) (s : State) : Out := .next (runPair ⟨.iadd, a⟩ b s)

/-- Slot A `isub` (R146). -/
def execPairIsub (a : SlotArgs) (b : Slot) (s : State) : Out := .next (runPair ⟨.isub, a⟩ b s)

/-- Slot A `imul` (R146). -/
def execPairImul (a : SlotArgs) (b : Slot) (s : State) : Out := .next (runPair ⟨.imul, a⟩ b s)

/-- Slot A `iminI` (R146). -/
def execPairIminI (a : SlotArgs) (b : Slot) (s : State) : Out := .next (runPair ⟨.iminI, a⟩ b s)

/-- Slot A `imaxI` (R146). -/
def execPairImaxI (a : SlotArgs) (b : Slot) (s : State) : Out := .next (runPair ⟨.imaxI, a⟩ b s)

/-- Slot A `iminN` (R146). -/
def execPairIminN (a : SlotArgs) (b : Slot) (s : State) : Out := .next (runPair ⟨.iminN, a⟩ b s)

/-- Slot A `imaxN` (R146). -/
def execPairImaxN (a : SlotArgs) (b : Slot) (s : State) : Out := .next (runPair ⟨.imaxN, a⟩ b s)

/-- Slot A `ineg` (R146). -/
def execPairIneg (a : SlotArgs) (b : Slot) (s : State) : Out := .next (runPair ⟨.ineg, a⟩ b s)

/-- Slot A `iabs` (R146). -/
def execPairIabs (a : SlotArgs) (b : Slot) (s : State) : Out := .next (runPair ⟨.iabs, a⟩ b s)

/-- Slot A `and` (R146). -/
def execPairAnd (a : SlotArgs) (b : Slot) (s : State) : Out := .next (runPair ⟨.and, a⟩ b s)

/-- Slot A `or` (R146). -/
def execPairOr (a : SlotArgs) (b : Slot) (s : State) : Out := .next (runPair ⟨.or, a⟩ b s)

/-- Slot A `xor` (R146). -/
def execPairXor (a : SlotArgs) (b : Slot) (s : State) : Out := .next (runPair ⟨.xor, a⟩ b s)

/-- Slot A `not` (R146). -/
def execPairNot (a : SlotArgs) (b : Slot) (s : State) : Out := .next (runPair ⟨.not, a⟩ b s)

/-- Slot A `shlImm` (R146). -/
def execPairShlImm (a : SlotArgs) (b : Slot) (s : State) : Out := .next (runPair ⟨.shlImm, a⟩ b s)

/-- Slot A `shrLImm` (R146). -/
def execPairShrLImm (a : SlotArgs) (b : Slot) (s : State) : Out := .next (runPair ⟨.shrLImm, a⟩ b s)

/-- Slot A `shrAImm` (R146). -/
def execPairShrAImm (a : SlotArgs) (b : Slot) (s : State) : Out := .next (runPair ⟨.shrAImm, a⟩ b s)

/-- Slot A `rotImm` (R146). -/
def execPairRotImm (a : SlotArgs) (b : Slot) (s : State) : Out := .next (runPair ⟨.rotImm, a⟩ b s)

/-- Slot A `shl` (R146). -/
def execPairShl (a : SlotArgs) (b : Slot) (s : State) : Out := .next (runPair ⟨.shl, a⟩ b s)

/-- Slot A `shrL` (R146). -/
def execPairShrL (a : SlotArgs) (b : Slot) (s : State) : Out := .next (runPair ⟨.shrL, a⟩ b s)

/-- Slot A `shrA` (R146). -/
def execPairShrA (a : SlotArgs) (b : Slot) (s : State) : Out := .next (runPair ⟨.shrA, a⟩ b s)

/-- Slot A `popc` (R146). -/
def execPairPopc (a : SlotArgs) (b : Slot) (s : State) : Out := .next (runPair ⟨.popc, a⟩ b s)

/-- Slot A `clz` (R146). -/
def execPairClz (a : SlotArgs) (b : Slot) (s : State) : Out := .next (runPair ⟨.clz, a⟩ b s)

/-- Slot A `ctz` (R146). -/
def execPairCtz (a : SlotArgs) (b : Slot) (s : State) : Out := .next (runPair ⟨.ctz, a⟩ b s)

/-- Slot A `bfrev` (R146). -/
def execPairBfrev (a : SlotArgs) (b : Slot) (s : State) : Out := .next (runPair ⟨.bfrev, a⟩ b s)

/-- Slot A `mov` (R146). -/
def execPairMov (a : SlotArgs) (b : Slot) (s : State) : Out := .next (runPair ⟨.mov, a⟩ b s)

/-- Slot A `movi` (R146). -/
def execPairMovi (a : SlotArgs) (b : Slot) (s : State) : Out := .next (runPair ⟨.movi, a⟩ b s)

/-- Slot A `movx` (R146). -/
def execPairMovx (a : SlotArgs) (b : Slot) (s : State) : Out := .next (runPair ⟨.movx, a⟩ b s)

/-- Slot A `faddF` (R146). -/
def execPairFaddF (a : SlotArgs) (b : Slot) (s : State) : Out := .next (runPair ⟨.faddF, a⟩ b s)

/-- Slot A `fsubF` (R146). -/
def execPairFsubF (a : SlotArgs) (b : Slot) (s : State) : Out := .next (runPair ⟨.fsubF, a⟩ b s)

/-- Slot A `fmulF` (R146). -/
def execPairFmulF (a : SlotArgs) (b : Slot) (s : State) : Out := .next (runPair ⟨.fmulF, a⟩ b s)

/-- Slot A `fminF` (R146). -/
def execPairFminF (a : SlotArgs) (b : Slot) (s : State) : Out := .next (runPair ⟨.fminF, a⟩ b s)

/-- Slot A `fmaxF` (R146). -/
def execPairFmaxF (a : SlotArgs) (b : Slot) (s : State) : Out := .next (runPair ⟨.fmaxF, a⟩ b s)

/-- Slot A `faddB` (R146). -/
def execPairFaddB (a : SlotArgs) (b : Slot) (s : State) : Out := .next (runPair ⟨.faddB, a⟩ b s)

/-- Slot A `fsubB` (R146). -/
def execPairFsubB (a : SlotArgs) (b : Slot) (s : State) : Out := .next (runPair ⟨.fsubB, a⟩ b s)

/-- Slot A `fmulB` (R146). -/
def execPairFmulB (a : SlotArgs) (b : Slot) (s : State) : Out := .next (runPair ⟨.fmulB, a⟩ b s)

/-- Slot A `fminB` (R146). -/
def execPairFminB (a : SlotArgs) (b : Slot) (s : State) : Out := .next (runPair ⟨.fminB, a⟩ b s)

/-- Slot A `fmaxB` (R146). -/
def execPairFmaxB (a : SlotArgs) (b : Slot) (s : State) : Out := .next (runPair ⟨.fmaxB, a⟩ b s)

/-- Slot A `pack` (R146). -/
def execPairPack (a : SlotArgs) (b : Slot) (s : State) : Out := .next (runPair ⟨.pack, a⟩ b s)

/-- Slot A `unpk` (R146). -/
def execPairUnpk (a : SlotArgs) (b : Slot) (s : State) : Out := .next (runPair ⟨.unpk, a⟩ b s)

/-- Slot A `cvtFI` (R146). -/
def execPairCvtFI (a : SlotArgs) (b : Slot) (s : State) : Out := .next (runPair ⟨.cvtFI, a⟩ b s)

/-- Slot A `cvtFN` (R146). -/
def execPairCvtFN (a : SlotArgs) (b : Slot) (s : State) : Out := .next (runPair ⟨.cvtFN, a⟩ b s)

/-- Slot A `cvtIF` (R146). -/
def execPairCvtIF (a : SlotArgs) (b : Slot) (s : State) : Out := .next (runPair ⟨.cvtIF, a⟩ b s)

/-- Slot A `cvtNF` (R146). -/
def execPairCvtNF (a : SlotArgs) (b : Slot) (s : State) : Out := .next (runPair ⟨.cvtNF, a⟩ b s)

/-- Slot A `icmpI` (R146). -/
def execPairIcmpI (a : SlotArgs) (b : Slot) (s : State) : Out := .next (runPair ⟨.icmpI, a⟩ b s)

/-- Slot A `icmpN` (R146). -/
def execPairIcmpN (a : SlotArgs) (b : Slot) (s : State) : Out := .next (runPair ⟨.icmpN, a⟩ b s)

/-- Slot A `fcmpF` (R146). -/
def execPairFcmpF (a : SlotArgs) (b : Slot) (s : State) : Out := .next (runPair ⟨.fcmpF, a⟩ b s)

end Sys2Proof.Machine
end

