-- ==== Sys2Proof/Machine/Reliability.lean ====
section
/-! DEFINITION. Errors, retirement and heat (R427 to R431): corrected and uncorrectable errors, scrub periods, control faults, a cluster that
goes offline, the thermal steps and the trip. -/

namespace Sys2Proof.Machine

/-! ### Retirement (R427) -/

/-- Retires a cluster: the dispatcher places nothing more on it, it drains for no task, and the event is raised. -/
def State.retire (s : State) (d c : Nat) : State :=
  if (s.cluster d c).retired then s else (s.onCluster d c fun x => { x with retired := true, drain := false }).monitor d 0x0E

/-- CONTROL_FAULT (R427). -/
def execControlFault (die cl : Nat) (s : State) : Out := .next (s.retire die cl)

/-- CLUSTER_OFFLINE (R427): a retired cluster goes offline once it is idle. -/
def execClusterOffline (die cl : Nat) (s : State) : Out :=
  .next (if (s.cluster die cl).retired && s.idle die cl then s.onCluster die cl fun x => { x with offline := true } else s)

/-! ### Errors (R429, R430) -/

/-- CORRECTED_ERROR (R429): repaired in place; the sixteenth in one array within one period raises the threshold event. -/
def execCorrectedError (die arr : Nat) (s : State) : Out :=
  .next (
    let n := assocD 0 (s.die die).cerr arr + 1
    let s := s.onDie die fun x => { x with cerr := assocSet x.cerr arr n }
    if n = 16 then s.monitor die 0x0F else s)

/-- Counts an uncorrectable error against a cluster; the second within one period retires it (R427). -/
def State.countUe (s : State) (d c : Nat) : State :=
  let n := assocD 0 (s.die d).uerr c + 1
  let s := s.onDie d fun x => { x with uerr := assocSet x.uerr c n }
  if n = 2 then s.retire d c else s

/-- Marks the aligned 8-byte word that holds a raw storage byte (R430). -/
def State.mark (s : State) (key : Nat) : State := if s.bad.contains (key / 8 * 8) then s else { s with bad := s.bad ++ [key / 8 * 8] }

/-- Counts an error in a thread's registers against its cluster. -/
def State.ueThread (s : State) (t : Nat) (f : Regs → Regs) : State :=
  match s.thread? t with
  | some x => (s.modThread t fun y => { y with regs := f y.regs }).countUe x.loc.die x.loc.cl
  | none => s

/-- UNCORRECTABLE_ERROR (R430), by the place of the word. -/
def execUncorrectableError (die : Nat) (p : UePlace) (s : State) : Out :=
  .next (
    let s := s.monitor die 0x10
    match p with
    | .line la => s.loseLine la 4 die
    | .scratch cl off => (s.mark (scratchKey die cl off)).countUe die cl
    | .vault vt off => s.mark (vaultKey die (vt * 2 ^ 25 + off))
    | .vreg t n => s.ueThread t fun r => { r with vtag := r.vtag.set n.toNat tPSN }
    | .sreg t n => s.ueThread t fun r => r.psnR n.toNat
    | .tile t n => s.ueThread t fun r => r.psnT n.toNat)

/-- SCRUB_PERIOD (R429): every array has been scrubbed and the counts of errors restart. -/
def execScrubPeriod (die : Nat) (s : State) : Out :=
  .next (s.onDie die fun x => { x with cerr := [], uerr := [], scrubAt := x.fclk.toNat })

/-! ### Heat (R431) -/

/-- The throttle step at a temperature, from the step before: each is lifted 3 °C below its threshold. -/
def heatStep (h deg : Nat) : Nat :=
  if 110 ≤ deg then 3 else if 100 ≤ deg then 2 else if h = 2 ∧ 97 < deg then 2 else if 95 ≤ deg then 1 else if 1 ≤ h ∧ 92 < deg then 1 else 0

/-- TEMPERATURE_CHANGE (R431): a step is set or lifted with its event; at 110 °C the die trips, and it resets when it cools below 90 °C. -/
def execTemperatureChange (die deg : Nat) (s : State) : Out :=
  .next (
    let h := (s.die die).heat
    if h = 3 then (if deg < 90 then s.resetDie die 0 true else s)
    else
      let n := heatStep h deg
      if n = h then s else (s.onDie die fun x => { x with heat := n }).monitor die (if n = 3 then 0x12 else 0x11))

end Sys2Proof.Machine
end

