-- ==== Sys2Proof/Machine/Dispatch.lean ====
section
/-! DEFINITION. One arm for each constructor of `Instr`: a call of its meaning. -/

namespace Sys2Proof.Machine

def exec (i : Instr) (s : State) : Host.Outcome State Fault Refusal :=
  match i with
  | .nop g => Sys2Proof.Machine.execNop g s
  | .bra g ck sa off => Sys2Proof.Machine.execBra g ck sa off s
  | .bri g uni sb => Sys2Proof.Machine.execBri g uni sb s
  | .call dst sb => Sys2Proof.Machine.execCall dst sb s
  | .ret sa => Sys2Proof.Machine.execRet sa s
  | .exit g => Sys2Proof.Machine.execExit g s
  | .mark kind off => Sys2Proof.Machine.execMark kind off s
  | .merge => Sys2Proof.Machine.execMerge s
  | .brk g => Sys2Proof.Machine.execBrk g s
  | .cont g => Sys2Proof.Machine.execCont g s
  | .regang => Sys2Proof.Machine.execRegang s
  | .join g dst sb => Sys2Proof.Machine.execJoin g dst sb s
  | .leave g sb => Sys2Proof.Machine.execLeave g sb s
  | .bar g dst sb red rop rty sc => Sys2Proof.Machine.execBar g dst sb red rop rty sc s
  | .elect g dst => Sys2Proof.Machine.execElect g dst s
  | .trapUser g imm => Sys2Proof.Machine.execTrapUser g imm s
  | .trapBkpt g imm => Sys2Proof.Machine.execTrapBkpt g imm s
  | .rett sa skip => Sys2Proof.Machine.execRett sa skip s
  | .svc g dst sa sb sc => Sys2Proof.Machine.execSvc g dst sa sb sc s
  | .spawn dst sa sb => Sys2Proof.Machine.execSpawn dst sa sb s
  | .mwatch sa => Sys2Proof.Machine.execMwatch sa s
  | .msleep dst sb => Sys2Proof.Machine.execMsleep dst sb s
  | .pause sb => Sys2Proof.Machine.execPause sb s
  | .csrr dst num => Sys2Proof.Machine.execCsrr dst num s
  | .csrw sa num => Sys2Proof.Machine.execCsrw sa num s
  | .nw dst sa sb w vs => Sys2Proof.Machine.execNw dst sa sb w vs s
  | .nrPeek dst sa => Sys2Proof.Machine.execNrPeek dst sa s
  | .nrTake dst sa => Sys2Proof.Machine.execNrTake dst sa s
  | .nred g dst sa gop gty => Sys2Proof.Machine.execNred g dst sa gop gty s
  | .nctlGather dst sb gop gty => Sys2Proof.Machine.execNctlGather dst sb gop gty s
  | .nctlBcast dst sb => Sys2Proof.Machine.execNctlBcast dst sb s
  | .nctlEmpty dst sb => Sys2Proof.Machine.execNctlEmpty dst sb s
  | .hsr dst sb => Sys2Proof.Machine.execHsr dst sb s
  | .hsw sa sb => Sys2Proof.Machine.execHsw sa sb s
  | .iadd h dst sa sb it cy cp => Sys2Proof.Machine.execIadd h dst sa sb it cy cp s
  | .isub h dst sa sb it cy cp => Sys2Proof.Machine.execIsub h dst sa sb it cy cp s
  | .imul h dst sa sb it hw => Sys2Proof.Machine.execImul h dst sa sb it hw s
  | .imad h dst sa sb sc it hw => Sys2Proof.Machine.execImad h dst sa sb sc it hw s
  | .idiv h dst sa sb it rem => Sys2Proof.Machine.execIdiv h dst sa sb it rem s
  | .imin h dst sa sb it => Sys2Proof.Machine.execImin h dst sa sb it s
  | .imax h dst sa sb it => Sys2Proof.Machine.execImax h dst sa sb it s
  | .iabs h dst sa it sat => Sys2Proof.Machine.execIabs h dst sa it sat s
  | .ineg h dst sa it sat => Sys2Proof.Machine.execIneg h dst sa it sat s
  | .icmp h dst sa sb it cmp => Sys2Proof.Machine.execIcmp h dst sa sb it cmp s
  | .idp4 h dst sa sb sc pk sat => Sys2Proof.Machine.execIdp4 h dst sa sb sc pk sat s
  | .lea h dst sa sb w sh => Sys2Proof.Machine.execLea h dst sa sb w sh s
  | .and h dst sa sb w => Sys2Proof.Machine.execAnd h dst sa sb w s
  | .or h dst sa sb w => Sys2Proof.Machine.execOr h dst sa sb w s
  | .xor h dst sa sb w => Sys2Proof.Machine.execXor h dst sa sb w s
  | .not h dst sa w => Sys2Proof.Machine.execNot h dst sa w s
  | .shl h dst sa sb w => Sys2Proof.Machine.execShl h dst sa sb w s
  | .shr h dst sa sb w a => Sys2Proof.Machine.execShr h dst sa sb w a s
  | .rot h dst sa sb w => Sys2Proof.Machine.execRot h dst sa sb w s
  | .bfe h dst sa sb sc w sx => Sys2Proof.Machine.execBfe h dst sa sb sc w sx s
  | .bfi h dst sa sb sc w => Sys2Proof.Machine.execBfi h dst sa sb sc w s
  | .bfrev h dst sa w => Sys2Proof.Machine.execBfrev h dst sa w s
  | .bcnt h dst sa w bop => Sys2Proof.Machine.execBcnt h dst sa w bop s
  | .sad h dst sa sb sc pk sat => Sys2Proof.Machine.execSad h dst sa sb sc pk sat s
  | .mov h dst sb w => Sys2Proof.Machine.execMov h dst sb w s
  | .movi h dst imm mt => Sys2Proof.Machine.execMovi h dst imm mt s
  | .sel g dst sa sb sc => Sys2Proof.Machine.execSel g dst sa sb sc s
  | .movx g dst sa tag => Sys2Proof.Machine.execMovx g dst sa tag s
  | .plog g dst sa sb lut => Sys2Proof.Machine.execPlog g dst sa sb lut s
  | .pmov g dst sa dir => Sys2Proof.Machine.execPmov g dst sa dir s
  | .sreg g dst sel => Sys2Proof.Machine.execSreg g dst sel s
  | .fadd h dst sa sb bf rnd => Sys2Proof.Machine.execFadd h dst sa sb bf rnd s
  | .fsub h dst sa sb bf rnd => Sys2Proof.Machine.execFsub h dst sa sb bf rnd s
  | .fmul h dst sa sb bf rnd => Sys2Proof.Machine.execFmul h dst sa sb bf rnd s
  | .fma h dst sa sb sc bf rnd => Sys2Proof.Machine.execFma h dst sa sb sc bf rnd s
  | .fmin h dst sa sb bf => Sys2Proof.Machine.execFmin h dst sa sb bf s
  | .fmax h dst sa sb bf => Sys2Proof.Machine.execFmax h dst sa sb bf s
  | .fcmp h dst sa sb bf cmp => Sys2Proof.Machine.execFcmp h dst sa sb bf cmp s
  | .frcp h dst sa bf rnd => Sys2Proof.Machine.execFrcp h dst sa bf rnd s
  | .frsq h dst sa bf => Sys2Proof.Machine.execFrsq h dst sa bf s
  | .fsqrt h dst sa bf rnd => Sys2Proof.Machine.execFsqrt h dst sa bf rnd s
  | .fexp2 h dst sa bf => Sys2Proof.Machine.execFexp2 h dst sa bf s
  | .flog2 h dst sa bf => Sys2Proof.Machine.execFlog2 h dst sa bf s
  | .fsin h dst sa bf => Sys2Proof.Machine.execFsin h dst sa bf s
  | .fcos h dst sa bf => Sys2Proof.Machine.execFcos h dst sa bf s
  | .fdiv h dst sa sb bf rnd => Sys2Proof.Machine.execFdiv h dst sa sb bf rnd s
  | .frnd h dst sa bf rnd => Sys2Proof.Machine.execFrnd h dst sa bf rnd s
  | .fclass h dst sa bf => Sys2Proof.Machine.execFclass h dst sa bf s
  | .fscale h dst sa sb bf rnd => Sys2Proof.Machine.execFscale h dst sa sb bf rnd s
  | .ffrac h dst sa bf rnd => Sys2Proof.Machine.execFfrac h dst sa bf rnd s
  | .fdot2 h dst sa sb sc rnd => Sys2Proof.Machine.execFdot2 h dst sa sb sc rnd s
  | .cvt h dst sa cv rnd => Sys2Proof.Machine.execCvt h dst sa cv rnd s
  | .pack h dst sa sb pk rnd => Sys2Proof.Machine.execPack h dst sa sb pk rnd s
  | .unpk h dst sa uk el => Sys2Proof.Machine.execUnpk h dst sa uk el s
  | .vote g dst sa vop => Sys2Proof.Machine.execVote g dst sa vop s
  | .shfl g dst sa sb segl sop => Sys2Proof.Machine.execShfl g dst sa sb segl sop s
  | .prmt g dst sa sb sc => Sys2Proof.Machine.execPrmt g dst sa sb sc s
  | .redg g dst sa rop rty rnd => Sys2Proof.Machine.execRedg g dst sa rop rty rnd s
  | .scan g dst sa rop rty rnd excl => Sys2Proof.Machine.execScan g dst sa rop rty rnd excl s
  | .matchv g dst sa mop => Sys2Proof.Machine.execMatchv g dst sa mop s
  | .ld g dst sa off scope pol now ord ty bpm => Sys2Proof.Machine.execLd g dst sa off scope pol now ord ty bpm s
  | .st g dst sa off scope pol rnd ord ty bpm => Sys2Proof.Machine.execSt g dst sa off scope pol rnd ord ty bpm s
  | .sld dst sa off scope pol now ord ty bpm => Sys2Proof.Machine.execSld dst sa off scope pol now ord ty bpm s
  | .sst dst sa off scope pol ord ty bpm => Sys2Proof.Machine.execSst dst sa off scope pol ord ty bpm s
  | .atom g dst sa off scope aop ord ty bpm => Sys2Proof.Machine.execAtom g dst sa off scope aop ord ty bpm s
  | .satom dst sa off scope aop ord ty bpm => Sys2Proof.Machine.execSatom dst sa off scope aop ord ty bpm s
  | .srel dst sa off scope fresh sop w => Sys2Proof.Machine.execSrel dst sa off scope fresh sop w s
  | .sacq dst sa off scope clr w => Sys2Proof.Machine.execSacq dst sa off scope clr w s
  | .fence scope ord => Sys2Proof.Machine.execFence scope ord s
  | .wait ldn stn cpn mxn => Sys2Proof.Machine.execWait ldn stn cpn mxn s
  | .prf g sa off lvl => Sys2Proof.Machine.execPrf g sa off lvl s
  | .cmoWb g sa off scope => Sys2Proof.Machine.execCmoWb g sa off scope s
  | .cmoWbinv g sa off scope => Sys2Proof.Machine.execCmoWbinv g sa off scope s
  | .cmoIinv g sa off scope => Sys2Proof.Machine.execCmoIinv g sa off scope s
  | .dcf sa sb scope => Sys2Proof.Machine.execDcf sa sb scope s
  | .pclr dst sa sb => Sys2Proof.Machine.execPclr dst sa sb s
  | .cbarWait dst sa sb scope => Sys2Proof.Machine.execCbarWait dst sa sb scope s
  | .cbarTest dst sa sb scope => Sys2Proof.Machine.execCbarTest dst sa sb scope s
  | .cbarArm sa sb scope => Sys2Proof.Machine.execCbarArm sa sb scope s
  | .cbarArrive sa sb scope => Sys2Proof.Machine.execCbarArrive sa sb scope s
  | .cpq sa sb ch => Sys2Proof.Machine.execCpq sa sb ch s
  | .tcfg dst sb zm => Sys2Proof.Machine.execTcfg dst sb zm s
  | .trel => Sys2Proof.Machine.execTrel s
  | .tzero dst cnt => Sys2Proof.Machine.execTzero dst cnt s
  | .mma dst sa sb rnd sca scb nb kb x3 ty => Sys2Proof.Machine.execMma dst sa sb rnd sca scb nb kb x3 ty s
  | .tld dst sa off pol sc now ty => Sys2Proof.Machine.execTld dst sa off pol sc now ty s
  | .tst dst sa off pol sc rnd ty => Sys2Proof.Machine.execTst dst sa off pol sc rnd ty s
  | .tmovTov dst sa => Sys2Proof.Machine.execTmovTov dst sa s
  | .tmovFromv dst sa => Sys2Proof.Machine.execTmovFromv dst sa s
  | .tmovTot dst sa => Sys2Proof.Machine.execTmovTot dst sa s
  | .mbat dst => Sys2Proof.Machine.execMbat dst s
  | .mwait dst all sb => Sys2Proof.Machine.execMwait dst all sb s
  | .tscl dst sa sb sc relu rnd => Sys2Proof.Machine.execTscl dst sa sb sc relu rnd s
  | .pairPnop a b => Sys2Proof.Machine.execPairPnop a b s
  | .pairIadd a b => Sys2Proof.Machine.execPairIadd a b s
  | .pairIsub a b => Sys2Proof.Machine.execPairIsub a b s
  | .pairImul a b => Sys2Proof.Machine.execPairImul a b s
  | .pairIminI a b => Sys2Proof.Machine.execPairIminI a b s
  | .pairImaxI a b => Sys2Proof.Machine.execPairImaxI a b s
  | .pairIminN a b => Sys2Proof.Machine.execPairIminN a b s
  | .pairImaxN a b => Sys2Proof.Machine.execPairImaxN a b s
  | .pairIneg a b => Sys2Proof.Machine.execPairIneg a b s
  | .pairIabs a b => Sys2Proof.Machine.execPairIabs a b s
  | .pairAnd a b => Sys2Proof.Machine.execPairAnd a b s
  | .pairOr a b => Sys2Proof.Machine.execPairOr a b s
  | .pairXor a b => Sys2Proof.Machine.execPairXor a b s
  | .pairNot a b => Sys2Proof.Machine.execPairNot a b s
  | .pairShlImm a b => Sys2Proof.Machine.execPairShlImm a b s
  | .pairShrLImm a b => Sys2Proof.Machine.execPairShrLImm a b s
  | .pairShrAImm a b => Sys2Proof.Machine.execPairShrAImm a b s
  | .pairRotImm a b => Sys2Proof.Machine.execPairRotImm a b s
  | .pairShl a b => Sys2Proof.Machine.execPairShl a b s
  | .pairShrL a b => Sys2Proof.Machine.execPairShrL a b s
  | .pairShrA a b => Sys2Proof.Machine.execPairShrA a b s
  | .pairPopc a b => Sys2Proof.Machine.execPairPopc a b s
  | .pairClz a b => Sys2Proof.Machine.execPairClz a b s
  | .pairCtz a b => Sys2Proof.Machine.execPairCtz a b s
  | .pairBfrev a b => Sys2Proof.Machine.execPairBfrev a b s
  | .pairMov a b => Sys2Proof.Machine.execPairMov a b s
  | .pairMovi a b => Sys2Proof.Machine.execPairMovi a b s
  | .pairMovx a b => Sys2Proof.Machine.execPairMovx a b s
  | .pairFaddF a b => Sys2Proof.Machine.execPairFaddF a b s
  | .pairFsubF a b => Sys2Proof.Machine.execPairFsubF a b s
  | .pairFmulF a b => Sys2Proof.Machine.execPairFmulF a b s
  | .pairFminF a b => Sys2Proof.Machine.execPairFminF a b s
  | .pairFmaxF a b => Sys2Proof.Machine.execPairFmaxF a b s
  | .pairFaddB a b => Sys2Proof.Machine.execPairFaddB a b s
  | .pairFsubB a b => Sys2Proof.Machine.execPairFsubB a b s
  | .pairFmulB a b => Sys2Proof.Machine.execPairFmulB a b s
  | .pairFminB a b => Sys2Proof.Machine.execPairFminB a b s
  | .pairFmaxB a b => Sys2Proof.Machine.execPairFmaxB a b s
  | .pairPack a b => Sys2Proof.Machine.execPairPack a b s
  | .pairUnpk a b => Sys2Proof.Machine.execPairUnpk a b s
  | .pairCvtFI a b => Sys2Proof.Machine.execPairCvtFI a b s
  | .pairCvtFN a b => Sys2Proof.Machine.execPairCvtFN a b s
  | .pairCvtIF a b => Sys2Proof.Machine.execPairCvtIF a b s
  | .pairCvtNF a b => Sys2Proof.Machine.execPairCvtNF a b s
  | .pairIcmpI a b => Sys2Proof.Machine.execPairIcmpI a b s
  | .pairIcmpN a b => Sys2Proof.Machine.execPairIcmpN a b s
  | .pairFcmpF a b => Sys2Proof.Machine.execPairFcmpF a b s
  | .issueSelect => Sys2Proof.Machine.execIssueSelect s
  | .pendingGangPromote => Sys2Proof.Machine.execPendingGangPromote s
  | .pauseExpire t k => Sys2Proof.Machine.execPauseExpire t k s
  | .msleepTimeout t => Sys2Proof.Machine.execMsleepTimeout t s
  | .copyStart t ch data => Sys2Proof.Machine.execCopyStart t ch data s
  | .copyAbort t ch => Sys2Proof.Machine.execCopyAbort t ch s
  | .copyQuery t ch => Sys2Proof.Machine.execCopyQuery t ch s
  | .copySectorCommit die cl ch => Sys2Proof.Machine.execCopySectorCommit die cl ch s
  | .copyComplete die cl ch => Sys2Proof.Machine.execCopyComplete die cl ch s
  | .copyCommandDequeue die cl ch => Sys2Proof.Machine.execCopyCommandDequeue die cl ch s
  | .pageWalk w => Sys2Proof.Machine.execPageWalk w s
  | .loadReturn t => Sys2Proof.Machine.execLoadReturn t s
  | .storePerformed t => Sys2Proof.Machine.execStorePerformed t s
  | .storeHoldResolved t => Sys2Proof.Machine.execStoreHoldResolved t s
  | .lineEvict die cl la => Sys2Proof.Machine.execLineEvict die cl la s
  | .tldComplete t => Sys2Proof.Machine.execTldComplete t s
  | .mmaCommandStart die core part => Sys2Proof.Machine.execMmaCommandStart die core part s
  | .mmaMigrate die core part => Sys2Proof.Machine.execMmaMigrate die core part s
  | .mmaBlockAccumulate die core part => Sys2Proof.Machine.execMmaBlockAccumulate die core part s
  | .mmaCommandComplete die core part => Sys2Proof.Machine.execMmaCommandComplete die core part s
  | .sliceRds die cl la mir => Sys2Proof.Machine.execSliceRds die cl la mir s
  | .sliceRdx die cl la mir => Sys2Proof.Machine.execSliceRdx die cl la mir s
  | .sliceUpg die cl la mir => Sys2Proof.Machine.execSliceUpg die cl la mir s
  | .sliceWbd die cl la => Sys2Proof.Machine.execSliceWbd die cl la s
  | .sliceEvc die cl la => Sys2Proof.Machine.execSliceEvc die cl la s
  | .rds m => Sys2Proof.Machine.execRds m s
  | .rdx m => Sys2Proof.Machine.execRdx m s
  | .upg m => Sys2Proof.Machine.execUpg m s
  | .wbd m => Sys2Proof.Machine.execWbd m s
  | .evc m => Sys2Proof.Machine.execEvc m s
  | .rdu m => Sys2Proof.Machine.execRdu m s
  | .wru m => Sys2Proof.Machine.execWru m s
  | .atu m => Sys2Proof.Machine.execAtu m s
  | .snpf m => Sys2Proof.Machine.execSnpf m s
  | .snpi m => Sys2Proof.Machine.execSnpi m s
  | .snpfi m => Sys2Proof.Machine.execSnpfi m s
  | .recall m => Sys2Proof.Machine.execRecall m s
  | .grant m => Sys2Proof.Machine.execGrant m s
  | .ack m => Sys2Proof.Machine.execAck m s
  | .retry m => Sys2Proof.Machine.execRetry m s
  | .err m => Sys2Proof.Machine.execErr m s
  | .gone m => Sys2Proof.Machine.execGone m s
  | .mirack m => Sys2Proof.Machine.execMirack m s
  | .data m => Sys2Proof.Machine.execData m s
  | .datam m => Sys2Proof.Machine.execDatam m s
  | .mirror m => Sys2Proof.Machine.execMirror m s
  | .remrd m => Sys2Proof.Machine.execRemrd m s
  | .remwr m => Sys2Proof.Machine.execRemwr m s
  | .remat m => Sys2Proof.Machine.execRemat m s
  | .remrsp m => Sys2Proof.Machine.execRemrsp m s
  | .disc m port => Sys2Proof.Machine.execDisc m port s
  | .discr m port => Sys2Proof.Machine.execDiscr m port s
  | .shoot m => Sys2Proof.Machine.execShoot m s
  | .shoota m => Sys2Proof.Machine.execShoota m s
  | .probe m => Sys2Proof.Machine.execProbe m s
  | .jfail m => Sys2Proof.Machine.execJfail m s
  | .census m => Sys2Proof.Machine.execCensus m s
  | .report m => Sys2Proof.Machine.execReport m s
  | .censusComplete die => Sys2Proof.Machine.execCensusComplete die s
  | .junctionResponseTimeout die txid => Sys2Proof.Machine.execJunctionResponseTimeout die txid s
  | .snpOwnerTimeout die la => Sys2Proof.Machine.execSnpOwnerTimeout die la s
  | .lossRecordDrain die => Sys2Proof.Machine.execLossRecordDrain die s
  | .snpinv la => Sys2Proof.Machine.execSnpinv la s
  | .snpdata la => Sys2Proof.Machine.execSnpdata la s
  | .snpcur la => Sys2Proof.Machine.execSnpcur la s
  | .hostM2sRequest q => Sys2Proof.Machine.execHostM2sRequest q s
  | .birsp la => Sys2Proof.Machine.execBirsp la s
  | .biconflict q => Sys2Proof.Machine.execBiconflict q s
  | .flitReceive die port flit => Sys2Proof.Machine.execFlitReceive die port flit s
  | .idleFlit die port flit => Sys2Proof.Machine.execIdleFlit die port flit s
  | .replayRequest die port flit => Sys2Proof.Machine.execReplayRequest die port flit s
  | .portAckTimeout die port => Sys2Proof.Machine.execPortAckTimeout die port s
  | .portRetrain die port ok => Sys2Proof.Machine.execPortRetrain die port ok s
  | .classStarvation die port cls => Sys2Proof.Machine.execClassStarvation die port cls s
  | .portTrained die port => Sys2Proof.Machine.execPortTrained die port s
  | .discoverTimeout die port => Sys2Proof.Machine.execDiscoverTimeout die port s
  | .hostPortTrainTimeout die => Sys2Proof.Machine.execHostPortTrainTimeout die s
  | .dieReset die => Sys2Proof.Machine.execDieReset die s
  | .bootStartTimeout die => Sys2Proof.Machine.execBootStartTimeout die s
  | .doeStatus die => Sys2Proof.Machine.execDoeStatus die s
  | .doeStage off bytes => Sys2Proof.Machine.execDoeStage off bytes s
  | .doeRestart => Sys2Proof.Machine.execDoeRestart s
  | .spdmRequest q => Sys2Proof.Machine.execSpdmRequest q s
  | .leaseRenewal die => Sys2Proof.Machine.execLeaseRenewal die s
  | .leaseWatch die => Sys2Proof.Machine.execLeaseWatch die s
  | .leaseTakeover die => Sys2Proof.Machine.execLeaseTakeover die s
  | .voterOutput die mach a b c => Sys2Proof.Machine.execVoterOutput die mach a b c s
  | .resyncEnd die mach => Sys2Proof.Machine.execResyncEnd die mach s
  | .voteInject die mach copy => Sys2Proof.Machine.execVoteInject die mach copy s
  | .injectDiscard die mach => Sys2Proof.Machine.execInjectDiscard die mach s
  | .shootdownPage die spc sz pasid => Sys2Proof.Machine.execShootdownPage die spc sz pasid s
  | .shootdownPasidSpace die spc pasid => Sys2Proof.Machine.execShootdownPasidSpace die spc pasid s
  | .shootdownPasid die pasid => Sys2Proof.Machine.execShootdownPasid die pasid s
  | .shootdownAll die => Sys2Proof.Machine.execShootdownAll die s
  | .shootdownComplete die => Sys2Proof.Machine.execShootdownComplete die s
  | .pageReadyReport die spc pasid vpn => Sys2Proof.Machine.execPageReadyReport die spc pasid vpn s
  | .patinaForce t => Sys2Proof.Machine.execPatinaForce t s
  | .preemptRequest task => Sys2Proof.Machine.execPreemptRequest task s
  | .preemptTake t => Sys2Proof.Machine.execPreemptTake t s
  | .threadRestore t => Sys2Proof.Machine.execThreadRestore t s
  | .queueTailAdvance die pasid qn => Sys2Proof.Machine.execQueueTailAdvance die pasid qn s
  | .spawnRecord die pasid qn => Sys2Proof.Machine.execSpawnRecord die pasid qn s
  | .copyTask die pasid qn => Sys2Proof.Machine.execCopyTask die pasid qn s
  | .countBarrierWait die pasid qn => Sys2Proof.Machine.execCountBarrierWait die pasid qn s
  | .list die pasid qn => Sys2Proof.Machine.execList die pasid qn s
  | .countBarrierWaitComplete task => Sys2Proof.Machine.execCountBarrierWaitComplete task s
  | .taskPlace die => Sys2Proof.Machine.execTaskPlace die s
  | .threadEnd t => Sys2Proof.Machine.execThreadEnd t s
  | .taskComplete task => Sys2Proof.Machine.execTaskComplete task s
  | .temperatureChange die deg => Sys2Proof.Machine.execTemperatureChange die deg s
  | .correctedError die arr => Sys2Proof.Machine.execCorrectedError die arr s
  | .uncorrectableError die p => Sys2Proof.Machine.execUncorrectableError die p s
  | .scrubPeriod die => Sys2Proof.Machine.execScrubPeriod die s
  | .clusterOffline die cl => Sys2Proof.Machine.execClusterOffline die cl s
  | .cxlCacheHostResponse la data => Sys2Proof.Machine.execCxlCacheHostResponse la data s
  | .configurationSpaceAccess addr write data => Sys2Proof.Machine.execConfigurationSpaceAccess addr write data s
  | .probeFailure die target => Sys2Proof.Machine.execProbeFailure die target s
  | .controlFault die cl => Sys2Proof.Machine.execControlFault die cl s
  | .pfringRecordDrain die => Sys2Proof.Machine.execPfringRecordDrain die s
  | .monitorRingSpaceFreed die => Sys2Proof.Machine.execMonitorRingSpaceFreed die s

end Sys2Proof.Machine
end

