-- ==== Sys2Proof/Machine/Engine.lean ====
section
/-! DEFINITION. What goes on in the package between issues: in which order the steps that are due are taken, one a step, the clocks once none
is due, and where a program is laid for the next fetch. The order is the model's; any order of them is the hardware's (log 17). -/

namespace Sys2Proof.Machine

/-- The state that a meaning answers. -/
def ran (f : State → Out) (s : State) : State :=
  match f s with
  | .next t => t
  | .fault _ => s
  | .refused _ => s

/-- The first change that is one. -/
def firstChange (s : State) : List (State → State) → Option State
  | [] => none
  | f :: fs => if f s = s then firstChange s fs else some (f s)

/-! ### Messages -/

/-- Delivers the oldest message that stands at the die it names and that the die takes up; a DISCOVER message with the port it came over. -/
def State.deliverOldest (s : State) : State :=
  match s.msgs.findIdx? s.here with
  | none => s
  | some i =>
    let port := ((s.msgs[i]?).bind fun p => p.2.buf).getD 0
    match s.takeMsg i with
    | none => s
    | some (s, op, m) => match op with
      | .disc => ran (execDisc m port) s
      | .discr => ran (execDiscr m port) s
      | _ => s.deliver op m

/-- The first step of an accepted write at its home (R255, R273). -/
def State.homeTurn (s : State) : State := s.homeDue.getD s

/-- Dies of the package. -/
def State.allDies (s : State) : List Nat := rangeFrom 0 (min 8 s.maq.ndies)

/-- The ports of the package. -/
def State.allPorts (s : State) : List (Nat × Nat) := s.allDies.flatMap fun d => (rangeFrom 0 4).map fun p => (d, p)

/-- Messages, accepted writes, host requests that nothing holds up any longer, flits on their way, and what the ports have to send. -/
def linkEvents (s : State) : List (State → State) :=
  [State.deliverOldest, State.homeTurn, State.serveYielded, State.setAside, State.strand, State.wireIn]
    ++ s.allPorts.map (fun q (s : State) => s.txPort q.1 q.2) ++ s.allPorts.map (fun q (s : State) => s.idleIf q.1 q.2 (s.idleDue q.1 q.2))

/-- What the ports have to give while nothing else goes on (log 45). -/
def quietEvents (s : State) : List (State → State) := s.allPorts.map fun q (s : State) => s.idleIf q.1 q.2 (s.idleMay q.1 q.2)

/-! ### Threads -/

/-- The steps due for one thread. -/
def threadEvents (t : Thread) : List (State → State) :=
  let i := t.id
  [fun s => if t.outs.contains .load then ran (execLoadReturn i) s else s,
   fun s => if t.outs.contains .store && !s.unperformed t.loc.die then ran (execStorePerformed i) s else s,
   ran (execTldComplete i), ran (execMsleepTimeout i)]
  ++ (rangeFrom 0 t.slices.length).map (fun k => ran (execPauseExpire i k))
  ++ [ran (execPreemptTake i), ran (execThreadEnd i)]

/-! ### Engines -/

/-- The steps due for a channel. -/
def chanEvents (c : Chan) : List (State → State) :=
  [ran (execCopyCommandDequeue c.die c.cl c.ch), ran (execCopySectorCommit c.die c.cl c.ch), ran (execCopyComplete c.die c.cl c.ch)]

/-- The steps due for a residue array. -/
def arrayEvents (q : MQueue) : List (State → State) :=
  [ran (execMmaCommandStart q.die q.core q.part), ran (execMmaMigrate q.die q.core q.part), ran (execMmaBlockAccumulate q.die q.core q.part),
   ran (execMmaCommandComplete q.die q.core q.part)]

/-! ### Tasks and queues -/

/-- The queues that a die's table lists: scheduler's die, PASID, number. -/
def State.queuesOf (s : State) (d : Nat) : List (Nat × BitVec 20 × BitVec 16) :=
  match s.qtable d with
  | none => []
  | some (base, logn) => (rangeFrom 0 (2 ^ logn)).filterMap fun k =>
      let q := s.qcb (base + 64 * k)
      if q.v then some (q.die, BitVec.ofNat 20 q.pasid, BitVec.ofNat 16 q.qn) else none

/-- The steps due for a queue. -/
def queueEvents (q : Nat × BitVec 20 × BitVec 16) : List (State → State) :=
  [ran (execQueueTailAdvance q.1 q.2.1 q.2.2), ran (execSpawnRecord q.1 q.2.1 q.2.2), ran (execCopyTask q.1 q.2.1 q.2.2),
   ran (execCountBarrierWait q.1 q.2.1 q.2.2), ran (execList q.1 q.2.1 q.2.2)]

/-- The steps due for a task. -/
def taskEvents (t : Task) : List (State → State) := [ran (execCountBarrierWaitComplete t.h), ran (execTaskComplete t.h)]

/-! ### Timers of a die -/

/-- A step that is due once a condition holds. -/
def due (b : Bool) (f : State → Out) : List (State → State) := if b then [ran f] else []

/-- The timers of junction transactions, of the requests of a die and of its shoot-down (R263, R266). -/
def junctionEvents (s : State) (d : Nat) : List (State → State) :=
  let x := s.die d
  let now := x.fclk.toNat
  due (x.sdBusy && !x.sdAcks.isEmpty && decide (x.sdAt + Config.reqTimeout ≤ now)) (execJunctionResponseTimeout d x.sdTx)
  ++ (s.jdir.filter fun j => j.die == d).flatMap (fun j => match j.tx with
    | some t =>
      due (t.waitsFor j.owner && decide (t.sentAt + Config.snpTimeout ≤ now)) (execSnpOwnerTimeout d j.la)
        ++ due (!t.silent.isEmpty && decide (t.sentAt + Config.reqTimeout ≤ now)) (execJunctionResponseTimeout d t.txid)
    | none => [])
  ++ (s.sdir.filter fun e => e.die == d).flatMap fun e => match e.req with
    | some q =>
      let late := q.data.isNone && !q.err && decide (q.sentAt + Config.reqTimeout ≤ now)
      if q.op == .probe then due late (execProbeFailure d (probed e.la)) else due late (execJunctionResponseTimeout d q.txid)
    | none => []

/-- The lease's timers (R380). -/
def leaseEvents (s : State) (d : Nat) : List (State → State) :=
  let x := s.die d
  let l := x.lease
  if x.boot.mode = 2 ∨ x.boot.stage ≠ 2 ∨ s.lineDies.isEmpty then []
  else if l.leader then due (decide (l.since + 2 ^ 22 ≤ x.tclk.toNat)) (execLeaseRenewal d)
  else [ran (execLeaseWatch d)] ++ due (decide (l.since + 3 * 2 ^ 22 ≤ x.tclk.toNat)) (execLeaseTakeover d)

/-- The starts that are due and their timers (R304, R424); a leader's core attends to the starts of others (R388). -/
def bootEvents (s : State) (d : Nat) : List (State → State) :=
  let x := s.die d
  let late := decide (x.boot.trainAt + 2 ^ 20 ≤ x.fclk.toNat)
  (fun s => s.supervise d) :: if x.boot.mode ≠ 0 then []
  else if x.boot.stage = 0 then [fun s => s.start d]
  else due (decide (x.boot.since + 2 ^ 30 ≤ x.tclk.toNat)) (execBootStartTimeout d)
    ++ due (late && x.boot.stage == 1) (execHostPortTrainTimeout d)
    ++ (rangeFrom 0 4).flatMap fun p => due (late && x.boot.stage == 1) (execDiscoverTimeout d p)

/-- The steps due for a die. -/
def dieEvents (s : State) (d : Nat) : List (State → State) :=
  let x := s.die d
  let now := x.fclk.toNat
  (rangeFrom 0 3).flatMap (fun m =>
    ran (execResyncEnd d m) :: due ((x.mach m).inj.any fun p => decide (p.2 + 2 ^ 20 ≤ now)) (execInjectDiscard d m))
  ++ [ran (execTaskPlace d), ran (execShootdownComplete d)]
  ++ due (!x.heldLoss.isEmpty && s.ringSpace x.lrbase) (execLossRecordDrain d)
  ++ due (!x.heldPf.isEmpty && s.ringSpace x.pfring) (execPfringRecordDrain d)
  ++ due x.monFull (execMonitorRingSpaceFreed d)
  ++ due (!x.census.isEmpty) (execCensusComplete d)
  ++ junctionEvents s d ++ leaseEvents s d
  ++ (rangeFrom 0 4).flatMap (fun p => due (!(s.port d p).flits.isEmpty && decide ((s.port d p).ackAt + 2 ^ 18 ≤ now)) (execPortAckTimeout d p))
  ++ due (decide (x.scrubAt + 2 ^ 32 ≤ now)) (execScrubPeriod d)
  ++ (rangeFrom 0 10).flatMap fun c => due ((s.cluster d c).retired && !(s.cluster d c).offline) (execClusterOffline d c)

/-! ### The engine's step -/

/-- Every step that may be due, in the model's order; restores keep their own place among ready tasks (R373). -/
def engineEvents (s : State) : List (State → State) :=
  linkEvents s ++ s.threads.flatMap threadEvents ++ s.tasks.flatMap taskEvents ++ s.chans.flatMap chanEvents ++ s.mqs.flatMap arrayEvents
    ++ s.allDies.flatMap (dieEvents s) ++ (rangeFrom 0 8).flatMap (bootEvents s)
    ++ (s.allDies.filter fun d => !s.dead d).flatMap (fun d => (s.queuesOf d).flatMap queueEvents)
    ++ [ran execPendingGangPromote] ++ s.savedT.map (fun t => ran (execThreadRestore t.id)) ++ quietEvents s

/-- The clocks of every die advance by one atelier clock: two fabric clocks and three arithmetic clocks (R22). That the dies' counters advance
together is the model's choice: a count says nothing about another die's (R5; log 6). -/
def State.tick (s : State) : State :=
  { s with dies := s.dies.map fun (x : Die) => { x with aclk := x.aclk + 3, fclk := x.fclk + 2, tclk := x.tclk + 1 } }

/-- Whether a step has ended a request of a die: the unit that waits for it has its turn before the next message is taken up. -/
def State.served (s t : State) : Bool := s.sdir.any fun e => e.req.isSome && (t.sent e.die e.la).req.isNone

/-- One step of the engine: the first step that is due, or the clocks and then the issue slot. -/
def State.engineStep (s : State) : State :=
  match firstChange s (engineEvents s) with
  | some t => if s.served t then { t.tick with phase := .select } else t
  | none => { s.tick with phase := .select }

/-! ### Placing an instruction for the next fetch -/

/-- The place of the word that `withFetchWord` lays: a virtual address of device space in a 64 KiB page that maps its own frame. -/
def fetchVa : Nat := 0x10000

/-- The thread that runs it: a supervisor gang of the largest allotment, or an armature thread. -/
def fetchThread (arm : Bool) (id : Nat) : Thread :=
  let n := if arm then 1 else 8
  { Thread.nobody with
    id := id, resident := true, kind := if arm then .armature else .gang, nsl := n, allot := 1024
    resv := if arm then 0 else 64, resvHeld := !arm, tcount := if arm then 0 else 64, act := true
    slices := (rangeFrom 0 n).map fun _ => ⟨BitVec.ofNat 64 fetchVa, if arm then 1 else 15, if arm then 1 else 15, [], 0, 0, .none⟩ }

/-- The page's translation: V, R, W, X, A and D. -/
def fetchTlb : TlbE := ⟨0, 0, 0, fetchVa / 65536, BitVec.ofNat 56 (fetchVa / 65536 + 2 ^ 36 + 2 ^ 37 + 2 ^ 38 + 2 ^ 39 + 2 ^ 48 + 2 ^ 49)⟩

/-- Writes two instruction words. -/
def layWords (m : SMap 8) (w : Nat) : SMap 8 :=
  (rangeFrom 0 16).foldl (fun m i => m.set (fetchVa + i) (BitVec.ofNat 8 (w / 2 ^ (8 * i)))) m

/-- Makes a thread current whose next fetch reads a word: the word in memory, a region that holds its frame, the translation, the die
running, nothing that comes before the issue. -/
def State.layFetch (s : State) (arm : Bool) (w : Nat) : State :=
  let t := fetchThread arm s.nextId
  let la := fetchVa / 64
  { s with
    cur := t
    curGrp := 0
    mem := layWords s.mem w
    ilines := s.ilines.filter fun (l : ILine) => l.la != la
    clines := s.clines.filter fun (l : CLine) => l.la != la
    l2 := s.l2.filter fun (l : L2Line) => l.la != la
    jdir := s.jdir.filter fun (j : JEnt) => j.la != la
    tlb := (tlbKey t, fetchTlb) :: s.tlb
    maq := { s.maq with regions := ⟨0, 0, 0, 0, 0, false⟩ :: s.maq.regions }
    clusters := upsert (fun x => x.die == 0 && x.cl == 0) { s.cluster 0 0 with enabled := true, lastPasid := some 0 } s.clusters
    dies := s.dies.modify 0 fun x => { x with failed := false, unreach := false, heat := 0, boot := { x.boot with mode := 1, stage := 2 } }
    agenda := []
    phase := .issue }

end Sys2Proof.Machine
end

