-- ==== Sys2Proof/Machine/Turn.lean ====
section
/-! DEFINITION. An issue unit from its fetch to its effect, and the turn of the issue slot: a gang is ready when its next unit would go on, which a trial
of that unit tells (R375 to R377). -/

namespace Sys2Proof.Machine

/-- Fetches, decodes and runs the current group's issue unit (R150 to R152). -/
def issueUnit (s : State) : Host.Outcome State Fault Refusal :=
  match s.fetchUnit with
  | (s, .stop e) => .next (s.stopped e (s.cur.mask s.curGrp) (s.cur.pcOf s.curGrp) (s.cur.gslices s.curGrp))
  | (s, .unit w0 w1) =>
    match decodeUnit s.cur.dctx w0 w1 with
    | .ok i => exec i s
    | .error e => .next (s.decodeTrap e w0)

/-- Whether a group of the current thread waits for a condition of its unit. -/
def State.held (s : State) (g : Nat) : Bool := s.cur.slices.any fun c => c.inGrp g && (match c.wait with | .again _ => true | _ => false)

/-- A trial of the current group's unit: the state in which it still waits, with the requests that the attempt has sent; none where it goes on. -/
def State.trial (s : State) : Option State :=
  match issueUnit s with
  | .next t => if t.held s.curGrp then some t else none
  | _ => none

/-- Looks again at a group whose unit waited: it is ready once the unit would go on. A unit that PREEMPT waits for completes here (R196). -/
def State.look (s : State) (id g : Nat) : State :=
  let s := { s.focus id with curGrp := g }
  match s.trial with
  | some t => t
  | none =>
    if s.cur.preempt && !s.cur.handler then
      match issueUnit s with
      | .next t => t
      | _ => s
    else s.onCur fun t => t.onGrp g fun _ c => { c with wait := .none }

/-- The groups whose units waited when they were last looked at, of the threads that may issue, and those that PREEMPT waits for. -/
def State.waiters (s : State) : List (Nat × Nat) :=
  s.threads.flatMap fun t =>
    let due := t.preempt && !t.handler
    if !(s.mayIssue { t with preempt := false }) then []
    else ((t.slices.filter fun c => c.live != 0 && (match c.wait with | .again _ => true | _ => false) && (!due || s.mustFinish t c)).map fun c => (t.id, c.grp)).eraseDups

/-- Chooses the winner of a clock among the gangs whose next unit goes on; a candidate whose unit would wait becomes not ready. -/
def State.turn (s : State) : Nat → State
  | 0 => { s with phase := .engine }
  | n + 1 =>
    match s.winner with
    | none => { s with phase := .engine }
    | some w =>
      let u := s.turnTo w
      if u.stepDue then s.pick w
      else match u.trial with
        | some t => t.turn n
        | none => s.pick w

/-- The issue slot's turn; with no winner the engine goes on (R376). -/
def State.chooseNext (s : State) : State :=
  let s := s.waiters.foldl (fun s w => s.look w.1 w.2) s
  s.arrange.turn (s.threads.foldl (fun n t => n + t.slices.length) 1)

end Sys2Proof.Machine
end

