-- ==== Sys2Proof/Machine/Step.lean ====
section
/-! DEFINITION. One step of the package: an event from outside, an issue unit of the current group, one step of the engines, or the choice of
the next group; and where an instruction is laid for the next fetch. -/

namespace Sys2Proof.Machine

/-- One step. -/
def step (s : State) : Host.Outcome State Fault Refusal :=
  match s.agenda with
  | i :: rest => exec i { s with agenda := rest }
  | [] =>
    match s.phase with
    | .issue =>
      let s := { s with phase := .engine }
      if !s.curReady then .next s
      else if s.stepDue then .next s.takeStep
      else issueUnit s
    | .engine => .next s.engineStep
    | .select => .next s.chooseNext

/-- `s` with an instruction laid where the next step fetches: words are 8 bytes, little-endian, and bit 0 is bit 0 of the first word (R132). An
instruction that only the armature core has is laid for an armature thread. -/
def State.withFetchWord (s : State) (nbits w : Nat) : State :=
  let v := w % 2 ^ nbits
  let gang := match decodeUnit .full (tableWord 0 v) (tableWord 1 v) with
    | .ok _ => true
    | .error _ => match decodeUnit .armature (tableWord 0 v) (tableWord 1 v) with
      | .ok _ => false
      | .error _ => true
  s.layFetch (!gang) v

end Sys2Proof.Machine
end

