-- ==== Sys2Proof/Safety.lean ====
section
/-! DEFINITION. The terms in which claims speak of a run: when an issue unit takes effect, what its operands give, what it writes and what it leaves
alone. -/

namespace Sys2Proof.Machine

/-! ### An issue unit of the current group -/

/-- The lanes on which a unit with a guard acts (R138). -/
def State.lanes (s : State) (g : Gd) : W32 := s.cur.mask s.curGrp &&& gdLanes g s.cur.regs

/-- Nothing holds the unit back: no open fault record unless it may issue under one (R400), no poisoned guard (R138), no STEP after it
(R394). -/
def State.Clear (s : State) (free : Bool) (g : Gd) : Prop :=
  (free = true ∨ s.cur.frs = [] ∨ s.cur.handler = true) ∧
  (s.cur.mask s.curGrp = 0 ∨ s.cur.regs.pPoison g.prd.toNat = false) ∧
  (s.cur.ctl.dbgctl.getLsbD 63 = false ∨ s.cur.handler = true)

/-- The unit is over and has changed nothing else: the group is `len` bytes on and stamped with this issue, the watch may be armed again, no lane
of the group keeps an aperture access as performed (R132, R376, R398). -/
def State.passed (s : State) (len : Nat) : State :=
  let ap := s.cur.apLeft s.curGrp
  let s := s.advance len
  let s := s.onCur fun t => t.regroup s.curGrp
  { s.onCur (fun t => { t with noWatch := false, apDone := ap }) with issued := s.issued + 1 }

/-- The unit has not issued: its group waits until it would go on (R375). -/
def State.heldBack (s : State) (long : Bool) : State :=
  s.onCur fun t => t.onGrp s.curGrp fun _ c => { c with wait := .again long }

/-- The same for a unit that has set its group's counters itself. -/
def State.passedSet (s : State) : State :=
  let ap := s.cur.apLeft s.curGrp
  let s := s.onCur fun t => t.onGrp s.curGrp fun _ c => { c with last := s.issued }
  let s := s.onCur fun t => t.regroup s.curGrp
  { s.onCur (fun t => { t with noWatch := false, apDone := ap }) with issued := s.issued + 1 }

/-! ### Sources -/

/-- The niches among sources. -/
def nichesOf (srcs : List (Opd × (BitVec 4 → Bool))) : List Nat := srcs.filterMap fun p => p.1.niche?

/-- The sources can be read, and reading them leaves `s1`: no niche number too large, nothing poisoned, every niche FULL (reading one acquires its
slot), every tag as asked or `tagchk` off (R92, R93, R96, R326, R327). Without a niche among them `s1` is `s`. -/
def State.Takes (s s1 : State) (srcs : List (Opd × (BitVec 4 → Bool))) (okAll : List (BitVec 4) → Bool := fun _ => true) : Prop :=
  (nichesOf srcs).any s.nicheBad = false ∧
  (srcs.any fun p => p.1.poisoned s.cur.regs) = false ∧
  (eachM readNiche (nichesOf srcs)).run s = .ok ((), s1) ∧
  (s1.cur.ctl.tagchk = false ∨
    (srcs.all (fun p => (p.1.tags s1.cur.regs).all p.2) && okAll (srcs.map fun p => p.1.tags s1.cur.regs).flatten) = true)

/-! ### Destinations -/

/-- Whether a destination is a vector register. -/
def Dst.hasV : Dst → Nat → Bool
  | .v n k, m => n ≤ m && m < n + k
  | _, _ => false
/-- Whether a destination is an s or x register. -/
def Dst.hasR : Dst → Nat → Bool
  | .r n, m => n == m
  | _, _ => false
/-- Whether a destination is a predicate. -/
def Dst.hasP : Dst → Nat → Bool
  | .p n, m => n == m
  | _, _ => false

/-- Whether two destinations share no register. -/
def Dst.apart : Dst → Dst → Bool
  | .v n k, .v m j => n + k ≤ m || m + j ≤ n
  | .r n, .r m => n != m
  | .p n, .p m => n != m
  | _, _ => true

/-- What an instruction writes to one destination: the tag of its `j`th register and the value in each lane. -/
structure Put where
  dst : Dst
  tag : Nat → BitVec 4
  val : Nat → Nat

/-- A destination after a write of lanes `act` (R97): the lanes take the value and the others keep theirs, the tag is set by R97's rule, an s or x
register takes the lowest lane's value and loses its poison, p0 ignores the write (R88). -/
def Regs.Wrote (r r' : Regs) (exist act : W32) (w : Put) : Prop :=
  match w.dst with
  | .v n k => ∀ j, j < k →
      (∀ l, l < 32 → r'.rdV (n + j) l = if laneIn act l then BitVec.ofNat 32 (w.val l / 2 ^ (32 * j)) else r.rdV (n + j) l) ∧
      r'.tag (n + j) = newTag (r.tag (n + j)) (w.tag j) act exist
  | .r n => r'.rdR n = BitVec.ofNat 64 (w.val (lowLane act)) ∧ r'.rpois.getLsbD n = false
  | .p n => (∀ l, l < 32 → r'.rdP n l = if n != 0 && laneIn act l then w.val l != 0 else r.rdP n l) ∧
      r'.pPoison n = if act = exist then false else r.pPoison n

/-- A destination poisoned (R96): PSN with no lane's bits changed, or the poison bit set; p0 is never poisoned (R88). -/
def Regs.Poisoned (r r' : Regs) (d : Dst) : Prop :=
  match d with
  | .v n k => ∀ j, j < k → (∀ l, l < 32 → r'.rdV (n + j) l = r.rdV (n + j) l) ∧ r'.tag (n + j) = tPSN
  | .r n => r'.rdR n = r.rdR n ∧ (n < 64 → r'.rpois.getLsbD n = true)
  | .p n => (∀ l, l < 32 → r'.rdP n l = r.rdP n l) ∧ (n < 16 → r'.pPoison n = (n != 0))

/-- Every register but the destinations is as it was: value, tag and poison; no tile and no banked register has changed. -/
def Regs.Kept (r r' : Regs) (ds : List Dst) : Prop :=
  (∀ n, (ds.any fun d => d.hasV n) = false → r'.tag n = r.tag n ∧ ∀ l, l < 32 → r'.rdV n l = r.rdV n l) ∧
  (∀ n, (ds.any fun d => d.hasR n) = false → r'.rdR n = r.rdR n ∧ r'.rpois.getLsbD n = r.rpois.getLsbD n) ∧
  (∀ n, (ds.any fun d => d.hasP n) = false → r'.p.get n = r.p.get n ∧ r'.ppois.getLsbD n = r.ppois.getLsbD n) ∧
  r'.tile = r.tile ∧ r'.ttag = r.ttag ∧ r'.hbank = r.hbank ∧ r'.hpois = r.hpois

/-- The lanes in which a result is computed: one value for s and x destinations, else each lane. -/
def computing (ds : List Dst) (act : W32) : List Nat :=
  if ds.all fun d => match d with | .r _ => true | _ => false then [lowLane act] else lanesOf act

/-- The whole effect of a register instruction from `s` to `t`: its destinations, the flags that its computing lanes raise (R112), every other
register kept, and nothing else changed but the passage to the next unit: no memory, control word, thread or engine. -/
def State.Did (s t : State) (len : Nat) (act : W32) (ws : List Put) (flags : Nat → BitVec 5 := fun _ => 0) : Prop :=
  (∀ w ∈ ws, s.cur.regs.Wrote t.cur.regs s.cur.exist act w) ∧
  s.cur.regs.Kept t.cur.regs (ws.map Put.dst) ∧
  t = { s.passed len with cur := { (s.passed len).cur with
    regs := t.cur.regs
    ctl := { s.cur.ctl with
      fflags := s.cur.ctl.fflags ||| (computing (ws.map Put.dst) act).foldl (fun f l => f ||| flags l) 0 } } }

/-- A destination reads the same in two register files: value, tag and poison. -/
def Dst.Same (d : Dst) (r r' : Regs) : Prop :=
  match d with
  | .v n k => ∀ j, j < k → r'.tag (n + j) = r.tag (n + j) ∧ ∀ l, l < 32 → r'.rdV (n + j) l = r.rdV (n + j) l
  | .r n => r'.rdR n = r.rdR n ∧ r'.rpois.getLsbD n = r.rpois.getLsbD n
  | .p n => (∀ l, l < 32 → r'.rdP n l = r.rdP n l) ∧ r'.pPoison n = r.pPoison n

/-- `i`, on sources that give `s1`, ends in the one next state whose whole effect is `ws` and `flags`. -/
def State.Gives (s s1 : State) (i : Instr) (len : Nat) (g : Gd) (ws : List Put) (flags : Nat → BitVec 5 := fun _ => 0) : Prop :=
  ∃ t, exec i s = .next t ∧ s1.Did t len (s.lanes g) ws flags

/-- The unit has its lanes, and nothing holds it back. -/
def State.Acts (s : State) (free : Bool) (g : Gd) : Prop := s.Clear free g ∧ s.lanes g ≠ 0

/-- The register instructions 0x20 to 0x61: bytes, guard and operation of each; none for every other instruction. -/
def aluForm (s : State) : Instr → Option (Nat × Gd × Op)
  | .iadd h dst sa sb it cy cp => some (srcLen sb, hdGd h, opAdd false (scalar h s) dst sa sb it cy cp)
  | .isub h dst sa sb it cy cp => some (srcLen sb, hdGd h, opAdd true (scalar h s) dst sa sb it cy cp)
  | .imul h dst sa sb it hw => some (srcLen sb, hdGd h, opImul (scalar h s) dst sa sb it hw)
  | .imad h dst sa sb sc it hw => some (srcLen sb, hdGd h, opImad (scalar h s) dst sa sb sc it hw)
  | .idiv h dst sa sb it rem => some (srcLen sb, hdGd h, opIdiv (scalar h s) dst sa sb it rem)
  | .imin h dst sa sb it => some (srcLen sb, hdGd h, opMinMax false (scalar h s) dst sa sb it)
  | .imax h dst sa sb it => some (srcLen sb, hdGd h, opMinMax true (scalar h s) dst sa sb it)
  | .iabs h dst sa it sat => some (8, hdGd h, opAbsNeg false (scalar h s) dst sa it sat)
  | .ineg h dst sa it sat => some (8, hdGd h, opAbsNeg true (scalar h s) dst sa it sat)
  | .icmp h dst sa sb it cmp => some (srcLen sb, hdGd h, opIcmp (scalar h s) dst sa sb it cmp)
  | .idp4 h dst sa sb sc pk sat => some (srcLen sb, hdGd h, opPacked true (scalar h s) dst sa sb sc pk sat)
  | .lea h dst sa sb w sh => some (srcLen sb, hdGd h, opLea (scalar h s) dst sa sb w sh)
  | .and h dst sa sb w => some (srcLen sb, hdGd h, opBit2 true (scalar h s) dst sa sb w (fun _ a b => a &&& b))
  | .or h dst sa sb w => some (srcLen sb, hdGd h, opBit2 true (scalar h s) dst sa sb w (fun _ a b => a ||| b))
  | .xor h dst sa sb w => some (srcLen sb, hdGd h, opBit2 true (scalar h s) dst sa sb w (fun _ a b => a ^^^ b))
  | .not h dst sa w => some (8, hdGd h, opBit1 true (scalar h s) dst sa w (fun n a => 2 ^ n - 1 - a))
  | .shl h dst sa sb w => some (srcLen sb, hdGd h, opBit2 false (scalar h s) dst sa sb w shlN)
  | .shr h dst sa sb w a => some (srcLen sb, hdGd h, opBit2 false (scalar h s) dst sa sb w (shrN a))
  | .rot h dst sa sb w => some (srcLen sb, hdGd h, opBit2 false (scalar h s) dst sa sb w rotN)
  | .bfe h dst sa sb sc w sx => some (srcLen sb, hdGd h, opBfe (scalar h s) dst sa sb sc w sx)
  | .bfi h dst sa sb sc w => some (srcLen sb, hdGd h, opBfi (scalar h s) dst sa sb sc w)
  | .bfrev h dst sa w => some (8, hdGd h, opBit1 false (scalar h s) dst sa w (fun n a => revN a n))
  | .bcnt h dst sa w bop => some (8, hdGd h, opBit1 false (scalar h s) dst sa w (bcntN bop))
  | .sad h dst sa sb sc pk sat => some (srcLen sb, hdGd h, opPacked false (scalar h s) dst sa sb sc pk sat)
  | .mov h dst sb w => some (srcLen sb, hdGd h, opMov (scalar h s) dst sb w)
  | .movi h dst imm mt => some (immLen imm, hdGd h, opMovi (scalar h s) dst imm mt)
  | .sel g dst sa sb sc => some (srcLen sb, g, opSel dst sa sb sc)
  | .movx g dst sa tag => some (8, g, opMovx dst sa tag)
  | .plog g dst sa sb lut => some (8, g, opPlog dst sa sb lut)
  | .pmov g dst sa dir => some (8, g, opPmov dst sa dir)
  | .sreg g dst sel => some (8, g, opSreg s.cur dst sel)
  | .fadd h dst sa sb bf rnd => some (srcLen sb, hdGd h, opFp2 (scalar h s) dst sa sb bf (addF (rmOf s rnd)))
  | .fsub h dst sa sb bf rnd => some (srcLen sb, hdGd h, opFp2 (scalar h s) dst sa sb bf (subF (rmOf s rnd)))
  | .fmul h dst sa sb bf rnd => some (srcLen sb, hdGd h, opFp2 (scalar h s) dst sa sb bf (mulF (rmOf s rnd)))
  | .fdiv h dst sa sb bf rnd => some (srcLen sb, hdGd h, opFp2 (scalar h s) dst sa sb bf (divF (rmOf s rnd)))
  | .fma h dst sa sb sc bf rnd => some (srcLen sb, hdGd h, opFma (scalar h s) dst sa sb sc bf (rmOf s rnd))
  | .fmin h dst sa sb bf => some (srcLen sb, hdGd h, opFp2 (scalar h s) dst sa sb bf (fun _ => minmaxF false))
  | .fmax h dst sa sb bf => some (srcLen sb, hdGd h, opFp2 (scalar h s) dst sa sb bf (fun _ => minmaxF true))
  | .fcmp h dst sa sb bf cmp => some (srcLen sb, hdGd h, opFcmp (scalar h s) dst sa sb bf cmp)
  | .frcp h dst sa bf rnd => some (8, hdGd h, opFp1 (scalar h s) dst sa bf (rcpF (rmOf s rnd)))
  | .fsqrt h dst sa bf rnd => some (8, hdGd h, opFp1 (scalar h s) dst sa bf (sqrtF (rmOf s rnd)))
  | .frnd h dst sa bf rnd => some (8, hdGd h, opFp1 (scalar h s) dst sa bf (rndF (rmOf s rnd)))
  | .ffrac h dst sa bf rnd => some (8, hdGd h, opFp1 (scalar h s) dst sa bf (fracF (rmOf s rnd)))
  | .frsq h dst sa bf => some (8, hdGd h, opFp1 (scalar h s) dst sa bf (trans frsqF))
  | .fexp2 h dst sa bf => some (8, hdGd h, opFp1 (scalar h s) dst sa bf (trans fexp2F))
  | .flog2 h dst sa bf => some (8, hdGd h, opFp1 (scalar h s) dst sa bf (trans flog2F))
  | .fsin h dst sa bf => some (8, hdGd h, opFp1 (scalar h s) dst sa bf (trans fsinF))
  | .fcos h dst sa bf => some (8, hdGd h, opFp1 (scalar h s) dst sa bf (trans fcosF))
  | .fclass h dst sa bf => some (8, hdGd h, opFclass (scalar h s) dst sa bf)
  | .fscale h dst sa sb bf rnd => some (srcLen sb, hdGd h, opFscale (scalar h s) dst sa sb bf (rmOf s rnd))
  | .fdot2 h dst sa sb sc rnd => some (srcLen sb, hdGd h, opFdot2 (scalar h s) dst sa sb sc (rmOf s rnd))
  | .cvt h dst sa cv rnd => some (8, hdGd h, opCvt (scalar h s) dst sa cv (rmOf s rnd))
  | .pack h dst sa sb pk rnd => some (srcLen sb, hdGd h, opPack (scalar h s) dst sa sb pk (rmOf s rnd))
  | .unpk h dst sa uk el => some (8, hdGd h, opUnpk (scalar h s) dst sa uk el)
  | .vote g dst sa vop => some (8, g, opVote dst sa vop)
  | .shfl g dst sa sb segl sop => some (srcLen sb, g, opShfl s.cur.nlanes dst sa sb segl sop)
  | .prmt g dst sa sb sc => some (srcLen sb, g, opPrmt dst sa sb sc)
  | .redg g dst sa rop rty rnd => some (8, g, opRedg dst sa rop rty (rmOf s rnd))
  | .scan g dst sa rop rty rnd excl => some (8, g, opScan dst sa rop rty (rmOf s rnd) excl)
  | .matchv g dst sa mop => some (8, g, opMatch dst sa mop)
  | _ => none

/-! ### Pair words (R144, R146) -/

/-- The destination of a slot: none for `pnop`, a predicate for a compare, else the register that PDST names. -/
def slotDst (hi : Bool) (x : Slot) : List Dst :=
  match x.op with
  | .pnop => []
  | .icmpI => [.p x.a.k.toNat]
  | .icmpN => [.p x.a.k.toNat]
  | .fcmpF => [.p x.a.k.toNat]
  | _ => [.v (slotReg hi x.a.d).toNat 1]

/-- The full-form equivalent of a slot, as the table of R146 gives it. -/
def slotForm (hi : Bool) (x : Slot) : Instr :=
  let h : Hd := ⟨x.a.prd.setWidth 4, false, false⟩
  let g : Gd := ⟨x.a.prd.setWidth 4, false⟩
  let d := slotReg hi x.a.d
  let s := slotReg hi x.a.s
  let n : Src := .imm (x.a.m.setWidth 20)
  let k := BitVec.setWidth 10 x.a.k
  let r := x.a.rnd
  match x.op with
  | .pnop => .nop g
  | .iadd => .iadd h d d (.reg s) 0 0 0
  | .isub => .isub h d d (.reg s) 0 0 0
  | .imul => .imul h d d (.reg s) 0 0
  | .iminI => .imin h d d (.reg s) 0
  | .imaxI => .imax h d d (.reg s) 0
  | .iminN => .imin h d d (.reg s) 1
  | .imaxN => .imax h d d (.reg s) 1
  | .ineg => .ineg h d s 0 false
  | .iabs => .iabs h d s 0 false
  | .and => .and h d d (.reg s) 0
  | .or => .or h d d (.reg s) 0
  | .xor => .xor h d d (.reg s) 0
  | .not => .not h d s 0
  | .shlImm => .shl h d s n 0
  | .shrLImm => .shr h d s n 0 false
  | .shrAImm => .shr h d s n 0 true
  | .rotImm => .rot h d s n 0
  | .shl => .shl h d d (.reg s) 0
  | .shrL => .shr h d d (.reg s) 0 false
  | .shrA => .shr h d d (.reg s) 0 true
  | .popc => .bcnt h d s 0 0
  | .clz => .bcnt h d s 0 1
  | .ctz => .bcnt h d s 0 2
  | .bfrev => .bfrev h d s 0
  | .mov => .mov h d (.reg s) 0
  | .movi => .movi h d (.i20 ((x.a.m ++ x.a.s).signExtend 20)) 1
  | .movx => .movx g d s (x.a.m.extractLsb' 0 4)
  | .faddF => .fadd h d d (.reg s) false r
  | .fsubF => .fsub h d d (.reg s) false r
  | .fmulF => .fmul h d d (.reg s) false r
  | .fminF => .fmin h d d (.reg s) false
  | .fmaxF => .fmax h d d (.reg s) false
  | .faddB => .fadd h d d (.reg s) true r
  | .fsubB => .fsub h d d (.reg s) true r
  | .fmulB => .fmul h d d (.reg s) true r
  | .fminB => .fmin h d d (.reg s) true
  | .fmaxB => .fmax h d d (.reg s) true
  | .pack => .pack h d d (.reg s) 0 r
  | .unpk => .unpk h d s 0 (BitVec.ofNat 2 (x.a.m.toNat / 8))
  | .cvtFI => .cvt h d s 0 r
  | .cvtFN => .cvt h d s 1 r
  | .cvtIF => .cvt h d s 2 r
  | .cvtNF => .cvt h d s 3 r
  | .icmpI => .icmp h k d (.reg s) 0 r
  | .icmpN => .icmp h k d (.reg s) 1 r
  | .fcmpF => .fcmp h k d (.reg s) false r

/-- A slot can take effect: it does nothing, has no active lane or a poisoned source, or its sources can be read and its tag is assigned (R92,
R97, R145). -/
def State.SlotRuns (s : State) (hi : Bool) (x : Slot) : Prop :=
  x.op = .pnop ∨ s.lanes (slotGd x) = 0 ∨ ∃ len g o, aluForm s (slotForm hi x) = some (len, g, o) ∧
    (o.poisoned s.cur.regs = true ∨ (s.Takes s o.srcs o.okAll ∧ o.late = none))

/-! ### Slices (R315, R316) -/

/-- A slice after a branch of its lanes `tk` to one target (R316, R332): all fall through, all go, or the fall-through goes on and the taking lanes
are left in a PEND entry. -/
def Slice.toOne (c : Slice) (tk : BitVec 4) (tgt fall : Word) : Slice :=
  if tk = 0 ∨ tgt = fall then { c with pc := fall, wait := .none }
  else if tk = c.active then { c with pc := tgt, wait := .none }
  else { c with pc := fall, active := c.active &&& ~~~tk, stack := ⟨3, tk, tokTarget tgt⟩ :: c.stack, wait := .none }

/-- A slice that resumes at its first entry that has lanes, which it pops with every entry above; it stays as it is without one. -/
def Slice.resumed (c : Slice) : Slice :=
  match c.stack.dropWhile fun k => k.mask == 0 with
  | [] => c
  | k :: ks => { c with pc := k.resume, active := k.mask, stack := ks }

/-- A slice that has lost lanes of its active mask goes on at `fall`, or resumes from its stack with none left (R316). -/
def Slice.without (c : Slice) (m : BitVec 4) (st : List Token) (fall : Word) : Slice :=
  let c : Slice := { c with pc := fall, wait := .none, active := c.active &&& ~~~m, stack := st }
  if c.active = 0 ∧ c.live ≠ 0 then c.resumed else c

/-- A slice can resume, if it has to. -/
def Slice.canResume (c : Slice) (m : BitVec 4) (st : List Token) : Prop :=
  c.active &&& ~~~m = 0 → c.live ≠ 0 → ∃ k ∈ st, k.mask ≠ 0

/-- The entries above the nearest one of a kind lose lanes; that entry and what lies below stay (R316). -/
def Slice.above (c : Slice) (kind : BitVec 2) (m : BitVec 4) : List Token :=
  let i := c.stack.findIdx fun k => k.kind == kind
  (c.stack.take i).map (fun k => { k with mask := k.mask &&& ~~~m }) ++ c.stack.drop i

/-- The slices of the current group, numbered, all have a property. -/
def State.eachSlice (s : State) (P : Nat → Slice → Prop) : Prop :=
  ∀ k c, s.cur.slices[k]? = some c → c.inGrp s.curGrp = true → P k c

/-- The current group's slices changed, each by its number. -/
def State.onSlices (s : State) (f : Nat → Slice → Slice) : State := s.onCur fun t => t.onGrp s.curGrp f

end Sys2Proof.Machine
end

