-- ==== Sys2Proof/WellFormed.lean ====
section
/-! DEFINITION. Well-formed instructions: those that some issue unit stands for, by the checks of R151 on the instruction itself. A hardware
step or an event of the outside has no words and is none. -/

namespace Sys2Proof

/-- Some issue unit stands for it: a full word, or a pair word. -/
def Instr.isWord (i : Instr) : Bool := (pairSlots i).isSome || (encF i).isSome

/-- The checks of a pair word (R143 to R146): codes, unused bits and registers, no predicate written twice, a gang. -/
def pairWf (c : DCtx) (a b : Slot) : Bool :=
  !c.arm && a.codesOk && b.codesOk && a.encOk c.allot false && b.encOk c.allot true && !pairClash a b

/-- The checks of a full-form instruction: available on the core, codes, field values and register numbers, tiles. -/
def fullWf (c : DCtx) (i : Instr) : Bool := (encF i).isSome && avail c.arm i && codesOk c i && encOk c i && tilesOk c i

/-- Well-formed for a core and an allotment. -/
def Instr.wf (c : DCtx) (i : Instr) : Bool :=
  match pairSlots i with
  | some (a, b) => pairWf c a b
  | none => fullWf c i

/-- A context that the machine can have: an armature thread, or a gang with a legal allotment, tile count and lane count (R84, R89, R312). -/
def DCtx.ok (c : DCtx) : Bool :=
  if c.arm then c == .armature
  else decide (32 ≤ c.allot) && decide (c.allot ≤ 1024) && c.allot % 32 == 0 && decide (c.tiles ≤ 64) && decide (1 ≤ c.lanes)
    && decide (c.lanes ≤ 32) && c.lanes % 4 == 0

end Sys2Proof
end

