-- ==== Sys2Proof/Certificates/Slice0/Obligations.lean ====
section
/-! DEFINITION. What is claimed of the model, one statement for each claim. -/

open Sys2Proof Sys2Proof.Machine

/-! ### Register instructions -/

/-- R201: `iadd` and `isub` with their four carry forms. The predicate is written under `.co` and `.cio`; for `isub` b is complemented and the
carry in is 1, so that a carry out of 1 means no borrow. -/
def Obligations.IntegerSums : Prop :=
  ∀ (sub : Bool) (h : Hd) (dst sa : BitVec 10) (sb : Src) (it cy : BitVec 2) (cp : BitVec 3) (s s1 : State),
    let w := itW it
    let A := regOpd (scalar h s) sa
    let B := srcOpd (scalar h s) (.int w) 1 sb
    let a := fun l => A.val s1 l % 2 ^ w
    let b := fun l => if sub then 2 ^ w - 1 - B.val s1 l % 2 ^ w else B.val s1 l % 2 ^ w
    let c := fun l => if cy = 2 then (if s1.cur.regs.rdP cp.toNat l then 1 else 0) else if sub then 1 else 0
    let r := fun l => a l + b l + c l
    let x := fun l => readI (itS it) (A.val s1 l) w
    let y := fun l => readI (itS it) (B.val s1 l) w
    s.Acts true (hdGd h) →
    s.Takes s1 ([(A, isTag tI32), (B, isTag tI32)] ++ if cy = 2 then [(.p cp.toNat, anyTag)] else []) →
    s.Gives s1 (if sub then .isub h dst sa sb it cy cp else .iadd h dst sa sb it cy cp) (srcLen sb) (hdGd h)
      (⟨regDst (scalar h s) dst, fun _ => tI32, fun l =>
          if cy = 3 then truncI (clampI (rangeI (itS it) w).1 (rangeI (itS it) w).2 (if sub then x l - y l else x l + y l)) w
          else r l % 2 ^ w⟩ ::
        if cy = 1 ∨ cy = 2 then [⟨.p cp.toNat, fun _ => tI32, fun l => if 2 ^ w ≤ r l then 1 else 0⟩] else [])

/-- R200: products, low, high and wide, and multiply-add. A wide product reads two 32-bit values. -/
def Obligations.IntegerProducts : Prop :=
  ∀ (h : Hd) (dst sa : BitVec 10) (sb : Src) (sc : BitVec 10) (it hw : BitVec 2) (s s1 : State),
    let w := itW it
    let k := if hw = 2 then 2 else 1
    let A := regOpd (scalar h s) sa
    let B := srcOpd (scalar h s) (.int w) 1 sb
    let C := regOpd (scalar h s) sc k
    let rd := fun (o : Opd) l => readI (itS it) (o.val s1 l) w
    let wide := fun l => readI (itS it) (A.val s1 l) 32 * readI (itS it) (B.val s1 l) 32
    s.Acts true (hdGd h) → (hw = 2 → w = 32) →
    (s.Takes s1 [(A, isTag tI32), (B, isTag tI32)] →
      s.Gives s1 (.imul h dst sa sb it hw) (srcLen sb) (hdGd h) [⟨regDst (scalar h s) dst k, fun _ => tI32, fun l =>
        if hw = 2 then truncI (wide l) 64
        else if hw = 0 then truncI (rd A l * rd B l) w
        else truncI (rd A l * rd B l / (2 ^ w : Nat)) w⟩]) ∧
    (s.Takes s1 [(A, isTag tI32), (B, isTag tI32), (C, isTag tI32)] →
      s.Gives s1 (.imad h dst sa sb sc it hw) (srcLen sb) (hdGd h) [⟨regDst (scalar h s) dst k, fun _ => tI32, fun l =>
        if hw = 2 then truncI (wide l + C.val s1 l) 64
        else if hw = 0 then truncI (rd A l * rd B l + rd C l) w
        else truncI ((rd A l * rd B l + rd C l) / (2 ^ w : Nat)) w⟩])

/-- R202: `idiv` truncates toward zero; a divisor of zero and the one overflowing quotient give the values of the rule; no case traps or raises a
flag. -/
def Obligations.IntegerDivision : Prop :=
  ∀ (h : Hd) (dst sa : BitVec 10) (sb : Src) (it : BitVec 2) (rem : Bool) (s s1 : State),
    let w := itW it
    let A := regOpd (scalar h s) sa
    let B := srcOpd (scalar h s) (.int w) 1 sb
    let x := fun l => readI (itS it) (A.val s1 l) w
    let y := fun l => readI (itS it) (B.val s1 l) w
    s.Acts true (hdGd h) → s.Takes s1 [(A, isTag tI32), (B, isTag tI32)] →
    s.Gives s1 (.idiv h dst sa sb it rem) (srcLen sb) (hdGd h) [⟨regDst (scalar h s) dst, fun _ => tI32, fun l =>
      if y l = 0 then (if rem then A.val s1 l % 2 ^ w else 2 ^ w - 1)
      else if itS it = true ∧ x l = -(2 ^ (w - 1) : Nat) ∧ y l = -1 then (if rem then 0 else 2 ^ (w - 1))
      else truncI (if rem then (x l).tmod (y l) else (x l).tdiv (y l)) w⟩]

/-- R200: minimum, maximum, absolute value, negation and comparison, by the signedness that IT gives. -/
def Obligations.IntegerOrder : Prop :=
  ∀ (h : Hd) (dst sa : BitVec 10) (sb : Src) (it : BitVec 2) (sat : Bool) (cmp : BitVec 3) (s s1 : State),
    let w := itW it
    let A := regOpd (scalar h s) sa
    let B := srcOpd (scalar h s) (.int w) 1 sb
    let x := fun l => readI (itS it) (A.val s1 l) w
    let y := fun l => readI (itS it) (B.val s1 l) w
    let z := fun l => readI true (A.val s1 l) w
    let top : Int := (2 ^ (w - 1) : Nat) - 1
    let D := regDst (scalar h s) dst
    let P : Dst := if scalar h s then .r dst.toNat else .p dst.toNat
    s.Acts true (hdGd h) →
    (s.Takes s1 [(A, isTag tI32), (B, isTag tI32)] →
      s.Gives s1 (.imin h dst sa sb it) (srcLen sb) (hdGd h) [⟨D, fun _ => tI32, fun l => truncI (min (x l) (y l)) w⟩] ∧
      s.Gives s1 (.imax h dst sa sb it) (srcLen sb) (hdGd h) [⟨D, fun _ => tI32, fun l => truncI (max (x l) (y l)) w⟩] ∧
      s.Gives s1 (.icmp h dst sa sb it cmp) (srcLen sb) (hdGd h) [⟨P, fun _ => tI32, fun l =>
        if (match cmp.toNat with
          | 0 => decide (x l = y l)
          | 1 => decide (x l ≠ y l)
          | 2 => decide (x l < y l)
          | 3 => decide (x l ≤ y l)
          | 4 => decide (x l > y l)
          | _ => decide (x l ≥ y l)) then 1 else 0⟩]) ∧
    (s.Takes s1 [(A, isTag tI32)] →
      s.Gives s1 (.iabs h dst sa it sat) 8 (hdGd h) [⟨D, fun _ => tI32, fun l => truncI (if sat then min |z l| top else |z l|) w⟩] ∧
      s.Gives s1 (.ineg h dst sa it sat) 8 (hdGd h) [⟨D, fun _ => tI32, fun l => truncI (if sat then min (-z l) top else -z l) w⟩])

/-- R200, R94: bitwise logic, with the result tag of its class: NIL if every source is NIL, the one tag that the others share, I32 if they
differ. -/
def Obligations.BitwiseLogic : Prop :=
  ∀ (h : Hd) (dst sa : BitVec 10) (sb : Src) (wf : BitVec 2) (s s1 : State),
    let w := wW wf
    let A := regOpd (scalar h s) sa
    let B := srcOpd (scalar h s) (.int w) 1 sb
    let a := fun l => BitVec.ofNat w (A.val s1 l)
    let b := fun l => BitVec.ofNat w (B.val s1 l)
    let D := regDst (scalar h s) dst
    let shared := fun (ts : List (BitVec 4)) (_ : Nat) => match ts.find? (· != tNIL) with
      | none => tNIL
      | some u => if ts.all fun t => t == tNIL || t == u then u else tI32
    let tag2 := shared (A.tags s1.cur.regs ++ B.tags s1.cur.regs)
    s.Acts true (hdGd h) →
    (s.Takes s1 [(A, anyTag), (B, anyTag)] →
      s.Gives s1 (.and h dst sa sb wf) (srcLen sb) (hdGd h) [⟨D, tag2, fun l => (a l &&& b l).toNat⟩] ∧
      s.Gives s1 (.or h dst sa sb wf) (srcLen sb) (hdGd h) [⟨D, tag2, fun l => (a l ||| b l).toNat⟩] ∧
      s.Gives s1 (.xor h dst sa sb wf) (srcLen sb) (hdGd h) [⟨D, tag2, fun l => (a l ^^^ b l).toNat⟩]) ∧
    (s.Takes s1 [(A, anyTag)] →
      s.Gives s1 (.not h dst sa wf) 8 (hdGd h) [⟨D, shared (A.tags s1.cur.regs), fun l => (~~~(a l)).toNat⟩])

/-- R200: shifts and rotations by b modulo the width, and `lea`. -/
def Obligations.ShiftsAndAddresses : Prop :=
  ∀ (h : Hd) (dst sa : BitVec 10) (sb : Src) (wf : BitVec 2) (ar : Bool) (sh : BitVec 5) (s s1 : State),
    let w := wW wf
    let A := regOpd (scalar h s) sa
    let B := srcOpd (scalar h s) (.int w) 1 sb
    let a := fun l => BitVec.ofNat w (A.val s1 l)
    let n := fun l => B.val s1 l % w
    let D := regDst (scalar h s) dst
    s.Acts true (hdGd h) →
    (s.Takes s1 [(A, anyTag), (B, anyTag)] →
      s.Gives s1 (.shl h dst sa sb wf) (srcLen sb) (hdGd h) [⟨D, fun _ => tI32, fun l => (a l <<< n l).toNat⟩] ∧
      s.Gives s1 (.shr h dst sa sb wf ar) (srcLen sb) (hdGd h)
        [⟨D, fun _ => tI32, fun l => (if ar then (a l).sshiftRight (n l) else a l >>> n l).toNat⟩] ∧
      s.Gives s1 (.rot h dst sa sb wf) (srcLen sb) (hdGd h) [⟨D, fun _ => tI32, fun l => ((a l).rotateLeft (n l)).toNat⟩]) ∧
    (s.Takes s1 [(A, isTag tI32), (B, isTag tI32)] →
      s.Gives s1 (.lea h dst sa sb wf sh) (srcLen sb) (hdGd h)
        [⟨D, fun _ => tI32, fun l => (a l + BitVec.ofNat w (B.val s1 l) <<< sh.toNat).toNat⟩])

/-- R200, R203: field extraction and insertion, bit reversal and bit counts. Position and length come from b[7:0] and c[7:0], or from the
immediate. -/
def Obligations.BitFields : Prop :=
  ∀ (h : Hd) (dst sa : BitVec 10) (sb : Src) (sc : BitVec 10) (wf bop : BitVec 2) (sx : Bool) (s s1 : State),
    let w := wW wf
    let A := regOpd (scalar h s) sa
    let D := regDst (scalar h s) dst
    let X := regOpd (scalar h s) dst
    let F : List (Opd × (BitVec 4 → Bool)) := match sb with
      | .imm v => [(.const (v.toNat % 256), anyTag), (.const (v.toNat / 256 % 256), anyTag)]
      | .wide v => [(.const (v.toNat % 256), anyTag), (.const (v.toNat / 256 % 256), anyTag)]
      | x => [(srcOpd (scalar h s) (.int 32) 1 x, anyTag), (regOpd (scalar h s) sc, anyTag)]
    let fld := fun i l => ((F.map fun p => p.1.val s1 l).getD i 0) % 256
    let pos := fun l => min (fld 0 l) w
    let len := fun l => min (fld 1 l) (w - pos l)
    let a := fun l => A.val s1 l % 2 ^ w
    let f := fun l => a l / 2 ^ pos l % 2 ^ len l
    s.Acts true (hdGd h) →
    (s.Takes s1 ((A, anyTag) :: F) →
      s.Gives s1 (.bfe h dst sa sb sc wf sx) (srcLen sb) (hdGd h) [⟨D, fun _ => tI32, fun l =>
        if sx = true ∧ 0 < len l ∧ 2 ^ (len l - 1) ≤ f l then 2 ^ w - 2 ^ len l + f l else f l⟩]) ∧
    (s.Takes s1 ((X, anyTag) :: (A, anyTag) :: F) →
      s.Gives s1 (.bfi h dst sa sb sc wf) (srcLen sb) (hdGd h) [⟨D, fun _ => tI32, fun l =>
        let d := X.val s1 l % 2 ^ w
        d % 2 ^ pos l + a l % 2 ^ len l * 2 ^ pos l + d / 2 ^ (pos l + len l) * 2 ^ (pos l + len l)⟩]) ∧
    (s.Takes s1 [(A, anyTag)] →
      s.Gives s1 (.bfrev h dst sa wf) 8 (hdGd h)
        [⟨D, fun _ => tI32, fun l => ((BitVec.ofNat w (A.val s1 l)).reverse).toNat⟩] ∧
      s.Gives s1 (.bcnt h dst sa wf bop) 8 (hdGd h) [⟨D, fun _ => tI32, fun l =>
        let x := BitVec.ofNat w (A.val s1 l)
        if bop = 0 then (List.range w).countP x.getLsbD
        else if bop = 1 then (List.range w).findIdx fun i => x.getMsbD i
        else (List.range w).findIdx fun i => x.getLsbD i⟩])

/-- R204: `idp4` and `sad` over four bytes or two halfwords, signed or not, saturated or cut to 32 bits. -/
def Obligations.PackedSums : Prop :=
  ∀ (h : Hd) (dst sa : BitVec 10) (sb : Src) (sc : BitVec 10) (pk : BitVec 2) (sat : Bool) (s s1 : State),
    let signed := decide (pk = 0 ∨ pk = 2)
    let bits := if pk = 0 ∨ pk = 1 then 8 else 16
    let tag := if pk = 0 ∨ pk = 1 then tI8 else tI16
    let A := regOpd (scalar h s) sa
    let B := srcOpd (scalar h s) (.int 32) 1 sb
    let C := regOpd (scalar h s) sc
    let e := fun (k x : Nat) => readI signed (x / 2 ^ (bits * k)) bits
    let sum := fun (g : Int → Int → Int) l => readI signed (C.val s1 l) 32 +
      ((List.range (32 / bits)).map fun k => g (e k (A.val s1 l)) (e k (B.val s1 l))).sum
    let fin := fun (r : Int) => truncI (if sat then clampI (rangeI signed 32).1 (rangeI signed 32).2 r else r) 32
    s.Acts true (hdGd h) → s.Takes s1 [(A, isTag tag), (B, isTag tag), (C, isTag tI32)] →
    s.Gives s1 (.idp4 h dst sa sb sc pk sat) (srcLen sb) (hdGd h)
      [⟨regDst (scalar h s) dst, fun _ => tI32, fun l => fin (sum (fun x y => x * y) l)⟩] ∧
    s.Gives s1 (.sad h dst sa sb sc pk sat) (srcLen sb) (hdGd h)
      [⟨regDst (scalar h s) dst, fun _ => tI32, fun l => fin (sum (fun x y => |x - y|) l)⟩]

/-- R205, R206: `mov` copies a value with a vector source's tags, any other source with NIL; `movi` writes its immediate with its type's tag;
`movx` sets the tag it names, and an unassigned tag traps ILL_TAG with nothing written (R92); `sel` chooses lane by lane. -/
def Obligations.Moves : Prop :=
  ∀ (h : Hd) (g : Gd) (dst sa : BitVec 10) (sb : Src) (sc : BitVec 10) (wf : BitVec 2) (imm : Imm) (mt : BitVec 3) (tag : BitVec 4) (s s1 : State),
    let k := if wf = 2 then 2 else 1
    let M := srcOpd (scalar h s) (.int (wW wf)) k sb
    let A := regOpd false sa
    let B := srcOpd false (.int 32) 1 sb
    let P : Opd := .p (sc.toNat % 16)
    (s.Acts true (hdGd h) → s.Takes s1 [(M, anyTag)] →
      s.Gives s1 (.mov h dst sb wf) (srcLen sb) (hdGd h) [⟨regDst (scalar h s) dst k,
        fun i => (M.tags s1.cur.regs).getD i tNIL, fun l => M.val s1 l % 2 ^ wW wf⟩]) ∧
    (s.Acts true (hdGd h) →
      s.Gives s (.movi h dst imm mt) (immLen imm) (hdGd h) [match mt.toNat with
        | 1 => ⟨regDst (scalar h s) dst, fun _ => tI32, fun _ => immVal (.int 32) imm⟩
        | 2 => ⟨regDst (scalar h s) dst, fun _ => tFP32, fun _ => immVal .fp imm⟩
        | 3 => ⟨regDst (scalar h s) dst, fun _ => tBF, fun _ => immVal .bf imm⟩
        | 4 => ⟨regDst (scalar h s) dst, fun _ => tI16, fun _ => immVal (.int 32) imm⟩
        | 5 => ⟨regDst (scalar h s) dst, fun _ => tI8, fun _ => immVal (.int 32) imm⟩
        | 6 => ⟨regDst (scalar h s) dst 2, fun _ => tNIL, fun _ => immVal (.int 64) imm⟩
        | _ => ⟨regDst (scalar h s) dst, fun _ => tNIL, fun _ => immVal (.int 32) imm⟩]) ∧
    (s.Acts true g → s.Takes s1 [(A, anyTag)] →
      if 6 ≤ tag.toNat ∧ tag.toNat ≤ 14 then
        exec (.movx g dst sa tag) s = .next (s.stopped (.trap 0x0003 0 0) (s.lanes g) (s.cur.pcOf s.curGrp) (s.cur.gslices s.curGrp))
      else s.Gives s1 (.movx g dst sa tag) 8 g [⟨regDst false dst, fun _ => tag, fun l => A.val s1 l⟩]) ∧
    (s.Acts true g →
      s.Takes s1 [(A, anyTag), (B, anyTag), (P, anyTag)] (fun ts => match ts.filter (· != tNIL) with
        | [t, u] => t == u
        | _ => true) →
      s.Gives s1 (.sel g dst sa sb sc) (srcLen sb) g [⟨regDst false dst,
        fun _ => ((A.tags s1.cur.regs ++ B.tags s1.cur.regs).find? (· != tNIL)).getD tNIL,
        fun l => if s1.cur.regs.rdP (sc.toNat % 16) l then A.val s1 l else B.val s1 l % 2 ^ 32⟩])

/-- R207, R208: predicate logic by a table of four bits, the four directions of `pmov`, and the identities of `sreg`. -/
def Obligations.PredicatesAndIdentities : Prop :=
  ∀ (g : Gd) (dst sa sb : BitVec 10) (lut sel : BitVec 4) (s s1 : State),
    let p := fun (n : BitVec 10) l => s.cur.regs.rdP n.toNat l
    let act := s.lanes g
    s.Acts true g →
    (s.Takes s1 [(.p sa.toNat, anyTag), (.p sb.toNat, anyTag)] →
      s.Gives s (.plog g dst sa sb lut) 8 g [⟨.p dst.toNat, fun _ => tNIL, fun l =>
        if lut.getLsbD ((if p sa l then 2 else 0) + (if p sb l then 1 else 0)) then 1 else 0⟩]) ∧
    (s.cur.regs.pPoison sa.toNat = false →
      s.Gives s (.pmov g dst sa 0) 8 g [⟨.v dst.toNat 1, fun _ => tI32, fun l => if p sa l then 1 else 0⟩] ∧
      s.Gives s (.pmov g dst sa 2) 8 g [⟨.r dst.toNat, fun _ => tNIL, fun _ => (maskOf fun l => laneIn act l && p sa l).toNat⟩]) ∧
    (s.cur.regs.tag sa.toNat ≠ tPSN →
      s.Gives s (.pmov g dst sa 1) 8 g [⟨.p dst.toNat, fun _ => tNIL, fun l => if s.cur.regs.rdV sa.toNat l = 0 then 0 else 1⟩]) ∧
    (s.cur.regs.rpois.getLsbD sa.toNat = false →
      s.Gives s (.pmov g dst sa 3) 8 g [⟨.p dst.toNat, fun _ => tNIL, fun l => if (s.cur.regs.rdR sa.toNat).getLsbD l then 1 else 0⟩]) ∧
    s.Gives s (.sreg g dst sel) 8 g [⟨.v dst.toNat 1, fun _ => tI32, fun l => match sel.toNat with
      | 0 => l
      | 1 => l / 4
      | 2 => l % 4
      | 3 => 2 ^ l - 1
      | 4 => 2 ^ (l + 1) - 1
      | 5 => act.toNat
      | 6 => s.cur.nlanes
      | 7 => s.cur.loc.part
      | 8 => s.cur.loc.cl * 4 + s.cur.loc.core
      | 9 => s.cur.loc.cl
      | _ => s.cur.loc.die⟩]

/-- R210: the rounded arithmetic, by FT on one FP32 value or two BF16 elements, with the flags that each lane raises (R112). -/
def Obligations.FloatArithmetic : Prop :=
  ∀ (h : Hd) (dst sa : BitVec 10) (sb : Src) (sc : BitVec 10) (bf : Bool) (rnd : BitVec 3) (s s1 : State),
    let rm := rmOf s rnd
    let A := regOpd (scalar h s) sa
    let B := srcOpd (scalar h s) (ftCls bf) 1 sb
    let C := regOpd (scalar h s) sc
    let gives := fun i (f : Nat → W32 × Flags) => s.Gives s1 i (srcLen sb) (hdGd h)
      [⟨regDst (scalar h s) dst, fun _ => ftTag bf, fun l => (f l).1.toNat⟩] fun l => (f l).2
    s.Acts true (hdGd h) →
    (s.Takes s1 [(A, isTag (ftTag bf)), (B, isTag (ftTag bf))] →
      gives (.fadd h dst sa sb bf rnd) (fun l => lift2 bf (addF rm) (A.val s1 l) (B.val s1 l)) ∧
      gives (.fsub h dst sa sb bf rnd) (fun l => lift2 bf (subF rm) (A.val s1 l) (B.val s1 l)) ∧
      gives (.fmul h dst sa sb bf rnd) (fun l => lift2 bf (mulF rm) (A.val s1 l) (B.val s1 l)) ∧
      gives (.fdiv h dst sa sb bf rnd) (fun l => lift2 bf (divF rm) (A.val s1 l) (B.val s1 l))) ∧
    (s.Takes s1 [(A, isTag (ftTag bf)), (B, isTag (ftTag bf)), (C, isTag (ftTag bf))] →
      gives (.fma h dst sa sb sc bf rnd) (fun l => lift3 bf (fmaF rm) (A.val s1 l) (B.val s1 l) (C.val s1 l)))

/-- R211, R214: minimum and maximum, comparison into a predicate, a pair of predicates or an s register, and classification. -/
def Obligations.FloatOrder : Prop :=
  ∀ (h : Hd) (dst sa : BitVec 10) (sb : Src) (bf : Bool) (cmp : BitVec 3) (s s1 : State),
    let A := regOpd (scalar h s) sa
    let B := srcOpd (scalar h s) (ftCls bf) 1 sb
    let D := regDst (scalar h s) dst
    let mm := fun mx l => lift2 bf (fun _ => minmaxF mx) (A.val s1 l) (B.val s1 l)
    let el := fun (o : Opd) k l => if bf then bfEl (BitVec.ofNat 32 (o.val s1 l)) k else BitVec.ofNat 32 (o.val s1 l)
    let c := fun k l => cmpF cmp (el A k l) (el B k l)
    let n := fun k l => if (c k l).1 then 1 else 0
    let cls := fun k l => classF (el A k l)
    s.Acts true (hdGd h) →
    (s.Takes s1 [(A, isTag (ftTag bf)), (B, isTag (ftTag bf))] →
      s.Gives s1 (.fmin h dst sa sb bf) (srcLen sb) (hdGd h) [⟨D, fun _ => ftTag bf, fun l => (mm false l).1.toNat⟩] (fun l => (mm false l).2) ∧
      s.Gives s1 (.fmax h dst sa sb bf) (srcLen sb) (hdGd h) [⟨D, fun _ => ftTag bf, fun l => (mm true l).1.toNat⟩] (fun l => (mm true l).2) ∧
      s.Gives s1 (.fcmp h dst sa sb bf cmp) (srcLen sb) (hdGd h)
        (if scalar h s then [⟨.r dst.toNat, fun _ => ftTag bf, fun l => n 0 l + if bf then 2 * n 1 l else 0⟩]
          else ⟨.p dst.toNat, fun _ => ftTag bf, n 0⟩ :: if bf then [⟨.p (dst.toNat + 1), fun _ => ftTag bf, n 1⟩] else [])
        (fun l => (c 0 l).2 ||| if bf then (c 1 l).2 else 0)) ∧
    (s.Takes s1 [(A, isTag (ftTag bf))] →
      s.Gives s1 (.fclass h dst sa bf) 8 (hdGd h) [⟨D, fun _ => tI32, fun l => cls 0 l + if bf then cls 1 l * 2 ^ 16 else 0⟩])

/-- R210, R212, R214: reciprocal, square root, rounding to an integral value, fraction, scaling, and the exact dot product of `fdot2`. R213: the
five functions that the spec only bounds complete on every operand, in FP32, or rounded to BF16 for each element. Their values inside the bounds
are free (log 10), so nothing rests on one. -/
def Obligations.FloatFunctions : Prop :=
  (∀ (h : Hd) (dst sa : BitVec 10) (sb : Src) (sc : BitVec 10) (bf : Bool) (rnd : BitVec 3) (s s1 : State),
    let rm := rmOf s rnd
    let A := regOpd (scalar h s) sa
    let N := srcOpd (scalar h s) (.int 32) 1 sb
    let B := srcOpd (scalar h s) .bf 1 sb
    let C := regOpd (scalar h s) sc
    let gives := fun i len tag (f : Nat → W32 × Flags) => s.Gives s1 i len (hdGd h)
      [⟨regDst (scalar h s) dst, fun _ => tag, fun l => (f l).1.toNat⟩] fun l => (f l).2
    let x := fun k l => unpackF (bfEl (BitVec.ofNat 32 (A.val s1 l)) k)
    let y := fun k l => unpackF (bfEl (BitVec.ofNat 32 (B.val s1 l)) k)
    s.Acts true (hdGd h) →
    (s.Takes s1 [(A, isTag (ftTag bf))] →
      gives (.frcp h dst sa bf rnd) 8 (ftTag bf) (fun l => lift1 bf (rcpF rm) (A.val s1 l)) ∧
      gives (.fsqrt h dst sa bf rnd) 8 (ftTag bf) (fun l => lift1 bf (sqrtF rm) (A.val s1 l)) ∧
      gives (.frnd h dst sa bf rnd) 8 (ftTag bf) (fun l => lift1 bf (rndF rm) (A.val s1 l)) ∧
      gives (.ffrac h dst sa bf rnd) 8 (ftTag bf) (fun l => lift1 bf (fracF rm) (A.val s1 l))) ∧
    (s.Takes s1 [(A, isTag (ftTag bf)), (N, orNil tI32)] →
      gives (.fscale h dst sa sb bf rnd) (srcLen sb) (ftTag bf)
        (fun l => lift1 bf (fun p a => scaleF rm p a (sextN (N.val s1 l) 32)) (A.val s1 l))) ∧
    (s.Takes s1 [(A, isTag tBF), (B, isTag tBF), (C, isTag tFP32)] →
      gives (.fdot2 h dst sa sb sc rnd) (srcLen sb) tFP32
        (fun l => dotF rm 24 [(x 0 l, y 0 l), (x 1 l, y 1 l)] [unpackF (BitVec.ofNat 32 (C.val s1 l))]))) ∧
  (∀ (h : Hd) (dst sa : BitVec 10) (bf : Bool) (s s1 : State),
    let A := regOpd (scalar h s) sa
    let el := fun k l => bfEl (BitVec.ofNat 32 (A.val s1 l)) k
    let gives := fun i (f : W32 → W32 × Flags) => s.Gives s1 i 8 (hdGd h)
      [⟨regDst (scalar h s) dst, fun _ => ftTag bf, fun l =>
        if bf then (bfPair (toBf (f (el 0 l))).1 (toBf (f (el 1 l))).1).toNat else (f (BitVec.ofNat 32 (A.val s1 l))).1.toNat⟩]
      fun l => if bf then (toBf (f (el 0 l))).2 ||| (toBf (f (el 1 l))).2 else (f (BitVec.ofNat 32 (A.val s1 l))).2
    s.Acts true (hdGd h) → s.Takes s1 [(A, isTag (ftTag bf))] →
    gives (.frsq h dst sa bf) frsqF ∧ gives (.fexp2 h dst sa bf) fexp2F ∧ gives (.flog2 h dst sa bf) flog2F ∧
    gives (.fsin h dst sa bf) fsinF ∧ gives (.fcos h dst sa bf) fcosF)

/-- R215 to R217: conversions, packing and unpacking, with the tags of the formats they name. -/
def Obligations.Conversions : Prop :=
  ∀ (h : Hd) (dst sa : BitVec 10) (sb : Src) (cv : BitVec 4) (pk uk rnd : BitVec 3) (el : BitVec 2) (s s1 : State),
    let rm := rmOf s rnd
    let A := regOpd (scalar h s) sa
    let B := srcOpd (scalar h s) (packTags pk).2.2 1 sb
    let gives := fun i len tag (f : Nat → Nat × Flags) => s.Gives s1 i len (hdGd h)
      [⟨regDst (scalar h s) dst, fun _ => tag, fun l => (f l).1⟩] fun l => (f l).2
    s.Acts true (hdGd h) →
    (s.Takes s1 [(A, isTag (cvtTags cv).1)] → gives (.cvt h dst sa cv rnd) 8 (cvtTags cv).2 fun l => cvtN cv rm (A.val s1 l)) ∧
    (s.Takes s1 [(A, isTag (packTags pk).1), (B, isTag (packTags pk).1)] →
      gives (.pack h dst sa sb pk rnd) (srcLen sb) (packTags pk).2.1 fun l => packN pk rm (A.val s1 l) (B.val s1 l)) ∧
    (s.Takes s1 [(A, isTag (unpkTags uk).1)] →
      gives (.unpk h dst sa uk el) 8 (unpkTags uk).2 fun l => unpkN uk el.toNat (A.val s1 l))

/-- R219 to R223: votes, shuffles, byte permutation, reductions, scans and matches over the participating lanes in ascending order. -/
def Obligations.LaneInstructions : Prop :=
  ∀ (g : Gd) (dst sa : BitVec 10) (sb : Src) (sc : BitVec 10) (vop sop rty : BitVec 2) (segl rop rnd : BitVec 3) (excl all : Bool) (s s1 : State),
    let act := s.lanes g
    let ls := lanesOf act
    let v := fun (n : BitVec 10) l => s1.cur.regs.rdV n.toNat l
    let p := fun l => s1.cur.regs.rdP (sa.toNat % 16) l
    let B := srcOpd false (.int 32) 1 sb
    let C : Opd := match sb with | .imm _ => .v sa.toNat 1 | .wide _ => .v sa.toNat 1 | _ => .v sc.toNat 1
    let A : Opd := .v sa.toNat 1
    let red := fun (ks : List Nat) => reduce rop rty (rmOf s rnd) (ks.map (v sa))
    s.Acts true g →
    (s.Takes s1 [(.p (sa.toNat % 16), anyTag)] →
      s.Gives s1 (.vote g dst sa vop) 8 g [match vop.toNat with
        | 0 => ⟨.p (dst.toNat % 16), fun _ => tNIL, fun _ => if ∀ k ∈ ls, p k = true then 1 else 0⟩
        | 1 => ⟨.p (dst.toNat % 16), fun _ => tNIL, fun _ => if ∃ k ∈ ls, p k = true then 1 else 0⟩
        | 2 => ⟨.r dst.toNat, fun _ => tNIL, fun _ => (maskOf fun k => laneIn act k && p k).toNat⟩
        | _ => ⟨.r dst.toNat, fun _ => tNIL, fun _ => (ls.filter p).length⟩]) ∧
    (s.Takes s1 [(A, anyTag), (B, orNil tI32)] →
      s.Gives s1 (.shfl g dst sa sb segl sop) (srcLen sb) g [⟨.v dst.toNat 1, fun _ => s1.cur.regs.tag sa.toNat, fun l =>
        (v sa (shflLane sop (2 ^ segl.toNat) s.cur.nlanes l (B.val s1 l))).toNat⟩]) ∧
    (s.Takes s1 [(A, anyTag), (B, anyTag), (C, anyTag)] →
      s.Gives s1 (.prmt g dst sa sb sc) (srcLen sb) g
        [⟨.v dst.toNat 1, fun _ => tI32, fun l => prmtN (v sa l).toNat (B.val s1 l) (C.val s1 l)⟩]) ∧
    (s.Takes s1 [(A, isTag (redTag rty))] →
      s.Gives s1 (.redg g dst sa rop rty rnd) 8 g
        [⟨.v dst.toNat 1, fun _ => redTag rty, fun _ => (red ls).1.toNat⟩] (fun _ => (red ls).2) ∧
      s.Gives s1 (.scan g dst sa rop rty rnd excl) 8 g
        [⟨.v dst.toNat 1, fun _ => redTag rty, fun l => (red (ls.filter fun k => decide (k < l) || (!excl && k == l))).1.toNat⟩]
        (fun l => (red (ls.filter fun k => decide (k < l) || (!excl && k == l))).2)) ∧
    (s.Takes s1 [(A, anyTag)] →
      s.Gives s1 (.matchv g dst sa all) 8 g [if all then
          ⟨.p (dst.toNat % 16), fun _ => tI32, fun l => if ∀ k ∈ ls, v sa k = v sa l then 1 else 0⟩
        else ⟨.v dst.toNat 1, fun _ => tI32, fun l => (maskOf fun k => laneIn act k && v sa k == v sa l).toNat⟩])

/-- R143 to R146: every pair word, from `pairPnop` to `pairFcmpF`, completes where both of its slots can take effect. It gives each slot's
destination what the slot's full form alone gives it from the same state, so that both slots read before either writes; the flags are ORed, every
other register is kept, and nothing else changes. A slot with no active lane, or with a poisoned source, completes too. Two compares into one
predicate other than p0 have no encoding. -/
def Obligations.PairWords : Prop :=
  ∀ (a b : Slot) (s : State),
    s.Clear true noGd → s.cur.arm = false →
    s.cur.regs.pPoison a.a.prd.toNat = false → s.cur.regs.pPoison b.a.prd.toNat = false →
    (∀ k, k ≠ 0 → Dst.p k ∈ slotDst false a → Dst.p k ∉ slotDst true b) →
    s.SlotRuns false a → s.SlotRuns true b →
    ∃ tA tB t, exec (slotForm false a) s = .next tA ∧ tA.issued = s.issued + 1 ∧
      exec (slotForm true b) s = .next tB ∧ tB.issued = s.issued + 1 ∧
      exec (mkPair a b) s = .next t ∧
      (∀ d ∈ slotDst false a, d.Same tA.cur.regs t.cur.regs) ∧
      (∀ d ∈ slotDst true b, d.Same tB.cur.regs t.cur.regs) ∧
      s.cur.regs.Kept t.cur.regs (slotDst false a ++ slotDst true b) ∧
      t = { s.passed 8 with cur := { (s.passed 8).cur with
        regs := t.cur.regs
        ctl := { s.cur.ctl with fflags := tA.cur.ctl.fflags ||| tB.cur.ctl.fflags } } }

/-- R96: a poisoned source of any register instruction poisons every destination, raises no flag, makes no tag check and writes no value; the
instruction completes. R93: under strict checking a source tag that is not accepted traps FMT_TAG; nothing is written and no flag is set: the
state that the trap is taken from is the one that reading the sources left. -/
def Obligations.SourcesAreChecked : Prop :=
  (∀ (i : Instr) (len : Nat) (g : Gd) (o : Op) (s : State),
    aluForm s i = some (len, g, o) → s.Acts true g → (nichesOf o.srcs).any s.nicheBad = false →
    (o.srcs.any fun p => p.1.poisoned s.cur.regs) = true →
    ∃ t, exec i s = .next t ∧ (∀ d ∈ o.dsts, s.cur.regs.Poisoned t.cur.regs d) ∧ s.cur.regs.Kept t.cur.regs o.dsts ∧
      t = { s.passed len with cur := { (s.passed len).cur with regs := t.cur.regs } }) ∧
  (∀ (i : Instr) (len : Nat) (g : Gd) (o : Op) (s : State),
    aluForm s i = some (len, g, o) → s.Acts true g → nichesOf o.srcs = [] →
    (o.srcs.any fun p => p.1.poisoned s.cur.regs) = false → s.cur.ctl.tagchk = true →
    ((o.srcs.all (fun p => (p.1.tags s.cur.regs).all p.2) && o.okAll (o.srcs.map fun p => p.1.tags s.cur.regs).flatten) = false) →
    exec i s = .next (s.takeTrap 0x0004 0 0 0 (s.lanes g) (s.cur.pcOf s.curGrp) (s.cur.gslices s.curGrp)))

/-- R97, R138, R153: with no active lane a register instruction makes no check and writes nothing: it only passes, poisoned sources or not; `nop`
only passes, whatever its guard leaves active. A poisoned guard predicate makes a unit a parking point: it parks with POISON_USE before anything
is read. -/
def Obligations.PassingAndGuards : Prop :=
  ∀ (i : Instr) (len : Nat) (g : Gd) (o : Op) (s : State),
    let parked := s.stopped (.park 0) (s.cur.mask s.curGrp) (s.cur.pcOf s.curGrp) (s.cur.gslices s.curGrp)
    let bad := s.cur.mask s.curGrp ≠ 0 ∧ s.cur.regs.pPoison g.prd.toNat = true
    (s.Clear true g → exec (.nop g) s = .next (s.passed 8)) ∧ (bad → exec (.nop g) s = .next parked) ∧
    (aluForm s i = some (len, g, o) → (s.Clear true g → s.lanes g = 0 → exec i s = .next (s.passed len)) ∧ (bad → exec i s = .next parked))

/-! ### Control flow -/

/-- R331 to R333, R316: `bra` and `bri` with one target. The taking lanes are those of the guard, all, or none as s[SA] says; each slice falls
through, goes, or parts with a PEND entry; the fall-through goes first. A target that is not a multiple of 8 traps ALIGN, one outside space 0
ADDR_SPACE, each only where some lane takes it (the order of the two is the model's: log 7). R333, R316: `bri` with a target for each lane, each read from two vector registers of any tag:
where every slice has room, the slices part by the indirect rule. A poisoned source parks. -/
def Obligations.Branches : Prop :=
  (∀ (g : Gd) (ck : BitVec 2) (uni : Bool) (sa sb : BitVec 10) (off : Imm) (s : State),
    let pc := s.cur.pcOf s.curGrp
    let act := s.lanes g
    let r := s.cur.regs.rdR
    let pois := s.cur.regs.rpois.getLsbD
    let rel := pc + BitVec.ofInt 64 (8 * offVal off)
    let fallA := pc + BitVec.ofNat 64 (immLen off)
    let take := if (ck = 1 ∧ r sa.toNat = 0) ∨ (ck = 2 ∧ r sa.toNat ≠ 0) then 0 else act
    let room := fun (tk : W32) (tgt fall : Word) => s.eachSlice fun k c =>
      sliceBits tk k ≠ 0 → sliceBits tk k ≠ c.active → tgt ≠ fall → c.stack.length < 16
    s.Clear false g →
    ((ck = 0 ∨ act = 0 ∨ pois sa.toNat = false) →
      (take ≠ 0 → rel.toNat % 8 = 0 → spaceOf rel.toNat ≠ 0 →
        exec (.bra g ck sa off) s = .next (s.stopped (.trap 0x0006 rel.toNat 0) act pc (s.cur.gslices s.curGrp))) ∧
      (take ≠ 0 → rel.toNat % 8 ≠ 0 →
        exec (.bra g ck sa off) s = .next (s.stopped (.trap 0x0007 rel.toNat 0) act pc (s.cur.gslices s.curGrp))) ∧
      ((take = 0 ∨ (spaceOf rel.toNat = 0 ∧ rel.toNat % 8 = 0)) → room take rel fallA →
        exec (.bra g ck sa off) s = .next (s.onSlices fun k c => c.toOne (sliceBits take k) rel fallA).passedSet)) ∧
    ((uni = true ∨ s.cur.arm = true) → (act = 0 ∨ pois sb.toNat = false) →
      (act = 0 ∨ (spaceOf (r sb.toNat).toNat = 0 ∧ (r sb.toNat).toNat % 8 = 0)) → room act (r sb.toNat) (pc + 8) →
      exec (.bri g uni sb) s = .next (s.onSlices fun k c => c.toOne (sliceBits act k) (r sb.toNat) (pc + 8)).passedSet)) ∧
  (∀ (g : Gd) (sb : BitVec 10) (s : State),
    let act := s.lanes g
    let tgt := fun l => (s.cur.regs.rdV (sb.toNat + 1) l ++ s.cur.regs.rdV sb.toNat l : Word)
    let fall := s.cur.pcOf s.curGrp + 8
    let bad := s.cur.regs.tag sb.toNat = tPSN ∨ s.cur.regs.tag (sb.toNat + 1) = tPSN
    s.Clear false g → s.cur.arm = false → act ≠ 0 →
    (bad → exec (.bri g false sb) s = .next (s.stopped (.park 0) act (s.cur.pcOf s.curGrp) (s.cur.gslices s.curGrp))) ∧
    (¬ bad → (∀ l ∈ lanesOf act, spaceOf (tgt l).toNat = 0 ∧ (tgt l).toNat % 8 = 0) →
      (s.eachSlice fun k c => (c.branch (sliceBits act k) (fun j => tgt (4 * k + j)) fall).isSome) →
      exec (.bri g false sb) s =
        .next (s.onSlices fun k c => (c.branch (sliceBits act k) (fun j => tgt (4 * k + j)) fall).getD c).passedSet))

/-- R334: `call` leaves the address of the next unit in its register and goes to its target, relative or in a register; `ret` goes where its
register says. Neither touches a token stack. With no active lane both only pass; a poisoned target parks. -/
def Obligations.CallAndReturn : Prop :=
  ∀ (dst sa : BitVec 10) (sb : Src) (s : State),
    let pc := s.cur.pcOf s.curGrp
    let act := s.lanes noGd
    let len := srcLen sb
    let tgt : Word := match sb with
      | .imm v => pc + BitVec.ofInt 64 (8 * sextN v.toNat 20)
      | .wide v => pc + BitVec.ofInt 64 (8 * sextN v.toNat 48)
      | .reg n => s.cur.regs.rdR n.toNat
      | .sreg n => s.cur.regs.rdR n.toNat
      | .nic _ => 0
    let back := s.cur.regs.rdR sa.toNat
    let goes := fun (u : State) (p : Word) => u.onSlices fun _ c => { c with pc := p, wait := .none }
    s.Clear false noGd →
    (act = 0 → exec (.call dst sb) s = .next (s.passed len) ∧ exec (.ret sa) s = .next (s.passed 8)) ∧
    (act ≠ 0 → ctlPois s sb = false → spaceOf tgt.toNat = 0 → tgt.toNat % 8 = 0 →
      exec (.call dst sb) s = .next (goes (s.onRegs fun r => r.wrR dst.toNat (pc + BitVec.ofNat 64 len)) tgt).passedSet) ∧
    (act ≠ 0 → rPois s sa = false → spaceOf back.toNat = 0 → back.toNat % 8 = 0 → exec (.ret sa) s = .next (goes s back).passedSet) ∧
    (act ≠ 0 → rPois s sa = true → exec (.ret sa) s = .next (s.stopped (.park 0) act pc (s.cur.gslices s.curGrp)))

/-- R336, R316: `mark` pushes its kind, the active mask and its target; `merge` resumes from the nearest entry that has lanes; `brk` and `cont` take
their lanes from the entries above the nearest BREAK or CONT entry and from the active mask; TOK_OVF where a stack is full, empty or has no
such entry. -/
def Obligations.TokenStack : Prop :=
  ∀ (g : Gd) (kind : BitVec 2) (off : Imm) (s : State),
    let pc := s.cur.pcOf s.curGrp
    let tgt := pc + BitVec.ofInt 64 (8 * offVal off)
    let act := s.lanes g
    let gm := s.cur.gslices s.curGrp
    let ovf := fun a => s.stopped (.trap 0x000E 0 0) a pc gm
    (s.Acts false noGd → spaceOf tgt.toNat = 0 → tgt.toNat % 8 = 0 →
      ((s.eachSlice fun _ c => c.stack.length < 16) →
        exec (.mark kind off) s = .next ((s.onSlices fun _ c => { c with stack := ⟨kind, c.active, tokTarget tgt⟩ :: c.stack }).passed (immLen off))) ∧
      ((¬ s.eachSlice fun _ c => c.stack.length < 16) → exec (.mark kind off) s = .next (ovf (s.lanes noGd)))) ∧
    (s.Clear false noGd →
      ((s.eachSlice fun _ c => ∃ k ∈ c.stack, k.mask ≠ 0) →
        exec .merge s = .next (s.onSlices fun _ c => { c.resumed with wait := .none }).passedSet) ∧
      ((¬ s.eachSlice fun _ c => ∃ k ∈ c.stack, k.mask ≠ 0) → exec .merge s = .next (ovf (s.lanes noGd)))) ∧
    (s.Acts false g → ∀ q : BitVec 2, q = 1 ∨ q = 2 →
      let i : Instr := if q = 1 then .brk g else .cont g
      let ok := s.eachSlice fun k c => (∃ e ∈ c.stack, e.kind = q) ∧ c.canResume (sliceBits act k) (c.above q (sliceBits act k))
      (ok → exec i s = .next (s.onSlices fun k c => c.without (sliceBits act k) (c.above q (sliceBits act k)) (pc + 8)).passedSet) ∧
      (¬ ok → exec i s = .next (ovf act)))

/-- R335, R316, R320: `exit` takes its lanes from the active and live masks and from every token entry, and out of every cohort; a slice with live
lanes left goes on or resumes. Here no slice waits at `regang`. -/
def Obligations.ExitEndsLanes : Prop :=
  ∀ (g : Gd) (s : State),
    let act := s.lanes g
    let fall := s.cur.pcOf s.curGrp + 8
    let st := fun (c : Slice) m => c.stack.map fun k => { k with mask := k.mask &&& ~~~m }
    let f := fun (k : Nat) (c : Slice) =>
      let m := sliceBits act k
      ({ c with live := c.live &&& ~~~m } : Slice).without m (st c m) fall
    s.Clear false g → act ≠ 0 → s.cur.saved = false → s.cur.resident = true → (∀ c ∈ s.cur.slices, c.wait ≠ .regang) → s.cur.memb = [] →
    (s.eachSlice fun k c => ({ c with live := c.live &&& ~~~(sliceBits act k) } : Slice).canResume (sliceBits act k) (st c (sliceBits act k))) →
    exec (.exit g) s = .next (s.onSlices f).passedSet

/-- R317, R337: `regang` waits until every live slice of the thread has arrived; the last arrival sends every slice to the next unit, and the slices
with one counter form one group, which takes the number of its lowest slice. -/
def Obligations.RegangGathers : Prop :=
  ∀ (s : State),
    let others := fun (c : Slice) => c.live = 0 ∨ c.inGrp s.curGrp = true ∨ c.wait = .regang
    s.Clear false noGd →
    ((∃ c ∈ s.cur.slices, ¬ others c) → exec .regang s = .next (s.onSlices fun _ c => { c with wait := .regang })) ∧
    ((∀ c ∈ s.cur.slices, others c) →
      exec .regang s = .next (s.onCur fun t => { t with slices := t.slices.map fun c =>
        if c.live = 0 then { c with wait := .none }
        else { c with grp := t.slices.findIdx (fun x => x.live != 0 && x.pc == c.pc), pc := c.pc + 8, wait := .none } }).passedSet)

/-- R320, R338 to R340: `join` joins its lanes one at a time in ascending order and writes each lane's handle, tagged I32; `leave` takes its
lanes out of the cohort that they name; `bar` without a member only passes, and one that does not complete the phase waits with its arrival
recorded; `elect` is true in the lowest active lane and false in the others. R319, R320: a lane's join. A member keeps its handle and nothing
changes; a lane with four memberships gets all ones and nothing changes; a lane new to a live cohort becomes its member; a new cohort takes a
free entry of the table of core k mod 4, and the handle is core × 64 + entry. -/
def Obligations.CohortInstructions : Prop :=
  (∀ (g : Gd) (dst sc : BitVec 10) (sb : Src) (red : Bool) (rop : BitVec 3) (rty : BitVec 2) (s : State),
    let act := s.lanes g
    let len := srcLen sb
    let H := ctlVal s sb % 2 ^ 32
    let j := joinAll s (laneKey s sb) (lanesOf act)
    let mine := fun (c : Cohort) => maskOf fun l => laneIn act l && c.members.contains (s.cur.id, l)
    s.Acts false g →
    (keyPois s sb = false → keyTagBad s sb = false →
      exec (.join g dst sb) s = .next ((j.1.onRegs fun x => x.wrV j.1.cur.exist dst.toNat act tI32 fun l => assocD 0 j.2 l).passed len) ∧
      exec (.leave g sb) s = .next (((lanesOf act).foldl (fun t l => t.leaveLane t.cur.id l (laneKey s sb l).toNat) s).passed len)) ∧
    (keyPois s sb = true →
      exec (.join g dst sb) s = .next ((s.onRegs fun r => r.psnV dst.toNat act).passed len) ∧ exec (.leave g sb) s = .next (s.passed len)) ∧
    (ctlPois s sb = false → (red = true → s.cur.regs.tag sc.toNat = redTag rty) →
      (s.cohort? s.cur H = none → exec (.bar g dst sb red rop rty sc) s = .next (s.passed len)) ∧
      (∀ c, s.cohort? s.cur H = some c →
        (mine c = 0 → exec (.bar g dst sb red rop rty sc) s = .next (s.passed len)) ∧
        (mine c ≠ 0 → c.late = [] → c.waits.all (fun w => !w.late) = true →
          (∃ m ∈ c.members, m ∉ ((c.waits.map BarWait.lanesL).flatten ++ (lanesOf (mine c)).map fun l => (s.cur.id, l))) →
          exec (.bar g dst sb red rop rty sc) s = .next ((s.onSlices fun _ x => { x with wait := .bar H }).setCohort { c with
            waits := c.waits ++ [⟨s.cur.id, mine c, s.cur.gslices s.curGrp, red, rop, rty, dst,
              (lanesOf (mine c)).map fun l => s.cur.regs.rdV sc.toNat l, len, false⟩] })))) ∧
    (∃ t, exec (.elect g dst) s = .next t ∧
      s.Did t 8 act [⟨.p (dst.toNat % 16), fun _ => tNIL, fun l => if l = lowLane act then 1 else 0⟩])) ∧
  (∀ (s : State) (t : Thread) (lane : Nat) (key : W32),
    s.cur = t → t.resident = true →
    let k := key.toNat % 4
    let old := s.cohorts.find? fun c => c.die == t.loc.die && c.core == t.coreNo k && c.key == key && c.task == t.task
    let mine := (t.memb.filter fun m => m.lane == lane).length
    let r := s.joinLane t.id lane key
    (∀ c, old = some c → (⟨lane, k * 64 + c.ent, key⟩ : Memb) ∈ t.memb → r = (s, BitVec.ofNat 32 (k * 64 + c.ent))) ∧
    (∀ c, old = some c → (∀ m ∈ t.memb, m.lane = lane → m.handle ≠ k * 64 + c.ent) →
      (4 ≤ mine → r = (s, 0xFFFFFFFF)) ∧
      (mine < 4 → r.2 = BitVec.ofNat 32 (k * 64 + c.ent) ∧ r.1.cur = { t with memb := t.memb ++ [⟨lane, k * 64 + c.ent, key⟩] })) ∧
    (old = none → 4 ≤ mine → r = (s, 0xFFFFFFFF)) ∧
    (old = none → mine < 4 → r ≠ (s, 0xFFFFFFFF) →
      ∃ e, e < 64 ∧ r.2 = BitVec.ofNat 32 (k * 64 + e) ∧ r.1.cur = { t with memb := t.memb ++ [⟨lane, k * 64 + e, key⟩] } ∧
        (∀ c ∈ s.cohorts, c.die = t.loc.die → c.core = t.coreNo k → c.ent ≠ e)))

/-! ### Traps (R341, R395, R396) -/

/-- R341, R395: `trap` with a lane takes TRAP or BKPT with its immediate, zero-extended, as INFO: where a handler exists, the save area receives the
entry's bytes and the thread enters the handler at `trapvec`; with no lane it only passes. -/
def Obligations.TrapInstructionsEnterHandler : Prop :=
  ∀ (bk : Bool) (g : Gd) (imm : Imm) (s : State),
    let i : Instr := if bk then .trapBkpt g imm else .trapUser g imm
    let code : Code := if bk then 0x0011 else 0x0015
    let raw := match imm with | .i20 v => v.toNat | .i48 v => v.toNat
    let u := (s.areaTouch s.cur 1).1
    let vec := vecPc (u.die u.cur.loc.die).trapvec
    let hdr := recHeader u.cur code 0 0 raw (s.lanes g) (s.cur.pcOf s.curGrp) (s.cur.gslices s.curGrp)
    (s.Clear false g → s.lanes g = 0 → exec i s = .next (s.passed (immLen imm))) ∧
    (s.Acts false g → (s.areaTouch s.cur 1).2 = true → u.cur.handler = false → vec ≠ 0 →
      exec i s = .next { ((u.abandonWaits u.cur.id).areaWrite u.cur (entryBytes u u.cur hdr 0)).onCur
        (fun t => t.enter (u.csaAddr u.cur) code vec) with curGrp := 0 })

/-- R395, steps 2 to 6: what entering the handler does to a thread. Handler mode is on; the names 56 to 63 switch to the handler's bank, 63 with
the record's address and 62 with the code, and the tenant's values go to the bank that is out; every live slice is in group 0 with every live
lane active, at the handler's entry, with its token stack kept; `rmode`, `tagchk` and `bpm` are set; the lower registers and every other control
word stay. R396: the record header has each of its fields at its bytes, and no bit besides. R395: a trap in handler mode, or with no handler, is
a double trap: the thread halts, the monitor event is raised, FLAGS bit 3 is set in the record, and a halted thread is never ready to issue. R385:
while the walkers complete no walk for the save area, the group waits and nothing is entered. -/
def Obligations.HandlerEntryAndDoubleTrap : Prop :=
  (∀ (t : Thread) (rec_ : Nat) (code : Code) (vec : Word) (cause flags info : Nat) (lmask : W32) (pc : Word) (gmask : BitVec 8),
    let u := t.enter rec_ code vec
    let h := recHeader t code cause flags info lmask pc gmask
    (cause < 256 → flags < 256 → t.frs.length ≤ 4 →
      fieldN h 0 16 = code.toNat ∧ fieldN h 16 8 = cause ∧ fieldN h 24 8 = flags ∧ fieldN h 32 32 = lmask.toNat ∧ fieldN h 64 64 = pc.toNat ∧
      fieldN h 128 64 = info % 2 ^ 64 ∧ fieldN h 192 8 = gmask.toNat ∧ fieldN h 200 8 = t.frs.length ∧ fieldN h 208 16 = 0 ∧
      fieldN h 224 32 = t.missing.length % 2 ^ 32 ∧ h < 2 ^ 256) ∧
    u.handler = true ∧
    u.regs.rdR 63 = BitVec.ofNat 64 rec_ ∧ u.regs.rdR 62 = code.setWidth 64 ∧
    (∀ k, k < 6 → u.regs.rdR (56 + k) = t.regs.hbank.get k) ∧
    (∀ k, k < 8 → u.regs.hbank.get k = t.regs.rdR (56 + k)) ∧
    (∀ k, k < 8 → u.regs.hpois.getLsbD k = t.regs.rpois.getLsbD (56 + k)) ∧
    (∀ n, n < 56 → u.regs.rdR n = t.regs.rdR n ∧ u.regs.rpois.getLsbD n = t.regs.rpois.getLsbD n) ∧
    u.regs.v = t.regs.v ∧ u.regs.vtag = t.regs.vtag ∧ u.regs.p = t.regs.p ∧ u.regs.ppois = t.regs.ppois ∧ u.regs.tile = t.regs.tile ∧
    u.ctl = { t.ctl with rmode := 0, tagchk := true, bpm := 0 } ∧
    u.slices = t.slices.map fun c => if c.live = 0 then c else
      { c with grp := 0, active := c.live, pc := vec, wait := .none }) ∧
  (∀ (s : State) (code : Code) (cause flags info : Nat) (lmask : W32) (pc : Word) (gmask : BitVec 8),
    let u := (s.areaTouch s.cur 1).1
    let d := u.cur.loc.die
    let key := tlbKey u.cur
    let halted := fun (u : State) => (u.onCur fun t => { t with halted := true }).monitor d 6
    ((s.areaTouch s.cur 1).2 = false → code ≠ 0x0012 → s.takeTrap code cause flags info lmask pc gmask =
      u.onCur fun t => { t with slices := t.slices.zipIdx.map fun x => if gmask.getLsbD x.2 then { x.1 with wait := .again false } else x.1 }) ∧
    ((s.areaTouch s.cur 1).2 = true → u.cur.handler = true → s.takeTrap code cause flags info lmask pc gmask =
      halted ((u.superRead d key (u.csaAddr u.cur + 3) 1).1.areaWrite u.cur
        [(3, ((u.superRead d key (u.csaAddr u.cur + 3) 1).2.getD 0) ||| 8, 1)])) ∧
    ((s.areaTouch s.cur 1).2 = true → u.cur.handler = false → vecPc (u.die d).trapvec = 0 → s.takeTrap code cause flags info lmask pc gmask =
      halted ((u.abandonWaits u.cur.id).areaWrite u.cur
        (entryBytes u u.cur (recHeader u.cur code cause (flags + 8) info lmask pc gmask) 0))) ∧
    (s.cur.halted = true → s.curReady = false))

/-- R330, R342, R351, R358: outside supervisor mode `rett`, `hsr`, `hsw`, a read of a word that is not readable there and a write of a word that is
not writable there trap PERM and change nothing; a word that no mode may write traps PERM in every mode. -/
def Obligations.PrivilegeIsChecked : Prop :=
  ∀ (dst sa : BitVec 10) (sb : Src) (skip : Bool) (num : Imm) (s : State),
    let n := immRaw num % 4096
    let perm := s.takeTrap 0x0008 0 0 0 (s.lanes noGd) (s.cur.pcOf s.curGrp) (s.cur.gslices s.curGrp)
    let userR := n ≤ 0x23 ∧ n ≠ 0x1A ∨ n = 0x3D
    let userW := n ≤ 5
    let noW := n = 0x12 ∨ n = 0x13 ∨ n = 0x20 ∨ n = 0x21 ∨ n = 0x22 ∨ n = 0x23
    s.Acts false noGd →
    (s.cur.pasid ≠ 0 → s.cur.handler = false →
      exec (.rett sa skip) s = .next perm ∧ exec (.hsr dst sb) s = .next perm ∧ exec (.hsw sa sb) s = .next perm ∧
      (¬ userR → exec (.csrr dst num) s = .next perm) ∧
      (¬ userW → rPois s sa = false → exec (.csrw sa num) s = .next perm)) ∧
    (noW → rPois s sa = false → exec (.csrw sa num) s = .next perm)

/-- R342, R398, R83, R405: in supervisor mode `rett` with a readable record, whose counters are targets, resumes the thread from the area: handler
mode ends, the slices are those of the slice blocks, those of GMASK past the recorded unit with SKIP, and the control words are those of the
thread header. A restored PREEMPT then acquires with the patina of the header at `pkg`; a declined PREEMPT of a task that is no cluster task puts
the copies of the copy records back on channels that have room, and counts them in `cp`. -/
def Obligations.TrapReturnResumes : Prop :=
  ∀ (sa : BitVec 10) (skip : Bool) (s s1 : State) (ps : List Pc) (n : Nat),
    let p := (s.cur.regs.rdR sa.toNat).toNat
    let r := s1.areaLines s1.cur.loc.die (tlbKey s1.cur) p 112
    let a : Area := ⟨r.2⟩
    let u := if skip then r.1.unitLenAt s1.cur a.pc else (r.1, some 0)
    let t := s1.cur.resume a n
    let back := fun (v : State) => ({ v.onCur (fun x => x.resume a n) with issued := v.issued + 1 } : State)
    s.Acts false noGd → s.cur.super = true → s.cur.regs.rpois.getLsbD sa.toNat = false →
    spaceOf p = 0 → fieldN p 57 3 = 0 → p % 64 = 0 →
    (resolve .load 0 0 1 [(0, p, 0x1C00)]).run s = .ok ((ps, []), s1) →
    a.code ≠ 0 → a.code ≤ 0x15 → a.flags.testBit 3 = false → u.2 = some n → pcBad t.slices = none →
    (a.code ≠ 0x14 → exec (.rett sa skip) s = .next (back u.1)) ∧
    (a.code = 0x14 → a.restore = true → exec (.rett sa skip) s =
      .next ((back u.1).acquireAct (back u.1).cur.loc.die (back u.1).cur.loc.cl 3 (back u.1).cur.ctl.patina)) ∧
    (a.code = 0x14 → a.restore = false → s.clusterTask s1.cur.task = false →
      let c := u.1.copyRecs s1.cur p
      c.1.chanRoom s1.cur.loc.die s1.cur.loc.cl c.2 = true → exec (.rett sa skip) s =
        .next (back ((c.1.requeue s1.cur.loc.die s1.cur.loc.cl c.2).onCur fun t => { t with cntCp := t.cntCp + c.2.length }))) ∧
    t.handler = false ∧ t.saved = false ∧
    t.ctl.fflags = BitVec.ofNat 5 (a.f 0xA08 8) ∧ t.ctl.tagchk = (a.f 0xA10 8).testBit 0 ∧ t.ctl.bpm = BitVec.ofNat 4 (a.f 0xA18 8) ∧
    t.ctl.mxerr = BitVec.ofNat 18 (a.f 0xA20 8) ∧ t.ctl.patina = BitVec.ofNat 512 (a.f 0xA80 64) ∧
    (a.f 0xA00 8 % 8 ≤ 4 → t.ctl.rmode = BitVec.ofNat 3 (a.f 0xA00 8)) ∧ t.regs.rpois = BitVec.ofNat 64 (a.f 0xA38 8)

/-! ### System instructions -/

/-- R351 to R353, R393: `csrr` writes the word's value to its register, in supervisor mode for every word; of `sdreq` with BUSY = 0 it acquires at
`pkg` over everything first (R43). `csrw` of a word without a side effect
takes the writable fields of the value, so that the word reads back as they are, and changes no register, no memory and no other word. -/
def Obligations.ControlWords : Prop :=
  ∀ (dst sa : BitVec 10) (num : Imm) (s : State),
    let n := immRaw num % 4096
    let v := s.cur.regs.rdR sa.toNat
    let keeps : Nat → Word := fun n => match n with
      | 0x01 => 0x1F | 0x02 => 1 | 0x03 => 0xF | 0x05 => 0x3FFFF
      | 0x18 => 0x01FFFFFFFFFFF00F | 0x19 => 0x01FFFFFFFFFF001F | 0x1A => 0x01FFFFFFFFFC001F
      | 0x1B => 0x1FFFFFFF | 0x1C => 0x1FFFFFFF
      | 0x30 => 0x000FFFFFFFFF003F | 0x31 => 0x000FFFFFFFFF003F | 0x32 => 0x000FFFFFFFFF003F
      | 0x33 => 0x01FFFFFFFFFF0000 | 0x36 => 0x000FFFFFFFFFF00F | 0x38 => 0x01FFFFFFFFFFFFF8
      | 0x3D => 0xFFFFFFFFFFFFFFC0 | 0x3E => 0x000FFFFFFFFFF00F
      | _ => 0
    let plain := [0x01, 0x02, 0x03, 0x05, 0x18, 0x19, 0x1A, 0x1B, 0x1C, 0x30, 0x31, 0x32, 0x33, 0x36, 0x38, 0x3D, 0x3E]
    (s.Acts true noGd → s.cur.super = true ∨ csrUserR n = true →
      exec (.csrr dst num) s = .next (((if n = 0x34 ∧ csrRead s n = 0 then s.acquireAct s.cur.loc.die s.cur.loc.cl 3 patFull else s).onRegs
        fun r => r.wrR dst.toNat (csrRead s n)).passed (immLen num))) ∧
    (s.Acts false noGd → s.cur.super = true ∨ n ≤ 5 → rPois s sa = false → n ∈ plain → s.cur.loc.die < s.dies.length →
      ∃ t, exec (.csrw sa num) s = .next t ∧ csrRead t n = v &&& keeps n ∧ t.cur.regs = s.cur.regs ∧ t.mem = s.mem ∧
        (∀ m, m < 0x40 → m ≠ n → m ≠ 0x3C → csrRead t m = csrRead s m))

/-- R348 to R350: `mwatch` arms the watch on its line; `msleep` without a watch returns NOWATCH, with a latched event returns EVENT and disarms, and
otherwise sleeps; `pause` makes its group wait for its clocks, and a pause of no clock only passes. A pause ends when its clock has come; a sleep
with a timeout ends with TIMEOUT when its clock has come, or with EVENT if its event is latched by then: the reason goes to its register, the
watch is disarmed, and the thread goes on after the `msleep`. -/
def Obligations.WatchSleepPause : Prop :=
  ∀ (dst sa : BitVec 10) (sb : Src) (s s1 s2 : State) (p : Pc) (x k : Nat) (c : Slice),
    let t := s.cur
    let len := srcLen sb
    let ptr := (s.cur.regs.rdR sa.toNat).toNat / 64 * 64
    let n := match sb with
      | .reg _ => ctlVal s sb % 65536
      | .sreg _ => ctlVal s sb % 65536
      | _ => ctlVal s sb
    let now := (s.die s.cur.loc.die).aclk.toNat
    (s.Acts false noGd →
    (rPois s sa = false → (watchTrap false [(0, ptr, 64)]).run s = .ok ((), s) →
      (resolve .load 0 0 1 [(0, ptr, 64)] (fun sp => sp ≤ 1)).run s = .ok (([p], []), s1) → (p.sp = 0 → p.trk = true) → (readPc p).run s1 = .ok (some x, s2) →
      exec (.mwatch sa) s = .next ((s2.onCur fun t => { t with watch := some ⟨p.pa / 64, false⟩ }).passed 8)) ∧
    (ctlPois s sb = false →
      (s.cur.watch = none → exec (.msleep dst sb) s = .next ((s.onRegs fun r => r.wrR dst.toNat 3).passed len)) ∧
      (∀ w, s.cur.watch = some w → w.event = true →
        exec (.msleep dst sb) s = .next (((s.onRegs fun r => r.wrR dst.toNat 0).onCur fun t => { t with watch := none }).passed len)) ∧
      (∀ w, s.cur.watch = some w → w.event = false →
        exec (.msleep dst sb) s = .next (s.onCur fun t => { t.onGrp s.curGrp (fun _ c => { c with wait := .sleep }) with
          sleep := some ⟨dst, if ctlVal s sb = 0 then 0 else now + ctlVal s sb, len⟩ })) ∧
      (n = 0 → exec (.pause sb) s = .next (s.passed len)) ∧
      (n ≠ 0 → exec (.pause sb) s = .next (s.issuedWait len (.pause (now + n)))))) ∧
    (t.resident = true →
    (∀ till, t.slices[k]? = some c → c.wait = .pause till →
      (till ≤ now → exec (.pauseExpire t.id k) s = .next (s.onCur fun y => y.onGrp c.grp fun _ q => { q with wait := y.doneWait })) ∧
      (now < till → exec (.pauseExpire t.id k) s = .next s)) ∧
    (∀ r, t.sleep = some r →
      (r.till ≠ 0 → r.till ≤ now → exec (.msleepTimeout t.id) s = .next (s.onCur fun y => { y with
        regs := y.regs.wrR r.dst.toNat (if (y.watch.any fun (w : Watch) => w.event) then 0 else 1)
        sleep := none, watch := none
        slices := y.slices.map fun q => if q.wait = .sleep then { q with pc := q.pc + BitVec.ofNat 64 r.len, wait := y.doneWait } else q })) ∧
      ((r.till = 0 ∨ now < r.till) → exec (.msleepTimeout t.id) s = .next s)))

/-- R324 to R327, R354 to R356: the niche instructions on a niche of the task that is not being pre-empted. `nw` fills an EMPTY BCAST niche with
its value, count and the running patina; `nr.peek` reads a FULL one; `nr.take` reads it once for each thread, counts down, and empties it at the
last take, or re-arms a GATHER niche; `nred` combines its lanes into a GATHER niche that is not FULL and fills it at the last contribution. R324,
R356 to R358: `nctl` arms a GATHER niche for its count, returns one to BCAST, or empties a BCAST one; a number at or above the task's count and a
mode that does not fit trap NICHE_MODE; in supervisor mode `hsr` and `hsw` read and write the parts of every physical niche. -/
def Obligations.NicheInstructions : Prop :=
  (∀ (g : Gd) (dst sa : BitVec 10) (sb : Src) (w vs : Bool) (gop gty : BitVec 3) (s s1 : State),
    let r := s.cur.regs
    let nd := dst.toNat % 64
    let na := sa.toNat % 64
    let x := s.myNiche nd
    let y := s.myNiche na
    let lane := fun l => if gtyW gty = 64 then (r.rdV (sa.toNat + 1) l ++ r.rdV sa.toNat l : Word) else (r.rdV sa.toNat l).setWidth 64
    s.nicheOff = false →
    (s.Acts false noGd → nd < s.nicheCount → ctlPois s sb = false → x.gather = false → x.full = false → x.writers = [] →
      (release 1).run s = .ok ((), s1) →
      (if vs then r.tag sa.toNat ≠ tPSN ∧ (w = true → r.tag (sa.toNat + 1) ≠ tPSN) else rPois s sa = false) →
      exec (.nw dst sa sb w vs) s = .next ((s1.setNiche { x with
        val := if !vs then r.rdR sa.toNat
          else if w then (r.rdV (sa.toNat + 1) (lowLane (s.lanes noGd)) ++ r.rdV sa.toNat (lowLane (s.lanes noGd)) : Word)
          else (r.rdV sa.toNat (lowLane (s.lanes noGd))).setWidth 64
        cnt := BitVec.ofNat 8 (ctlVal s sb), full := true, used := 0, slot := s1.cur.ctl.patina, writers := [] }).passed (srcLen sb))) ∧
    (s.Acts false noGd → na < s.nicheCount → y.full = true → (acquire 1 y.slot true).run s = .ok ((), s1) →
      exec (.nrPeek dst sa) s = .next ((s1.onRegs fun r => r.wrR dst.toNat (s1.myNiche na).val).passed 8) ∧
      (y.gather = true ∨ y.used.getLsbD s.cur.consumedBit = false →
        exec (.nrTake dst sa) s = .next (((s1.setNiche (if y.gather then y.arm y.gop y.gty y.decl
          else { y with
            used := setBit y.used s.cur.consumedBit true, cnt := if y.cnt = 0 then 0 else y.cnt - 1, full := decide (y.cnt ≠ 1) })).onRegs
          fun r => r.wrR dst.toNat y.val).passed 8))) ∧
    (s.Acts false g → nd < s.nicheCount → x.gather = true → x.gop = gop → x.gty = gty → x.full = false → s.cur.ctl.tagchk = false →
      r.tag sa.toNat ≠ tPSN → r.tag (sa.toNat + 1) ≠ tPSN → (release 1).run s = .ok ((), s1) →
      let u := gatherLanes gop gty ((lanesOf (s.lanes g)).map lane)
      let v := gatherComb gop gty x.val u.1
      exec (.nred g dst sa gop gty) s = .next (((s1.setNiche { x with
        val := v.1, slot := x.slot ||| s1.cur.ctl.patina
        cnt := if x.cnt = 0 then 0 else x.cnt - 1, full := decide (x.cnt.toNat ≤ 1) }).onCur fun t => t.orFlags (u.2 ||| v.2)).passed 8))) ∧
  (∀ (dst sa : BitVec 10) (sb : Src) (gop gty : BitVec 3) (s : State),
    let nd := dst.toNat % 64
    let x := s.myNiche nd
    let len := srcLen sb
    let c := ctlVal s sb
    let mode := s.takeTrap 0x000D 0 0 0 (s.lanes noGd) (s.cur.pcOf s.curGrp) (s.cur.gslices s.curGrp)
    let h := s.myNiche (c % 64)
    let part := c / 256 % 128
    let ok := part ≤ 9 ∨ (16 ≤ part ∧ part ≤ 80)
    s.Acts false noGd →
    (s.nicheOff = false → nd < s.nicheCount →
      (ctlPois s sb = false → 0 < c → c < 256 → exec (.nctlGather dst sb gop gty) s = .next ((s.setNiche { x with
        gather := true, gop := gop, gty := gty, decl := BitVec.ofNat 8 c, cnt := BitVec.ofNat 8 c, val := gatherIdent gop gty
        full := false, slot := 0, used := 0 }).passed len)) ∧
      (ctlPois s sb = false → c = 0 ∨ 256 ≤ c → exec (.nctlGather dst sb gop gty) s = .next mode) ∧
      exec (.nctlBcast dst sb) s = .next ((s.setNiche { x with
        gather := false, full := false, cnt := 0, val := 0, gop := 0, gty := 0, decl := 0, slot := 0, used := 0 }).passed len) ∧
      (x.gather = false → exec (.nctlEmpty dst sb) s = .next ((s.setNiche { x with full := false, cnt := 0 }).passed len)) ∧
      (x.gather = true → exec (.nctlEmpty dst sb) s = .next mode)) ∧
    (s.nicheCount ≤ nd → exec (.nctlGather dst sb gop gty) s = .next mode ∧ exec (.nctlBcast dst sb) s = .next mode ∧
      exec (.nctlEmpty dst sb) s = .next mode) ∧
    (s.cur.super = true → ctlPois s sb = false → ok →
      exec (.hsr dst sb) s = .next ((s.onRegs fun r => r.wrR dst.toNat (h.part part)).passed len) ∧
      (rPois s sa = false → (part = 1 → ((rVal s sa).extractLsb' 26 3).toNat ≤ 5 ∧ ((rVal s sa).extractLsb' 23 3).toNat ≤ 4) →
        exec (.hsw sa sb) s = .next ((s.setNiche (h.setPart part (rVal s sa))).passed len))))

/-! ### Memory instructions (R158 to R195) -/

/-- R165 to R167, R188, R67: `ld` and `sld` whose bytes can be read give each lane its element, extended, widened or cut as its type says, with the
type's tag, and raise `ld` by one; a lane that points at the aperture gets its query's answer; bytes that cannot be read poison the destination.
A missing page without `.now` opens a fault record and poisons the destination, and the thread goes on (R399). LOAD_RETURN lowers `ld` and
changes nothing else. R190: `prf` brings its lanes' lines in; scratchpad, vault and unusable pointers, and a poisoned address, do nothing. -/
def Obligations.LoadsReadMemory : Prop :=
  ∀ (sl : Bool) (g : Gd) (dst sa : BitVec 10) (off : MOff) (scope pol : BitVec 3) (now : Bool) (ord : BitVec 3) (ty : BitVec 5) (bpm : Bpm)
    (lvl : Bool) (s s1 s2 : State) (ps : List Pc) (miss : List (Nat × Page × Nat)) (xs : List (Pc × Option Nat)),
    let i : Instr := if sl then .sld dst sa off scope pol now ord ty bpm else .ld g dst sa off scope pol now ord ty bpm
    let gd := if sl then noGd else g
    let uni := sl || s.cur.arm
    let act := s.lanes gd
    let len := offLen bpm off
    let k := if uni then 1 else tyRegs ty
    let es := (accLanes uni act).map (eaOf s sa off (tyBits ty))
    let ask := es.foldl (fun (r : State × List (Nat × Nat)) e =>
      if spaceOf e.ptr = 6 then ((r.1.query r.1.cur (apCh e.ptr)).1, r.2 ++ [(e.lane, (r.1.query r.1.cur (apCh e.ptr)).2.toNat)])
      else (r.1, r.2 ++ [(e.lane, 0)])) (s2, [])
    let val := fun (e : Ea) => if spaceOf e.ptr = 6 then assocD 0 ask.2 e.lane
      else loadVal ty (if uni then 64 else 32) (fieldN (laneVal xs e.lane) e.bit (tyBits ty))
    let vs := es.map fun e => (e.lane, val e)
    let put := fun (u : State) => u.onCur fun t => { t with
      outs := t.outs ++ [.load]
      regs := if uni then t.regs.wrR dst.toNat (BitVec.ofNat 64 (assocD 0 vs 0)) else
        (rangeFrom 0 k).foldl (fun r j => r.wrV t.exist (dst.toNat + j) act (loadTag ty) fun l => BitVec.ofNat 32 (assocD 0 vs l / 2 ^ (32 * j))) t.regs }
    let spoilt := fun (u : State) => u.onRegs fun r =>
      if uni then r.psnR dst.toNat else (rangeFrom dst.toNat k).foldl (fun r n => r.psnV n act) r
    let pes := (lanesOf (s.lanes g)).map (eaOf s sa off 8)
    (s.Acts true gd → addrPois s sa off = true → exec i s = .next ((spoilt s).passed len)) ∧
    (s.Acts true gd → addrPois s sa off = false → (idxTag off).run s = .ok ((), s) →
      (resolve .load pol.toNat (bpmOf s bpm) (tyAlign ty) (eaReqs es) (adr := apLoad) (ap8 := tyBits ty == 64)).run s = .ok ((ps, miss), s1) →
      (watchTrap false (eaReqs es)).run s1 = .ok ((), s1) →
      (miss = [] → (readPcs ps).run s1 = .ok (xs, s2) →
        ((∀ x ∈ xs, x.2 ≠ none) → exec i s = .next
          ((if ord = 1 then (put ask.1).acquireAct (put ask.1).cur.loc.die (put ask.1).cur.loc.cl scope patFull else put ask.1).passed len)) ∧
        ((∃ x ∈ xs, x.2 = none) → exec i s = .next ((spoilt ask.1).passed len))) ∧
      (miss ≠ [] → now = false → s.cur.handler = false →
        (deferLoad (if sl then 1 else if s.cur.arm then 3 else 0) dst.toNat miss (s.cur.pcOf s.curGrp)).run s1 = .ok ((), s2) →
        exec i s = .next ((spoilt s2).passed len))) ∧
    (s.cur.resident = true → OutOp.load ∈ s.cur.outs →
      ∃ t, exec (.loadReturn s.cur.id) s = .next t ∧ t = s.onCur (fun x => { x with outs := t.cur.outs }) ∧
        t.cur.cntLd + 1 = s.cur.cntLd ∧ t.cur.cntSt = s.cur.cntSt) ∧
    (s.Acts true g → addrPois s sa off = true → exec (.prf g sa off lvl) s = .next (s.passed (offLen none off))) ∧
    (s.Acts true g → addrPois s sa off = false → (idxTag off).run s = .ok ((), s) → (∀ q ∈ pes, spaceOf q.ptr ≠ 6) →
      ((∀ q ∈ pes, ptrBad s q.ptr 1 = true ∨ spaceOf q.ptr = 4 ∨ spaceOf q.ptr = 5) →
        exec (.prf g sa off lvl) s = .next (s.passed (offLen none off))) ∧
      ((eachM (prefetchLane lvl) pes).run s = .ok ((), s1) → exec (.prf g sa off lvl) s = .next (s1.passed (offLen none off))))

/-- R169 to R173, R176, R188, R69: `st` and `sst` on present pages, with what they need obtained and held, give the aperture its commands, then write
each lane's element, cut or narrowed as its type says, in lane order, raise `st` by one and OR the flags of the narrowing. Lanes whose command
was enqueued before a stall act no more. A store of scratchpad and vault bytes changes those bytes and no other byte of memory. STORE_PERFORMED
lowers `st`, and STORE_HOLD_RESOLVED lets a held unit issue again; neither changes anything else. -/
def Obligations.StoresWriteMemory : Prop :=
  ∀ (sl : Bool) (g : Gd) (dst sa : BitVec 10) (off : MOff) (scope pol rnd ord : BitVec 3) (ty : BitVec 5) (bpm : Bpm)
    (s s1 s2 s3 s4 s5 s6 : State) (ps : List Pc) (old : List (Pc × Option Nat)),
    let i : Instr := if sl then .sst dst sa off scope pol ord ty bpm else .st g dst sa off scope pol rnd ord ty bpm
    let gd := if sl then noGd else g
    let uni := sl || s.cur.arm
    let rm := rmOf s (if sl then 0 else rnd)
    let k := if uni then 1 else tyRegs ty
    let w := tyBits ty
    let left := s.lanes gd &&& ~~~s.cur.apDone
    let es := (accLanes uni left).map (eaOf s sa off w)
    let vs := es.map fun e => (e, if spaceOf e.ptr = 6 then (dataOf s uni dst k e.lane, 0)
      else storeVal ty (!uni && s.cur.regs.tag dst.toNat == tFP32) rm (dataOf s uni dst k e.lane))
    let cs := vs.map fun v => (v.1, v.2.1)
    let ws := storeWrs w ps old (cs.filter fun c => spaceOf c.1.ptr != 6)
    s.Acts false gd →
    (addrPois s sa off = true ∨ dataPois s uni dst k = true →
      exec i s = .next (s.stopped (.park 0) (s.lanes gd) (s.cur.pcOf s.curGrp) (s.cur.gslices s.curGrp))) ∧
    (addrPois s sa off = false → dataPois s uni dst k = false → (idxTag off).run s = .ok ((), s) → (dataTag uni ty dst k).run s = .ok ((), s) →
      (left = 0 → exec i s = .next (s.passed (offLen bpm off))) ∧
      (left ≠ 0 →
        (resolve .store pol.toNat (bpmOf s bpm) (tyAlign ty) (eaReqs es) (adr := apStore) (ap8 := w == 64)).run s = .ok ((ps, []), s1) →
        (watchTrap true (eaReqs es)).run s1 = .ok ((), s1) → (apTemplates cs).run s1 = .ok ((), s2) → (prepareStore ps).run s2 = .ok ((), s3) →
        (if w < 8 then readHeld ps else pure []).run s3 = .ok (old, s4) → (∀ x ∈ old, x.2 ≠ none) →
        (if ord = 2 then release scope else pure ()).run s4 = .ok ((), s5) → s5.holdsAll ps = true →
        (eachM apCommand cs).run s5 = .ok ((), s6) → s6.holdsAll ps = true →
        let t := s6.performWrs ws
        exec i s = .next (((t.doneLines t.cur.loc.die t.cur.loc.cl ps).onCur fun x => { x with
          outs := x.outs ++ [.store]
          ctl := { x.ctl with fflags := x.ctl.fflags ||| vs.foldl (fun f v => f ||| v.2.2) 0 } }).passed (offLen bpm off)))) ∧
    ((∀ w ∈ ws, w.p.sp = 4 ∨ w.p.sp = 5) →
      let t := s6.performWrs ws
      (∀ a, (∀ w ∈ ws, ¬ (w.p.pa ≤ a ∧ a < w.p.pa + w.p.n)) → t.mem.get a = s6.mem.get a) ∧
      t = { s6 with mem := t.mem, bad := t.bad } ∧ (∀ x ∈ t.bad, x ∈ s6.bad)) ∧
    (s.cur.resident = true →
      (OutOp.store ∈ s.cur.outs → ∃ t, exec (.storePerformed s.cur.id) s = .next t ∧ t = s.onCur (fun x => { x with outs := t.cur.outs }) ∧
        t.cur.cntSt + 1 = s.cur.cntSt ∧ t.cur.cntLd = s.cur.cntLd) ∧
      exec (.storeHoldResolved s.cur.id) s = .next (s.onCur fun x => { x with
        slices := x.slices.map fun c => if c.wait = .again false then { c with wait := .none } else c }))

/-- R57, R170: what a piece of a store leaves is what a load of the same piece by the same cluster reads, for scratchpad and vault bytes and for
untracked write-back lines of device and private space; memory keeps its canonical form; every byte outside a scratchpad or vault piece is
as before, and a write-back piece leaves every byte of memory as it was. R58: LINE_EVICT completes for every line. An untracked or private line
whose home is its own die, and can take it at once, leaves its dirty bytes in memory and no other byte changes; the copy goes and no other does; a
tracked line is given up through its slice; an absent line changes nothing. -/
def Obligations.StoredBytesAreRead : Prop :=
  (∀ (p : Pc) (v : Nat) (s : State),
    let t := s.performWr ⟨p, v⟩
    (p.sp = 4 ∨ p.sp = 5 →
      (∀ i, i < p.n → t.mem.get (p.pa + i) = BitVec.ofNat 8 (v / 2 ^ (8 * i))) ∧
      (∀ a, ¬ (p.pa ≤ a ∧ a < p.pa + p.n) → t.mem.get a = s.mem.get a) ∧
      (s.mem.wf = true → t.mem.wf = true) ∧
      (s.marked p.pa p.n = false → (readPc p).run t = .ok (some (v % 2 ^ (8 * p.n)), t))) ∧
    (p.sp = 0 ∨ p.sp = 3 → p.trk = false → p.cmp = false → p.pol = 1 → p.pa % 64 + p.n ≤ 64 →
      (∀ x, s.cline? s.cur.loc.die s.cur.loc.cl (p.pa / 64) = some x → x.kind.moesi? = none) →
      t.mem = s.mem ∧ (readPc p).run t = .ok (some (v % 2 ^ (8 * p.n)), t))) ∧
  (∀ (d cl la : Nat) (m : BitVec 64) (f mir : Bool) (x : LineData) (o : Nat) (spc : BitVec 3) (st : Moesi) (k : LineKind) (s : State),
    (s.cline? d cl la = none → exec (.lineEvict d cl la) s = .next s) ∧
    (s.cline? d cl la = some ⟨d, cl, la, spc, .tracked st mir, x⟩ →
      exec (.lineEvict d cl la) s = .next ((((s.sliceWbd d cl la).sliceEvc d cl la).watchLoss d cl la).settle settleBound)) ∧
    (k = .untracked m f ∨ k = .priv m f o → s.cline? d cl la = some ⟨d, cl, la, spc, k, x⟩ →
      exec (.lineEvict d cl la) s = .next (((s.cleanLine d cl la).dropCline d cl la).watchLoss d cl la)) ∧
    (k = .untracked m f ∨ k = .priv m f o → s.cline? d cl la = some ⟨d, cl, la, spc, k, x⟩ → s.home la = .dev d → s.homeFree la = true →
      s.lineLost la = false → (∀ z ∈ s.clines, z.la = la → z.kind.moesi? = none) →
      ∃ t, exec (.lineEvict d cl la) s = .next t ∧ t.mem = (if m = 0 then s.mem else putLine s.mem la m x) ∧ t.cline? d cl la = none ∧
        (∀ d' c' l', ¬ (d' = d ∧ c' = cl ∧ l' = la) → t.cline? d' c' l' = s.cline? d' c' l')))

/-- R179 to R182, R188: `atom` and `satom` on present pages, with what they need obtained and held, perform their lanes one after another in ascending
order, give each lane the old value and raise `ld` by one. A lane that is performed in this cluster reads its word and leaves the new value of its
operation; a lane that is performed at a home takes what the home answered with. -/
def Obligations.Atomics : Prop :=
  ∀ (sl : Bool) (g : Gd) (dst sa : BitVec 10) (off : MOff) (scope aop ord : BitVec 3) (ty : BitVec 5) (bpm : Bpm)
    (s s1 s2 s3 s4 s5 : State) (ps : List Pc) (near : List (Pc × Option Nat)) (olds : List (Nat × Nat)) (p1 : Pc) (a x c key1 : Nat) (far : Bool)
    (keys1 : List Nat) (q : SReq) (y : LineData),
    let i : Instr := if sl then .satom dst sa off scope aop ord ty bpm else .atom g dst sa off scope aop ord ty bpm
    let gd := if sl then noGd else g
    let uni := sl || s.cur.arm
    let act := s.lanes gd
    let d := s.cur.loc.die
    let w := tyBits ty
    let k := if uni then 1 else tyRegs ty
    let kk := if aop = 1 then 2 * k else k
    let es := (accLanes uni act).map (eaOf s sa off w)
    let first := fun l => dataOf s uni dst k l % 2 ^ w
    let second := fun l => (if uni then (rVal s (dst + 1)).toNat else vecVal s (dst.toNat + k) k l) % 2 ^ w
    let ops := fun l => if aop = 1 then (second l, first l) else (first l, 0)
    let key := fun (p : Pc) => offKey s.cur.id (if uni then lowLane act else p.lane) (p.pa / 64)
    let keys := ps.map key
    let todo := ps.filter fun p => (s.sent d (key p)).req.isNone
    let waits := ps.any fun p => atomAt scope p == .home || (p.sp == 0 && !p.coherent && !p.keeps)
    let put := fun (u : State) => u.onCur fun t => { t with
      outs := t.outs ++ [.load]
      regs := if uni then t.regs.wrR dst.toNat (BitVec.ofNat 64 (assocD 0 olds 0)) else
        (rangeFrom 0 k).foldl (fun r j => r.wrV t.exist (dst.toNat + j) act (loadTag ty) fun l => BitVec.ofNat 32 (assocD 0 olds l / 2 ^ (32 * j))) t.regs }
    (s.Acts false gd → addrPois s sa off = false → dataPois s uni dst kk = false → (idxTag off).run s = .ok ((), s) →
      (dataTag uni ty dst kk).run s = .ok ((), s) →
      (resolve (.atomic (aopClass aop ty) (scope = 4)) 0 (bpmOf s bpm) (tyAlign ty) (eaReqs es) (spcOk := atomSpc)).run s = .ok ((ps, []), s1) →
      (watchTrap true (eaReqs es)).run s1 = .ok ((), s1) →
      (prepareStore (todo.filter fun p => p.coherent || p.sp == 2)).run s1 = .ok ((), s2) →
      (∀ p ∈ todo, (p.sp = 4 ∨ p.sp = 5 → s.marked p.pa p.n = false) ∧
        (p.sp = 0 → atomAt scope p = .home → s2.lineLost (p.pa / 64) = false ∧ s2.homeGone d (p.pa / 64) = false)) →
      (readHeld (todo.filter fun p => atomAt scope p == .cluster && !p.coherent)).run s2 = .ok (near, s3) → (∀ x ∈ near, x.2 ≠ none) →
      (if 2 ≤ ord.toNat then release scope else pure ()).run s3 = .ok ((), s4) → s4.holdsAll todo = true →
      (mapM' (fun p => do
        let v ← atomLane waits keys scope aop ty (ops p.lane).1 (ops p.lane).2 (key p) p
        pure (p.lane, v)) ps).run s4 = .ok (olds, s5) →
      let u := (ps.filter fun p => (p.sp == 0 && !p.trk) || p.sp == 2).foldl (fun u p => u.notePatina (p.pa / 64)) (s5.dropOff keys)
      let v := put (u.doneLines u.cur.loc.die u.cur.loc.cl ps)
      exec i s = .next ((if ord = 1 ∨ 3 ≤ ord.toNat then v.acquireAct v.cur.loc.die v.cur.loc.cl scope patFull else v).passed (offLen bpm off))) ∧
    (p1.sp = 4 ∨ p1.sp = 5 → s.marked p1.pa p1.n = false → 8 * p1.n = w → (s.sent d key1).req = none →
      let a := ofBytes ((rangeFrom p1.pa p1.n).map s.mem.get)
      let rd := fun n => readI (decide (ty.toNat ≤ 3)) n w
      let t := s.performWr ⟨p1, match aop.toNat with
        | 0 => x
        | 1 => if a = c then x else a
        | 2 => if ty = 0x0D then (addF 0 24 (BitVec.ofNat 32 a) (BitVec.ofNat 32 x)).1.toNat else (a + x) % 2 ^ w
        | 3 => if rd x < rd a then x else a
        | 4 => if rd a < rd x then x else a
        | 5 => a &&& x
        | 6 => a ||| x
        | _ => a ^^^ x⟩
      (atomLane far keys1 scope aop ty x c key1 p1).run s = .ok (a, if far then t.keepAtom key1 (placed p1 a) else t)) ∧
    ((s.sent d key1).req = some q → q.err = false → q.data = some y →
      (atomLane far keys1 scope aop ty x c key1 p1).run s = .ok (lineField y (p1.pa % 64) p1.n, s))

/-- R184 to R189: `srel` makes a release, writes the object's patina, with the deposit recorded, and, at `die` or wider, clears the running patina; it
then writes the object's value and completes. `sacq` gives the object's value, and acquires with the object's patina, which joins the running
one; with CLR it leaves the object's patina 0. `fence` releases, acquires or both; `wait` passes once no counter exceeds its field, 63 asking
nothing, and else waits. -/
def Obligations.SynchronisationObjects : Prop :=
  ∀ (dst sa : BitVec 10) (off : MOff) (scope ord : BitVec 3) (sop : BitVec 2) (fresh clr w : Bool) (n1 n2 n3 n4 : BitVec 6)
    (s s1 s2 s3 s4 s5 : State) (v p : Pc) (x pat key : Nat) (y : LineData),
    let len := offLen none off
    let ptr := (eaOf s sa off 1024 0).ptr
    let d := s.cur.loc.die
    let n := if w then 8 else 4
    let v' := { v with n := n }
    let kR := offKey s.cur.id (lowLane (s.lanes noGd)) (p.pa / 64)
    let kA := offKey s.cur.id (lowLane (s.lanes noGd)) (v.pa / 64)
    let more := fun (k : BitVec 6) c => k ≠ 63 ∧ k.toNat < c
    let free := fun (u : State) => u.doneLines u.cur.loc.die u.cur.loc.cl [v, p]
    (s.Acts false noGd →
      (rPois s sa = false → rPois s dst = false →
        (syncObj (if sop = 0 then .store else .atomic 1 (scope = 4)) sa off).run s = .ok (([v, p], []), s1) →
        (watchTrap true [(0, ptr, 128)]).run s1 = .ok ((), s1) →
        (if (s.sent d kR).req = none then deposit v p kR scope fresh else pure ()).run s1 = .ok ((), s2) →
        (permit v).run s2 = .ok (.ok y, s3) → (readPc v').run s3 = .ok (some x, s4) →
        let r := (rVal s dst).toNat
        exec (.srel dst sa off scope fresh sop w) s = .next ((free ((s4.dropOff [kR]).performWr
          ⟨v', (if sop = 0 then r else if sop = 1 then x + r else x ||| r) % 2 ^ (8 * n)⟩)).passed len)) ∧
      (rPois s sa = false →
        (syncObj (if clr then .atomic 0 false else .load) sa off).run s = .ok (([v, p], []), s1) →
        (watchTrap false [(0, ptr, 128)]).run s1 = .ok ((), s1) →
        (clr = true → (watchTrap true [(0, ptrAdd ptr 64, 64)]).run s1 = .ok ((), s1)) →
        (valueOf kA v').run s1 = .ok (some x, s2) →
        (if clr then permit p else pure (.ok y)).run s2 = .ok (.ok y, s3) →
        (readPc p).run s3 = .ok (some pat, s4) → (clr = true → s4.holdsAll [p] = true) →
        let t := (free ((if clr then s4.performWr ⟨p, 0⟩ else s4).dropOff [kA])).onRegs fun r => r.wrR dst.toNat (BitVec.ofNat 64 x)
        exec (.sacq dst sa off scope clr w) s = .next (((t.acquireAct t.cur.loc.die t.cur.loc.cl scope (BitVec.ofNat 512 pat)).onCur fun q =>
          { q with ctl := { q.ctl with patina := q.ctl.patina ||| BitVec.ofNat 512 pat } }).passed len)) ∧
      ((if 2 ≤ ord.toNat then release scope else pure ()).run s = .ok ((), s1) →
        exec (.fence scope ord) s =
          .next ((if ord = 2 then s1 else s1.acquireAct s1.cur.loc.die s1.cur.loc.cl scope (BitVec.allOnes 512)).passed 8))) ∧
    ((prepareStore [p]).run s1 = .ok ((), s2) → s2.lineLost (v.pa / 64) = false → (release scope).run s2 = .ok ((), s3) →
      s3.holdsAll [p] = true → (readPc p).run s3 = .ok (some pat, s4) →
      let rp := s4.cur.ctl.patina
      let t := (s4.performWr ⟨p, if fresh then rp.toNat else pat ||| rp.toNat⟩).keepAtom key rp
      (deposit v p key scope fresh).run s1 =
        .ok ((), if 2 ≤ scope.toNat then t.onCur fun q => { q with ctl := { q.ctl with patina := 0 } } else t)) ∧
    ((s1.sent s1.cur.loc.die key).req = none → (readPc v').run s1 = .ok (some x, s5) →
      (valueOf key v').run s1 = .ok (some x, s5.keepAtom key (placed v' x))) ∧
    (s.Acts true noGd →
      let long := more n3 s.cur.cntCp ∨ more n4 s.cur.cntMx
      (¬ (more n1 s.cur.cntLd ∨ more n2 s.cur.cntSt ∨ long) → exec (.wait n1 n2 n3 n4) s = .next (s.passed 8)) ∧
      (more n1 s.cur.cntLd ∨ more n2 s.cur.cntSt ∨ long →
        exec (.wait n1 n2 n3 n4) s = .next (s.heldBack (decide long))))

/-- R191, R154: `cmo.wb` and `cmo.wbinv` write back, or give up, the lines of their lanes that are present, at `pkg` and `sys` those that the die's L2
holds as well, and `cmo.iinv` drops their instruction copies; each raises `st`. R192, R66: `dcf` of an empty range does nothing, and of present
compressed pages runs granule by granule; a granule over which the device view's bytes were merged is no longer PACKED, any other is. R193: `pclr`
writes a LOST line at its home and frees it, and answers 1 for another line. R36: a walk sets A in the entry that it answers with, and D for a
write. -/
def Obligations.LinesAndPages : Prop :=
  (∀ (g : Gd) (sa : BitVec 10) (off : MOff) (scope : BitVec 3) (s s1 : State) (ps : List Pc) (miss : List (Nat × Page × Nat)),
    let es := (lanesOf (s.lanes g)).map (eaOf s sa off 8)
    let dd := s1.cur.loc.die
    let cc := s1.cur.loc.cl
    let done := fun (u : State) => Host.Outcome.next ((u.onCur fun t => { t with outs := t.outs ++ [.store] }).passed (offLen none off))
    let on := fun (h : State → Pc → State) => (ps.filter fun q => q.sp != 4 && q.sp != 5).foldl h s1
    let low := fun (inv : Bool) (d : Nat) (u : State) (q : Pc) =>
      if 3 ≤ scope.toNat ∧ u.homedAt d (q.pa / 64) = false then
        let v := u.l2Flush d (q.pa / 64) (q.sp == 7)
        if inv then v.dropL2 d (q.pa / 64) (q.sp == 7) else v
      else u
    s.Acts false g → addrPois s sa off = false → (idxTag off).run s = .ok ((), s) →
    (resolve .load 0 0 1 (eaReqs es)).run s = .ok ((ps, miss), s1) →
    exec (.cmoWb g sa off scope) s = done (on fun u q => low false u.cur.loc.die (if q.sp = 7 then u
      else if q.coherent then u.evictLine u.cur.loc.die u.cur.loc.cl (q.pa / 64)
      else u.cleanLine u.cur.loc.die u.cur.loc.cl (q.pa / 64)) q) ∧
    exec (.cmoWbinv g sa off scope) s = done (on fun u q => low true u.cur.loc.die (if q.sp = 7 then u
      else u.evictLine u.cur.loc.die u.cur.loc.cl (q.pa / 64)) q) ∧
    exec (.cmoIinv g sa off scope) s = done { s1 with ilines := s1.ilines.filter fun y =>
      !(y.die == dd && y.cl == cc && ps.any fun q => q.sp != 4 && q.sp != 5 && q.pa / 64 == y.la) }) ∧
  (∀ (sa sb : BitVec 10) (scope : BitVec 3) (s s1 : State) (xs : List (Nat × WalkRes)) (dies : List Nat) (pa : Nat),
    let ptr := (rVal s sa).toNat
    let n := (rVal s sb).toNat
    (s.Acts false noGd → rPois s sa = false → rPois s sb = false → ptrBad s ptr 0 = false → spaceOf ptr = 0 ∨ spaceOf ptr = 7 →
      ptr % 256 = 0 → n % 256 = 0 → n < 2 ^ 32 → fieldN ptr 0 57 + n ≤ 2 ^ 57 →
      (n = 0 → exec (.dcf sa sb scope) s = .next (s.passed 8)) ∧
      (n ≠ 0 →
        let va := fieldN ptr 0 57
        (mapM' (fun a => do
          let r ← liftS fun u => translate u 0 (spaceOf ptr) (max a va) (.atomic 0 false)
          pure (max a va, r)) (pagesOf va n)).run s = .ok (xs, s1) →
        (∀ y ∈ xs, ∃ pa e sz, y.2 = .ok pa e sz ∧ entCmp e = true) →
        (watchRange true (spaceOf ptr) va n).run s1 = .ok ((), s1) → s1.unperformed s1.cur.loc.die = false →
        let grains := xs.flatMap fun y => match y.2 with
          | .ok pa _ _ => (List.range ((min (va + n) (y.1 / 65536 * 65536 + 65536) - y.1) / 256)).map fun i => (pa, 256 * i)
          | _ => []
        exec (.dcf sa sb scope) s = .next ((grains.foldl (fun u k => u.dcfGranule
          (if 3 ≤ scope.toNat then List.range 8 else u.cur.loc.die :: (match u.home (k.1 / 64) with | .dev h => [h] | _ => [])) (k.1 + k.2)) s1).passed 8))) ∧
    (pa / 256 ∈ (s.dcfGranule dies pa).packed ↔ ∀ y ∈ s.l2, pa / 64 ≤ y.la → y.la < pa / 64 + 4 → y.die ∈ dies → y.comp = false → y.mask = 0)) ∧
  (∀ (dst sa sb : BitVec 10) (s s1 s2 : State) (p : Pc),
    let ptr := (rVal s sa).toNat
    s.Acts false noGd → s.cur.super = true → rPois s sa = false → (∀ i, i < 8 → s.cur.regs.rpois.getLsbD (sb.toNat + i) = false) →
    ptrBad s ptr 64 = false → ptr % 64 = 0 → spaceOf ptr = 0 →
    (resolve .store 0 0 64 [(0, ptr, 64)]).run s = .ok (([p], []), s1) → (watchTrap true [(0, ptr, 64)]).run s1 = .ok ((), s1) →
    p.trk = true → (release 3).run s1 = .ok ((), s2) →
    let lost := (s2.jent (s2.dirDie (p.pa / 64)) (p.pa / 64)).st = .lost
    let bytes := BitVec.ofNat 512 ((List.range 8).map fun i => (s2.cur.regs.rdR (sb.toNat + i)).toNat * 2 ^ (64 * i)).sum
    let t := s2.reclaim (p.pa / 64) bytes
    (lost → exec (.pclr dst sa sb) s = .next ((t.onRegs fun r => r.wrR dst.toNat 0).passed 8) ∧
      memLine t.mem (p.pa / 64) = bytes ∧ (t.jent (t.dirDie (p.pa / 64)) (p.pa / 64)).st = .absent) ∧
    (¬ lost → exec (.pclr dst sa sb) s = .next ((s2.onRegs fun r => r.wrR dst.toNat 1).passed 8))) ∧
  (∀ (w : WalkReq) (s : State),
    let r := walk s w.die w.pasid.toNat w.spc.toNat w.va.toNat (w.pasid == 0) w.acc
    exec (.pageWalk w) s = .next r.1 ∧ ∀ pa e sz, r.2 = .ok pa e sz → entA e = true ∧ (accWrites w.acc = true → entD e = true))

/-- R81, R194: `cbar.test` and `cbar.wait` return FLIPS and ERR and acquire with the slot's patina once FLIPS differs from their register; before, a
`.wait` waits and a `.test` does not acquire; a LOST object poisons the result. `.arm` clears the slot and gives the object its expected count, once
what the die has written is performed. `.arrive` releases, gives the slot the running patina, gives the object its bytes once the slot has taken
it, and clears the running patina at `die` or wider. At its home an update of an object adds an arrival, closes it with an error, or sets EXPECTED
and clears ERR, with at most one flip. A number beyond the table traps ADDR_SPACE. -/
def Obligations.CountBarriers : Prop :=
  (∀ (dst sa sb : BitVec 10) (scope : BitVec 3) (s s1 s2 s3 : State) (obj slot : Nat),
    let k := (rVal s sa).toNat
    let b := s1.cbar obj
    let d := s1.cur.loc.die
    let n := (rVal s1 sb).toNat
    let lost := s1.lineLost (obj / 64) || s1.homeGone d (obj / 64)
    let status : Word := BitVec.ofNat 64 (b.flips + if b.err then 2 ^ 32 else 0)
    let acq := (s1.acquireAct d s1.cur.loc.cl scope (s1.slotAt slot)).onCur fun t => { t with
      ctl := { t.ctl with patina := t.ctl.patina ||| s1.slotAt slot } }
    let wipe := fun (u : State) => u.onCur fun t => { t with ctl := { t.ctl with patina := 0 } }
    s.Acts false noGd →
    ((findBar sa sb false).run s = .ok ((obj, slot), s1) →
      (lost = true →
        let t := ((s1.countErr (obj / 64)).onRegs fun r => r.psnR dst.toNat).passed 8
        exec (.cbarWait dst sa sb scope) s = .next t ∧ exec (.cbarTest dst sa sb scope) s = .next t) ∧
      (lost = false → b.flips ≠ n % 2 ^ 32 →
        exec (.cbarWait dst sa sb scope) s = .next ((acq.onRegs fun r => r.wrR dst.toNat status).passed 8) ∧
        exec (.cbarTest dst sa sb scope) s = .next ((acq.onRegs fun r => r.wrR dst.toNat status).passed 8)) ∧
      (lost = false → b.flips = n % 2 ^ 32 →
        exec (.cbarTest dst sa sb scope) s = .next ((s1.onRegs fun r => r.wrR dst.toNat status).passed 8) ∧
        exec (.cbarWait dst sa sb scope) s =
          .next ((s1.onCur fun t => { t with ctl := { t.ctl with patina := s.cur.ctl.patina } }).heldBack true))) ∧
    ((findBar sa sb true).run s = .ok ((obj, slot), s1) →
      (s1.unperformed d = false →
        exec (.cbarArm sa sb scope) s = .next ((((s1.barUpdate d slot 4 0).barUpdate d obj 2 n).settle settleBound).passed 8)) ∧
      ((release scope).run s1 = .ok ((), s2) →
        let e := s2.cur.loc.die
        let key := offKey s2.cur.id (lowLane (s2.cur.mask s2.curGrp)) (slot / 64)
        s3 = (if (s2.sent e key).req = none then ((s2.barUpdate e slot 3 s2.cur.ctl.patina.toNat).settle settleBound).keepAtom key 0 else s2) →
        s3.barPending e (slot / 64) = false →
        let v := ((s3.dropOff [key]).barUpdate e obj 0 (rVal s3 sb).toNat).settle settleBound
        exec (.cbarArrive sa sb scope) s = .next ((if 2 ≤ scope.toNat then wipe v else v).passed 8))) ∧
    (rPois s sa = false → rPois s sb = false → 2 ^ cbLogn (s.ctx s.cur.pasid).cbarBase ≤ k →
      let bad := s.takeTrap 0x0006 0 0 k (s.lanes noGd) (s.cur.pcOf s.curGrp) (s.cur.gslices s.curGrp)
      exec (.cbarWait dst sa sb scope) s = .next bad ∧ exec (.cbarTest dst sa sb scope) s = .next bad ∧
      exec (.cbarArm sa sb scope) s = .next bad ∧ exec (.cbarArrive sa sb scope) s = .next bad)) ∧
  (∀ (b : CBar) (n : Nat),
    let fl := fun (c : CBar) => if c.expected ≠ 0 ∧ c.expected ≤ c.arrived then
      { c with arrived := c.arrived - c.expected, phase := !c.phase, flips := (c.flips + 1) % 2 ^ 32 } else c
    b.update 0 n = fl { b with arrived := (b.arrived + n) % 2 ^ 64 } ∧
    b.update 1 n = { b with err := true, arrived := 0, phase := !b.phase, flips := (b.flips + 1) % 2 ^ 32 } ∧
    b.update 2 n = fl { b with expected := n % 2 ^ 64, err := false }) ∧
  (∀ (w : HomeWr) (x : LineData) (off op : Nat), off = 0 ∨ off = 32 →
    (∀ j : BitVec 3, j.toNat < 3 → w.atom = some (j, barTy, off, op, 0) → (cbarOf (lineField x off 32)).update j.toNat op =
      cbarOf (lineField (w.new x).1 off 32)) ∧
    (w.atom = some (3, barTy, off, op, 0) → (w.new x).1 = x ||| BitVec.ofNat 512 op) ∧
    (w.atom = some (4, barTy, off, op, 0) → (w.new x).1 = 0))

/-- R69 to R73, R78, R195: a start whose template passes the checks raises `cp` and puts its command last on the channel, with its task reserved where
it counts at one; `cpq` with a full channel waits. A start that a check refuses, and `cpq` with a template index, raises `cp`, sends its close
and ends in the check's code at once. The channel runs its first command. A sector whose stretches can be read is written, at most 256 bytes; once
its writes are performed it commits: its lines go into the barrier's slot, then its bytes arrive. After the last, the copy leaves the channel and
`cp` falls. An abort marks the thread's commands to end in ABORTED, and no other thread's; a command that ends sends its close, and leaves with
its code once what was written is performed. A query answers what the channel holds for the thread, and clears its error. -/
def Obligations.CopyCommands : Prop :=
  ∀ (sa sb : BitVec 10) (ch : BitVec 3) (data : Word) (s s1 s2 s3 : State) (pa : Nat) (trk : Bool) (x : LineData) (k : Copy) (rest : List Copy)
    (src : List Pc) (xs : List (List Pc × Nat)) (v : Nat) (d cl c code : Nat) (b : CloseAt),
    let t := s.cur
    let di := t.loc.die
    let ci := t.loc.cl
    let tmpl := BitVec.ofNat 512 ((List.range 8).map fun i => (t.regs.rdR (sa.toNat + i)).toNat * 2 ^ (64 * i)).sum
    let put := fun (u : State) (q : Copy) =>
      let g := geoOf q.tmpl q.data
      let w := u.modThread q.t fun y => { y with cntCp := y.cntCp + 1 }
      (if 2 ≤ g.ck then w.onTask g.task fun y => { y with resv := y.resv + 1 } else w).onChan di ci ch.toNat fun y => { y with
        cmds := y.cmds ++ [if 2 ≤ g.ck then { q with resv := some g.task } else q]
        errs := y.errs.filter fun e => e.1 != q.t }
    let cq := Copy.fresh t (s.ctx t.pasid) tmpl (rVal s sb)
    let bad := if (rVal s sb).toNat % 4096 = 0 then s.copyCheck di ci cq else some 1
    let my := s.chan di ci ch.toNat
    let mine := my.cmds.filter fun q => q.t == t.id
    let q := (s.query t ch.toNat).2.toNat
    (s.Acts false noGd → rPois s sb = false → (∀ i, i < 8 → t.regs.rpois.getLsbD (sa.toNat + i) = false) →
      (16 ≤ my.cmds.length → exec (.cpq sa sb ch) s = .next (s.heldBack true)) ∧
      (my.cmds.length < 16 → bad = none → exec (.cpq sa sb ch) s = .next ((put s cq).passed 8)) ∧
      (my.cmds.length < 16 → bad = some code → s.closeAt di ci cq = (s1, b) → b ≠ .busy → exec (.cpq sa sb ch) s = .next
        ((((s1.modThread t.id fun y => { y with cntCp := y.cntCp + 1 }).sendClose di b).copyError di ci ch.toNat cq code true).passed 8))) ∧
    (t.resident = true →
      (s.tmplFind t data = (s1, .here pa trk) → (s1.chan di ci ch.toNat).cmds.length < 16 →
        let p : Pc := ⟨0, 0, pa, 0, 64, 3, trk, false, false, 0⟩
        s1.engineLine di ci p = (s2, .ok x) →
        let cs := Copy.fresh t (s2.ctx t.pasid) x data
        (s2.doneLines di ci [p]).copyCheck di ci cs = none →
        exec (.copyStart t.id ch data) s = .next (put (s2.doneLines di ci [p]) cs)) ∧
      exec (.copyAbort t.id ch) s = .next (s.onChan di ci ch.toNat fun y => { y with
        cmds := y.cmds.map fun q => if q.t = t.id ∧ q.ending = none then { q with ending := some (7, false) } else q }) ∧
      (exec (.copyQuery t.id ch) s = .next (s.setChan { my with errs := my.errs.filter fun e => e.1 != t.id }) ∧
        (my.cmds.length ≤ 16 → (∀ y ∈ my.cmds, y.committed < 2 ^ 48) →
          bitN q 63 = (mine.any fun y => y.running) ∧ bitN q 62 = (assocD 0 my.errs t.id != 0) ∧
          fieldN q 56 6 = (mine.filter fun y => !y.running).length ∧ fieldN q 48 8 = (assocD 0 my.errs t.id).toNat ∧
          fieldN q 0 48 = ((mine.find? fun y => y.running).map fun y => y.committed).getD 0))) ∧
    ((s.chan d cl c).cmds = k :: rest →
      let g := geoOf k.tmpl k.data
      let e := min (k.committed + 256) g.total
      let step := exec (.copySectorCommit d cl c) s
      let on := k.running = true ∧ k.stopped = none ∧ k.lostLine = none ∧ k.committed < g.total ∧ ∀ y ∈ k :: rest, y.ending = none
      let out := fun (u : State) => u.onChan d cl c fun y => { y with cmds := rest }
      exec (.copyCommandDequeue d cl c) s = .next (s.onChan d cl c fun y => { y with cmds := { k with running := true } :: rest }) ∧
      (on → k.sent = none → s.sectorRead d cl c k g (rowSegs g.rowBytes 257 k.committed e) = (s2, .ok src xs) →
        s2.sectorWrite d cl xs = (s3, .ok v) →
        step = .next ((s3.doneLines d cl src).setHead d cl c
          { k with sent := some (e, xs.foldl (fun q y => q ||| sectorLines y.1) 0, false) })) ∧
      (∀ to_ pat slotted, on → k.sent = some (to_, pat, slotted) →
        (s.unperformed d = true → step = .next s) ∧
        (s.unperformed d = false →
          let moved := { k with committed := to_, lines := k.lines ||| pat, sent := none }
          (g.ck % 2 = 0 → step = .next (s.setHead d cl c moved)) ∧
          (∀ obj slot, g.ck % 2 = 1 → s.copyBarrier d cl k g = (s1, some (.ok obj slot)) →
            (slotted = true ∨ pat = 0 → step = .next ((s1.setHead d cl c moved).barUpdate d obj 0 (to_ - k.committed))) ∧
            (slotted = false → pat ≠ 0 → step = .next ((s1.setHead d cl c { k with sent := some (to_, pat, true) }).barUpdate d slot 3 pat.toNat))))) ∧
      (k.ending = some (code, false) → s.closeAt d cl k = (s1, b) → b ≠ .busy →
        step = .next ((s1.onChan d cl c fun y => { y with cmds := y.cmds.set 0 { k with ending := some (code, true) } }).sendClose d b)) ∧
      (k.ending = some (code, true) → s.unperformed d = false → k.t ≠ 0 → k.resv = none →
        let u := (out s).modThread k.t fun y => { y with cntCp := y.cntCp - 1 }
        step = .next ((if ∀ y ∈ rest, y.t ≠ k.t then u.onChan d cl c fun y => { y with errs := assocSet y.errs k.t (BitVec.ofNat 8 code) }
          else u).monitor d 1)) ∧
      (k.running = true → k.ending = none → g.total ≤ k.committed → s.unperformed d = false → k.resv = none → k.t ≠ 0 →
        exec (.copyComplete d cl c) s = .next ((out s).modThread k.t fun y => { y with cntCp := y.cntCp - 1 })))

/-! ### Tiles and residue arrays (R120 to R131, R224 to R248) -/

/-- R227 to R229, R240 to R246: the tile instructions on tiles that are not claimed and not awaited. `tcfg` sets the count within the reservation, or
answers 1 or 2 and changes no tile; `trel` gives the tiles up; `tzero`, `tmov` and `tscl` write whole tiles or registers and nothing else; `tld`
and `tst` move sixteen rows. A claimed tile traps TILE_BUSY. TLD_COMPLETE ends the oldest `tld`'s wait. -/
def Obligations.TileInstructions : Prop :=
  ∀ (dst sa : BitVec 10) (sb : Src) (sc : BitVec 10) (cnt s6 : BitVec 6) (zm relu now : Bool) (off : MOff) (pol rnd : BitVec 3) (ty : BitVec 5)
    (s s1 s2 : State) (ps : List Pc) (xs : List (Pc × Option Nat)) (o : OutOp),
    let t := s.cur
    let r := t.regs
    let n := t.nlanes
    let free := fun (ts : List Nat) => (∀ k ∈ ts, t.claimed k = false) ∧ ∀ k ∈ ts, t.tileOut k = false
    let busy := s.takeTrap 0x000B 0 0 0 (s.lanes noGd) (s.cur.pcOf s.curGrp) (s.cur.gslices s.curGrp)
    let idle := t.claims = [] ∧ ∀ k, OutOp.tile k ∉ t.outs
    let val := fun (q : Regs) k e => if q.tTag k = tNIL then 0 else q.rdT k e
    -- `q` is `r` but for whole tiles
    let but := fun (r q : Regs) (ks : List Nat) =>
      (∀ k, k ∉ ks → q.tTag k = r.tTag k ∧ ∀ e, e < 256 → q.rdT k e = r.rdT k e) ∧ q = { r with tile := q.tile, ttag := q.ttag }
    let cut := fun (keep : Nat → Bool) => (List.range 64).foldl (fun q k => if keep k then q else q.clrT k) r
    let c := ctlVal s sb % 2 ^ 32
    let row := fun (i : Nat) => ptrAdd (rVal s sa).toNat (offOf s off 0 + sextN (r.rdR s6.toNat).toNat 32 * i)
    let w := fmtBits (fmtOfTy ty)
    let rs : Reqs := (List.range 16).map fun i => (i, row i, 2 * w)
    let al := if w < 8 then 1 else min (w / 8) 4
    (s.Acts false noGd →
      (ctlPois s sb = false → idle →
        (t.resv < c → exec (.tcfg dst sb zm) s = .next ((s.onRegs fun q => q.wrR dst.toNat 2).passed (srcLen sb))) ∧
        (c ≤ t.resv → t.resvHeld = false → s.freeTiles t.loc.die t.loc.cl t.loc.core < t.resv →
          exec (.tcfg dst sb zm) s = .next ((s.onRegs fun q => q.wrR dst.toNat 1).passed (srcLen sb))) ∧
        (c ≤ t.resv → t.resvHeld = true ∨ t.resv ≤ s.freeTiles t.loc.die t.loc.cl t.loc.core →
          exec (.tcfg dst sb zm) s = .next ((s.onCur fun t => { t with
            resvHeld := true, tcount := c
            regs := (cut fun k => t.resvHeld && !zm && decide (k < min t.tcount c)).wrR dst.toNat 0 }).passed (srcLen sb)))) ∧
      (idle → exec .trel s = .next ((s.onCur fun t => { t with resvHeld := false, tcount := 0, regs := cut fun _ => false }).passed 8)) ∧
      (t.claims ≠ [] → (∀ k, OutOp.tile k ∉ t.outs) → exec .trel s = .next busy ∧ (ctlPois s sb = false → exec (.tcfg dst sb zm) s = .next busy)) ∧
      (free ((List.range (cnt.toNat + 1)).map (dst.toNat + ·)) → ∃ q, exec (.tzero dst cnt) s = .next ((s.onRegs fun _ => q).passed 8) ∧
        but r q ((List.range (cnt.toNat + 1)).map (dst.toNat + ·)) ∧
        ∀ k, k ≤ cnt.toNat → q.tTag (dst.toNat + k) = tFP32 ∧ ∀ e, e < 256 → q.rdT (dst.toNat + k) e = 0) ∧
      (free [sa.toNat] → n ≤ 32 → ∃ q, exec (.tmovTov dst sa) s = .next ((s.onRegs fun _ => q).passed 8) ∧ r.Kept q [.v dst.toNat (tmovRegs n)] ∧
        ∀ k, k < tmovRegs n →
          (r.tTag sa.toNat = tPSN → q.tag (dst.toNat + k) = tPSN ∧ ∀ l, l < 32 → q.rdV (dst.toNat + k) l = r.rdV (dst.toNat + k) l) ∧
          (r.tTag sa.toNat ≠ tPSN → q.tag (dst.toNat + k) = tFP32 ∧ ∀ l, l < 32 → q.rdV (dst.toNat + k) l =
            if l < n ∧ k * n + l < 256 then val r sa.toNat (k * n + l) else r.rdV (dst.toNat + k) l)) ∧
      (free [dst.toNat] →
        let bad := ∃ k, k < tmovRegs n ∧ r.tag (sa.toNat + k) = tPSN
        (bad → exec (.tmovFromv dst sa) s = .next ((s.onRegs fun q => q.psnT dst.toNat).passed 8)) ∧
        (¬ bad → t.ctl.tagchk = false ∨ (∀ k, k < tmovRegs n → r.tag (sa.toNat + k) = tFP32 ∨ r.tag (sa.toNat + k) = tNIL) →
          ∃ q, exec (.tmovFromv dst sa) s = .next ((s.onRegs fun _ => q).passed 8) ∧ but r q [dst.toNat] ∧ q.tTag dst.toNat = tFP32 ∧
            ∀ e, e < 256 → q.rdT dst.toNat e = r.rdV (sa.toNat + e / n) (e % n))) ∧
      (free [dst.toNat, sa.toNat] →
        (r.tTag sa.toNat = tPSN → exec (.tmovTot dst sa) s = .next ((s.onRegs fun q => q.psnT dst.toNat).passed 8)) ∧
        (r.tTag sa.toNat ≠ tPSN → ∃ q, exec (.tmovTot dst sa) s = .next ((s.onRegs fun _ => q).passed 8) ∧ but r q [dst.toNat] ∧
          q.tTag dst.toNat = r.tTag sa.toNat ∧ ∀ e, e < 256 → q.rdT dst.toNat e = r.rdT sa.toNat e) ∧
        (s.Takes s1 [(srcOpd true .fp 1 sb, anyTag)] → rPois s sc = false → r.tTag sa.toNat ≠ tPSN →
          let f := BitVec.ofNat 32 ((srcOpd true .fp 1 sb).val s1 0)
          let el := fun e =>
            let x := fmaF (rmOf s1 rnd) 24 (val s1.cur.regs sa.toNat e) f ((rVal s1 sc).setWidth 32)
            (if relu && x.1.getLsbD 31 && !(unpackF x.1).isNan then 0 else x.1, x.2)
          ∃ q, exec (.tscl dst sa sb sc relu rnd) s = .next (((s1.onRegs fun _ => q).onCur fun t => { t with
              ctl := { t.ctl with fflags := t.ctl.fflags ||| (List.range 256).foldl (fun f e => f ||| (el e).2) 0 } }).passed 8) ∧
            but s1.cur.regs q [dst.toNat] ∧ q.tTag dst.toNat = tFP32 ∧ ∀ e, e < 256 → q.rdT dst.toNat e = (el e).1)) ∧
      (t.claimed dst.toNat = true → exec (.tzero dst cnt) s = .next busy ∧ exec (.tmovFromv dst sa) s = .next busy ∧
        exec (.tmovTot dst sa) s = .next busy ∧ (nichesOf [(srcOpd true .fp 1 sb, anyTag)] = [] → exec (.tscl dst sa sb sc relu rnd) s = .next busy) ∧
        (rPois s sa = false → r.rpois.getLsbD s6.toNat = false → exec (.tst dst sa off pol s6 rnd ty) s = .next busy)) ∧
      (free [dst.toNat] → rPois s sa = false → r.rpois.getLsbD s6.toNat = false → r.tTag dst.toNat ≠ tPSN →
        (resolve .store pol.toNat t.ctl.bpm.toNat al rs (spcOk := atomSpc)).run s = .ok ((ps, []), s1) →
        (watchTrap true rs).run s1 = .ok ((), s1) → (prepareStore ps).run s1 = .ok ((), s2) → (∀ p ∈ ps, p.lane < 16) →
        let el := fun e => tstEl ty (rmOf s rnd) (val r dst.toNat e)
        let line := fun i => ((List.range 16).map fun j => (el (16 * i + j)).1 * 2 ^ (j * w)).sum
        let u := s2.performWrs (ps.map fun p => ⟨p, fieldN (line p.lane) (8 * p.off) (8 * p.n)⟩)
        exec (.tst dst sa off pol s6 rnd ty) s = .next (((u.doneLines u.cur.loc.die u.cur.loc.cl ps).onCur fun t => { t with
          outs := t.outs ++ [.store]
          ctl := { t.ctl with fflags := t.ctl.fflags ||| (List.range 256).foldl (fun f e => f ||| (el e).2) 0 } }).passed (offLen none off)))) ∧
    (s.Acts true noGd → free [dst.toNat] →
      (rPois s sa = true ∨ r.rpois.getLsbD s6.toNat = true →
        exec (.tld dst sa off pol s6 now ty) s = .next ((s.onRegs fun q => q.psnT dst.toNat).passed (offLen none off))) ∧
      (rPois s sa = false → r.rpois.getLsbD s6.toNat = false →
        (resolve .load pol.toNat t.ctl.bpm.toNat al rs (spcOk := atomSpc)).run s = .ok ((ps, []), s1) →
        (watchTrap false rs).run s1 = .ok ((), s1) → (readPcs ps).run s1 = .ok (xs, s2) → (∀ x ∈ xs, x.2 ≠ none) →
        ∃ q, exec (.tld dst sa off pol s6 now ty) s = .next (((s2.onRegs fun _ => q).onCur fun t => { t with
            outs := t.outs ++ [.tile dst.toNat] }).passed (offLen none off)) ∧
          but s2.cur.regs q [dst.toNat] ∧ q.tTag dst.toNat = tFP32 ∧
          ∀ e, e < 256 → q.rdT dst.toNat e = elemF (fmtOfTy ty) (fieldN (laneVal xs (e / 16)) (e % 16 * w) w))) ∧
    (t.resident = true → t.outs = o :: t.outs.tail → (∃ k, o = .tile k) →
      exec (.tldComplete t.id) s = .next (s.onCur fun t => { t with outs := t.outs.tail }))

/-- R120 to R130, R233 to R239, R247, R248: `mma` with sound layouts joins its partition's queue, claims its tile and raises `mx`; `mbat` closes the
open batch under the next number; `mwait` waits for its batch, then frees the claims it covers and gives `mxerr`. The first command of a queue
starts when no earlier one to its tile is pending; a command with four ahead may move to an idle neighbour; a running command adds one block,
rounded once an element, an exact zero to -0 under RDN and else to +0; a marked word ends it in DATA; when it is over, `mx` falls and its batch completes with its last command. -/
def Obligations.MatrixCommands : Prop :=
  ∀ (dst sa sb : BitVec 10) (src : Src) (rnd : BitVec 3) (sca scb x3 all : Bool) (nb : BitVec 5) (kb : BitVec 2) (ty : BitVec 5)
    (d core part : Nat) (c : MCmd) (rest : List MCmd) (s : State),
    let t := s.cur
    let k := 32 * 2 ^ kb.toNat
    let here := s.mq t.loc.die (t.loc.cl * 4 + t.loc.core) t.loc.part
    let cmd : MCmd := ⟨t.id, t.loc.cl, layReg s sa, layReg s sb, k, nb.toNat + 1, ty, x3, sca, scb, rmOf s rnd, dst.toNat, none, 0, false, false,
      false, s.issued⟩
    let ok := ∀ i, i < 3 → t.regs.rpois.getLsbD (sa.toNat + i) = false ∧ t.regs.rpois.getLsbD (sb.toNat + i) = false
    let chk := layCheck (layOf (layReg s sa)) (layOf (layReg s sb)) (fmtOfTy ty) k (nb.toNat + 1) sca scb (s.tcl t).scratch
    let mine := fun (P : MCmd → Prop) => ∃ q ∈ s.mqs, ∃ x ∈ q.cmds, x.t = t.id ∧ P x
    let b := BitVec.ofNat 8 (ctlVal s src)
    let q := s.mq d core part
    let before := ∃ y ∈ s.mqs, ∃ x ∈ y.cmds, x.t = c.t ∧ x.tile = c.tile ∧ x.seq < c.seq
    let ra := (List.range 16).map (rowKeys d c)
    let rb := (List.range 16).map (colKeys d c)
    let bad := (∃ z ∈ ra, s.keysBad c.sca z = true) ∨ ∃ z ∈ rb, s.keysBad c.scb z = true
    let vec := fun (l : BitVec 96) (sc : Bool) z => quantVec (layOf l).fmt c.x3 (z.map fun y => s.fetchEl (layOf l) y sc)
    let end_ := fun (u : State) => u.modThread c.t fun y => { y with
      cntMx := y.cntMx - 1
      batches := if (u.anyCmd fun x => x.t == c.t && x.bat == c.bat) then y.batches else y.batches.filter fun b => some b != c.bat }
    (s.Acts false noGd →
      (ok → (∀ e, chk = some e → exec (.mma dst sa sb rnd sca scb nb kb x3 ty) s =
          .next (s.takeTrap e 0 0 0 (s.lanes noGd) (t.pcOf s.curGrp) (t.gslices s.curGrp))) ∧
        (chk = none → t.tileOut dst.toNat = false → here.cmds.length < 16 →
          exec (.mma dst sa sb rnd sca scb nb kb x3 ty) s = .next (((s.setMq { here with cmds := here.cmds ++ [cmd] }).onCur fun t => { t with
            cntMx := t.cntMx + 1
            claims := t.claims.filter (fun x => x.1 != dst.toNat) ++ [(dst.toNat, none)] }).passed 8))) ∧
      (t.batches.length < 16 → t.nextBat ∉ t.batches →
        exec (.mbat dst) s = .next (((s.mapCmds t.id fun c => if c.bat = none then { c with bat := some t.nextBat } else c).onCur fun y => { y with
          regs := y.regs.wrR dst.toNat (t.nextBat.setWidth 64)
          batches := if (s.anyCmd fun x => x.t == t.id && x.bat.isNone) then t.batches ++ [t.nextBat] else t.batches
          claims := t.claims.map fun x => if x.2 = none then (x.1, some t.nextBat) else x
          nextBat := t.nextBat + 1 }).passed 8)) ∧
      (16 ≤ t.batches.length → (mine fun x => x.bat = none) → exec (.mbat dst) s = .next (s.heldBack true)) ∧
      (all = true ∨ ctlPois s src = false →
        let open_ := if all then t.cntMx ≠ 0 else b ∈ t.batches
        (open_ → exec (.mwait dst all src) s = .next (s.heldBack true)) ∧
        (¬ open_ → exec (.mwait dst all src) s = .next ((s.onCur fun y => { y with
          claims := if all then [] else y.claims.filter fun x => x.2 != some b
          regs := y.regs.wrR dst.toNat (y.ctl.mxerr.setWidth 64) }).passed (srcLen src))))) ∧
    (q.cmds = c :: rest →
      (c.started = false → c.failed = false →
        (¬ before → exec (.mmaCommandStart d core part) s = .next (s.setMq { q with cmds := { c with started := true } :: rest })) ∧
        (before → exec (.mmaCommandStart d core part) s = .next s)) ∧
      (c.started = true → c.failed = false → c.blk < c.nb →
        (¬ bad → ∃ u, exec (.mmaBlockAccumulate d core part) s = .next u ∧
          u = (s.modThread c.t fun y => { y with regs := y.regs.accumulate c (ra.map (vec c.la c.sca)) (rb.map (vec c.lb c.scb)) }).setMq
            { q with cmds := { c with blk := c.blk + 1 } :: rest }) ∧
        (∀ (y : Thread) (a z : List QVec) (e : Nat), y.regs.tTag c.tile ≠ tPSN → e < 256 →
          let f := unpackF (y.regs.tileVal c.tile e)
          let v := blockSum c.x3 (a.getD (e / 16) none) (z.getD (e % 16) none)
          let zero := ∃ n m i n' m' j, f = .fin n m i ∧ v = .fin n' m' j ∧ sumAt (min i j) [f, v] = 0
          (zero → (y.regs.accumulate c a z).rdT c.tile e = if c.mode = 2 then 0x80000000 else 0) ∧
          (¬ zero → (y.regs.accumulate c a z).rdT c.tile e = (sumF c.mode 24 [f, v]).1)) ∧
        (bad → (∀ y ∈ s.mqs, ∀ x ∈ y.cmds, x.t = c.t → x.tile = c.tile → x.seq ≤ c.seq) → (∃ y ∈ s.mqs, y = q) →
          exec (.mmaBlockAccumulate d core part) s =
            .next (((s.setMq { q with cmds := { c with failed := true } :: rest }).modThread c.t fun y => y.mxFail c 1).monitor d 9))) ∧
      (c.started = true → c.failed = true ∨ c.nb ≤ c.blk →
        exec (.mmaCommandComplete d core part) s = .next (end_ (s.setMq { q with cmds := rest })))) ∧
    (∀ a i, q.cmds[i]? = some a → 4 ≤ i → s.mayMove a i = true → (∀ j, j < i → ∀ z, q.cmds[j]? = some z → s.mayMove z j = false) →
      let up := (part + 1) % 32
      let down := (part + 31) % 32
      ((s.mq d core up).cmds = [] → exec (.mmaMigrate d core part) s = .next
        ((s.setMq { q with cmds := q.cmds.eraseIdx i }).setMq ⟨d, core, up, [{ a with moved := true }]⟩)) ∧
      ((s.mq d core up).cmds ≠ [] → (s.mq d core down).cmds = [] → exec (.mmaMigrate d core part) s = .next
        ((s.setMq { q with cmds := q.cmds.eraseIdx i }).setMq ⟨d, core, down, [{ a with moved := true }]⟩)) ∧
      ((s.mq d core up).cmds ≠ [] → (s.mq d core down).cmds ≠ [] → exec (.mmaMigrate d core part) s = .next s))

/-! ### Coherence (R250 to R269, R298, R299) -/

/-- R250, R251, R253, R258: a cluster's request that its die's permission covers is resolved at the slice: for a read other copies go M to O and E to S and
the reader gets S, or E where it is alone under E or M; for a write every other copy goes and the writer gets M; data are those of the die, and the
home's slice itself keeps no copy. A request that is not covered goes to the line's directory under a free number and is awaited; one that arrives
meanwhile waits behind it, and a request made again is the same one. A full set of the slice gives up its oldest entry, with every cluster's copy
of that line. A dirty line that a home holds alone is written back to its memory; a clean copy goes without a write. -/
def Obligations.SliceRequests : Prop :=
  ∀ (d cl la : Nat) (mir : Bool) (s : State),
    let u := s.sliceRoom d la
    let dp := u.dpOf d la
    let e := s.sent d la
    let spc : BitVec 3 := if s.home la = .host then 1 else 0
    let alone := ∀ x ∈ u.copies d la, x.cl = cl
    let own := ∃ x, u.cline? d cl la = some x ∧ x.kind.moesi? ≠ none
    let down := fun (x : CLine) => match x.kind with
      | .tracked .m b => { x with kind := .tracked .o b }
      | .tracked .e b => { x with kind := .tracked .s b }
      | _ => x
    let ask := fun (op : Mop) =>
      let w := (u.setSent { u.sent d la with
        req := some ⟨cl, op, u.freshTx d, mir, 0, none, false, (u.die d).fclk.toNat, u.dirDie la, u.nextTx⟩ }).bumpTx
      if u.inCensus (u.dirDie la) la then w else w.send op { mkMsg (u.dirDie la) d la (u.freshTx d) with mir := mir }
    let later := fun (op : Mop) (b : Bool) => if (cl, op, b) ∈ e.wq then s else s.setSent { e with wq := e.wq ++ [(cl, op, b)] }
    let op : Mop := if (s.cline? d cl la).any fun x => x.kind.moesi?.isSome then .upg else .rdx
    let set := s.sdir.filter fun z => z.die == d && !z.pres.isEmpty && sliceOf z.la == sliceOf la && sliceSet z.la == sliceSet la
      && s.homedAt d z.la == s.homedAt d la
    (set.length < 16 ∨ (∃ z ∈ set, z.la = la) → u = s) ∧
    (∀ v, 16 ≤ set.length → (∀ z ∈ set, z.la ≠ la) → set.find? (fun z => z.req.isNone) = some v → (s.sent d v.la).req = none →
      (∀ x ∈ s.copies d v.la, s.cline? d x.cl v.la = some x) → u.copies d v.la = []) ∧
    ((∃ n, n < 4096 ∧ u.txBusy d n = false) → u.txBusy d (u.freshTx d) = false) ∧
    (∀ q, e.req = some q →
      (∀ o i, (o, i) ∈ [(Mop.rds, Instr.sliceRds d cl la mir), (.rdx, .sliceRdx d cl la mir), (op, .sliceUpg d cl la mir)] →
        exec i s = .next (if q.cl = cl ∧ q.op = o then s else later o mir)) ∧
      exec (.sliceWbd d cl la) s = .next (later .wbd false) ∧ exec (.sliceEvc d cl la) s = .next (later .evc false)) ∧
    (e.req = none →
      (dp ≠ .i → ¬ own → cl ≠ 31 → ∃ t, exec (.sliceRds d cl la mir) s = .next t ∧ t.mem = u.mem ∧ t.msgs = u.msgs ∧
        t.cline? d cl la = some ⟨d, cl, la, spc, .tracked (if alone ∧ (dp = .e ∨ dp = .m) then .e else .s) mir, u.dieData d la⟩ ∧
        (∀ c, c ≠ cl → t.cline? d c la = (u.cline? d c la).map down) ∧
        (∀ d' c l, d' ≠ d ∨ l ≠ la → t.cline? d' c l = u.cline? d' c l)) ∧
      (dp = .i → exec (.sliceRds d cl la mir) s = .next (ask .rds)) ∧
      (dp = .e ∨ dp = .m → ∀ i, i = Instr.sliceRdx d cl la mir ∨ i = .sliceUpg d cl la mir →
        (cl ≠ 31 → ∃ t, exec i s = .next t ∧ t.mem = u.mem ∧ t.msgs = u.msgs ∧
          t.cline? d cl la = some ⟨d, cl, la, spc, .tracked .m mir, u.dieData d la⟩ ∧
          (∀ x ∈ t.clines, x.die = d → x.la = la → x.kind.moesi? ≠ none → x.cl = cl) ∧
          (∀ d' c l, d' ≠ d ∨ l ≠ la → t.cline? d' c l = u.cline? d' c l)) ∧
        (cl = 31 → ∃ t, exec i s = .next t ∧ t.mem = putLine u.mem la fullMask (u.dieData d la) ∧ t.copies d la = [])) ∧
      (dp ≠ .e → dp ≠ .m → exec (.sliceRdx d cl la mir) s = .next (ask .rdx) ∧ exec (.sliceUpg d cl la mir) s = .next (ask op)) ∧
      (∀ x, s.cline? d cl la = some x →
        (x.kind.moesi? = some .m ∨ x.kind.moesi? = some .o → s.home la = .dev d → e.exp = false →
          ∃ t, exec (.sliceWbd d cl la) s = .next t ∧ t.mem = putLine s.mem la fullMask x.data ∧ t.cline? d cl la = none ∧ t.msgs = s.msgs) ∧
        (x.kind.moesi? = some .m ∨ x.kind.moesi? = some .o → s.home la ≠ .dev d → s.cut d (s.dirDie la) = false →
          ∃ t k n, exec (.sliceWbd d cl la) s = .next t ∧ t.mem = s.mem ∧ t.cline? d cl la = none ∧
            t.msgs = s.msgs ++ [(.wbd, { mkMsg (s.dirDie la) d la n with lines := [(fullMask, x.data)], mir := k })]) ∧
        (x.kind.moesi? = some .e ∨ x.kind.moesi? = some .s →
          ∃ t, exec (.sliceEvc d cl la) s = .next t ∧ t.mem = s.mem ∧ t.cline? d cl la = none)))

/-- R257 to R261, R269, R273: a request at its junction. On a line in transition it waits; on a LOST line it is refused; a line that the host may
cache is asked back first; a full set gives up its oldest entry by a recall, which holds the request, and where no entry can leave the request is
sent back, or waits at raised priority. Else the entry takes the transaction under a free number, and the table says who is asked for what: the home
on an absent entry, the nearest sharer, the owner, or every other sharer. The owner's `WbD` and a holder's `Evc` leave the entry. -/
def Obligations.JunctionRequests : Prop :=
  ∀ (m : Msg) (x : LineData) (s : State),
    let d := m.dst
    let la := m.la
    let q := m.req
    let j := s.jent d la
    let now := (s.die d).fclk.toNat
    let set := s.jset d la
    let k := { j with
      holders := j.holders.filter fun y => !(s.die y).failed || (y == j.owner && j.st != JSt.sh)
      fenced := j.fenced.filter (· != q) }
    let tx := fun (op : Mop) (sup : Option Nat) (acks : List Nat) => (⟨op, m, acks, false, false, now, none, s.freshTx d, sup⟩ : JTx)
    let begin_ := fun (u : State) (k : JEnt) (op : Mop) (sup : Option Nat) (acks : List Nat) =>
      (u.setJent { k with tx := some (tx op sup acks) }).bumpTx
    let asks := fun (snp op : Mop) (y : Nat) (rest : List Nat) =>
      State.snoop (begin_ s k op (some y) (y :: rest)) snp k (tx op (some y) []) y
    let others := k.holders.filter (· != q)
    let op := fun (i : Instr) => if i = .rds m then Mop.rds else if i = .rdx m then .rdx else .upg
    let left := { j with
      holders := j.holders.filter (· != m.src)
      st := if (j.holders.filter (· != m.src)).isEmpty then .absent else if (j.st = .own ∨ j.st = .os) ∧ j.owner = m.src then .sh else j.st }
    let frees := fun (u : State) => match (u.die d).raised.find? fun p => p.2.la % 65536 == la % 65536 with
      | some p => { u.onDie d (fun z => { z with raised := z.raised.erase p }) with msgs := p :: u.msgs }
      | none => u
    let open_ := fun (z : JEnt) => z ∈ set ∧ z.tx = none ∧ z.st ≠ .lost
    s.dead d = false → m.toSlice = false → s.inCensus d la = false →
    (∀ i, i = Instr.rds m ∨ i = .rdx m ∨ i = .upg m →
      (j.st = .lost → exec i s = .next ((s.setJent { j with errs := j.errs + 1 }).send .err (mkMsg q d la m.rtx))) ∧
      (j.st ≠ .lost → j.tx ≠ none → exec i s = .next (s.setJent { j with wq := j.wq ++ [(op i, m)] })) ∧
      (j.st ≠ .lost → j.tx = none → i ≠ .rds m → s.host.filter.contains la = true → exec i s = .next (s.biSnoop la (op i) m)) ∧
      (j.st = .absent → j.tx = none → i = .rds m ∨ s.host.filter.contains la = false →
        (j.holders = [] → set.length < 16 ∨ s.home la = .host →
          let o := if i = .rds m then Mop.rds else .rdx
          let u := s.onDie d fun y => { y with jseq := y.jseq + 1 }
          exec i s = .next (State.askHome (begin_ u { k with mir := m.mir, host := decide (s.home la = .host), seq := (s.die d).jseq } o none
            [s.homeAck la]) o d la)) ∧
        (16 ≤ set.length → s.home la ≠ .host →
          (∀ v, open_ v → (∀ z, open_ z → z ≠ v → v.seq < z.seq) → exec i s = .next (s.jRecall v (some (op i, m)))) ∧
          ((∀ z, ¬open_ z) → m.pri = false → exec i s = .next (s.send .retry (mkMsg q d la m.rtx))) ∧
          ((∀ z, ¬open_ z) → m.pri = true → exec i s = .next (s.onDie d fun y => { y with raised := y.raised ++ [(op i, m)] }))))) ∧
    (j.tx = none → j.st = .sh →
      (∀ y, s.nearest q others = some y → exec (.rds m) s = .next (asks .snpf .rds y [])) ∧
      (s.host.filter.contains la = false → q ∈ j.holders → (∃ y ∈ others, y < 300) → s.home la ≠ .host → exec (.upg m) s =
        .next (others.foldl (fun u y => u.snoop .snpi k (tx .upg none []) y) (begin_ s k .upg none others))) ∧
      (∀ y, s.host.filter.contains la = false → s.nearest q others = some y → s.home la ≠ .host → (∃ y ∈ others, y < 300) → exec (.rdx m) s =
        .next (others.foldl (fun u z => u.snoop (if z = y then .snpfi else .snpi) k (tx .rdx (some y) []) z) (begin_ s k .rdx (some y) others)))) ∧
    (j.tx = none → j.st = .own → j.owner ≠ q →
      exec (.rds m) s = .next (asks .snpf .rds j.owner []) ∧
      (s.host.filter.contains la = false → exec (.rdx m) s = .next (asks .snpfi .rdx j.owner []))) ∧
    (j.tx = none → j.st = .os →
      (j.owner ≠ q → exec (.rds m) s = .next (asks .snpf .rds j.owner [])) ∧
      (s.host.filter.contains la = false →
        exec (.rdx m) s = .next (asks .snpfi .rdx j.owner ((others.filter fun y => y ≠ j.owner).map fun y => 300 + y)))) ∧
    (j.tx = none → m.src ∉ j.fenced → s.home la ≠ .host →
      (j.st = .own ∨ j.st = .os → j.owner = m.src → m.lines = [(fullMask, x)] → m.mir = false →
        exec (.wbd m) s = .next (frees (((s.toHome d la x).freeMirrors la none).setJent left))) ∧
      (j.st ≠ .lost → m.src ∈ j.holders → exec (.evc m) s = .next (frees (s.setJent left))))

/-- R257, R259 to R261, R268, R269: what the asked dies and the home answer, and what the answers do. `SnpF` supplies and keeps, `SnpI` gives up, `SnpFI`
supplies and gives up, `Recall` writes back and gives up; data go to the asker under the asker's number, and a die without the line says that its
data have left. The last acknowledgement of a read ends the transaction with the table's state and the grant's permission; a grant changes DP; data,
a refusal and a retry reach the request of their number, data of a fenced die reach none, and the answer to a write ends its wait. -/
def Obligations.SnoopsAndAnswers : Prop :=
  ∀ (m : Msg) (mask : BitVec 64) (x : LineData) (e : SEnt) (q : SReq) (t0 : JTx) (s : State),
    let d := m.dst
    let la := m.la
    let dirty := s.dieDirty d la
    let x0 := s.dieData d la
    let has := s.holds d la = true
    let some_ := has ∨ (s.sent d la).dp ≠ .i
    let data : Mop × Msg := (.data, { mkMsg m.req d la m.rtx with lines := [(fullMask, x0)] })
    let ack := fun (a : BitVec 46) => ((.ack, { mkMsg m.src d la m.txid with arg := a }) : Mop × Msg)
    let gone : Mop × Msg := (.gone, mkMsg m.src d la m.txid)
    let down := fun (x : CLine) => match x.kind with
      | .tracked .m b => { x with kind := .tracked .o b }
      | .tracked .e b => { x with kind := .tracked .s b }
      | _ => x
    let kept := fun (t : State) => ∀ c, t.cline? d c la = (s.cline? d c la).map down
    let left := fun (t : State) => t.copies d la = [] ∧ (t.sent d la).dp = .i
    let up := fun z => s.cut d z = false
    let j := s.jent d la
    let mine := t0.txid = m.txid ∧ ∀ z ∈ s.sdir, z.die = d → z.la % 2 ^ 46 = la % 2 ^ 46 → ∀ p, z.req = some p → p.txid ≠ m.txid
    let only := t0.acks = [m.src] ∧ m.src ∉ j.fenced ∧ t0.op = .rds
    s.dead d = false → up m.req → up m.src →
    (m.toSlice = false →
      (has →
        (∃ t, exec (.snpf m) s = .next t ∧ t.mem = s.mem ∧ t.msgs = s.msgs ++ [data, ack (if dirty then 3 else 2)] ∧ kept t ∧
          (t.sent d la).dp = if dirty then .o else .s) ∧
        (m.req ≠ d → ∃ t, exec (.snpfi m) s = .next t ∧ t.mem = s.mem ∧ t.msgs = s.msgs ++ [data, ack (if dirty then 1 else 0)] ∧ left t) ∧
        (m.req = d → exec (.snpfi m) s = .next { s with msgs := s.msgs ++ [ack (if dirty then 1 else 0)] })) ∧
      (¬has → exec (.snpf m) s = .next { s with msgs := s.msgs ++ [gone] } ∧ exec (.snpfi m) s = .next { s with msgs := s.msgs ++ [gone] }) ∧
      (some_ →
        (∃ t, exec (.snpi m) s = .next t ∧ t.mem = s.mem ∧ t.msgs = s.msgs ++ [ack 0] ∧ left t) ∧
        (dirty = false → ∃ t, exec (.recall m) s = .next t ∧ t.mem = s.mem ∧ t.msgs = s.msgs ++ [ack 0] ∧ left t) ∧
        (dirty = true → s.home la = .dev d → ∃ t n, exec (.recall m) s = .next t ∧
          t.msgs = s.msgs ++ [(.wbd, { mkMsg d d la n with lines := [(fullMask, x0)], toSlice := true }), ack 1] ∧ left t)) ∧
      (¬some_ → exec (.snpi m) s = .next { s with msgs := s.msgs ++ [gone] } ∧ exec (.recall m) s = .next { s with msgs := s.msgs ++ [gone] })) ∧
    (m.toSlice = true →
      (∃ t, exec (.rds m) s = .next t ∧ t.mem = s.mem ∧ kept t ∧ (t.sent d la).exp = true ∧
        t.msgs = s.msgs ++ [data, ack (BitVec.ofNat 46 ((if dirty then 1 else 0) + if s.holds d la then 2 else 0))]) ∧
      (∃ t, exec (.rdx m) s = .next t ∧ t.mem = (if dirty then putLine s.mem la fullMask x0 else s.mem) ∧ left t ∧ (t.sent d la).exp = true ∧
        t.msgs = s.msgs ++ [data, ack (if dirty then 1 else 0)]) ∧
      (m.lines = [(fullMask, x)] → exec (.wbd m) s = .next { s with mem := putLine s.mem la fullMask x })) ∧
    (s.sdir.find? (fun z => z.die == d && z.la % 2 ^ 46 == la % 2 ^ 46 && z.req.any fun p => p.txid == m.txid) = some e → e.req = some q →
      exec (.grant m) s = .next ((s.setSent { e with
        dp := if m.arg.toNat % 16 = 1 then .s else if m.arg.toNat % 16 = 2 then .e else if m.arg.toNat % 16 = 3 then .m
          else if m.arg.toNat % 16 = 4 then .o else .i }).sliceFinish d la) ∧
      (s.inCensus q.to_ la = false → s.cut d q.to_ = false → ∃ t, exec (.retry m) s = .next t ∧ t.mem = s.mem ∧ t.clines = s.clines ∧
        t.msgs = s.msgs ++ [(q.op, { mkMsg q.to_ d la m.txid with mir := q.mir, pri := decide (3 ≤ q.retries + 1) })]) ∧
      (e.la < 2 ^ 46 →
        exec (.err m) s = .next (s.setSent { e with req := some { q with err := true } }) ∧
        (m.lines = [(mask, x)] → ∀ i, i = Instr.data m ∨ i = .datam m →
          (m.src ∈ (s.jent (s.dirDie la) la).fenced → exec i s = .next s) ∧
          (m.src ∉ (s.jent (s.dirDie la) la).fenced → exec i s = .next ((s.setSent { e with req := some { q with
            data := some (if mask = fullMask then x else mergeLine (q.data.getD (memLine s.mem la)) mask x) } }).sliceFinish d la)))) ∧
      (e.endsOnly = true →
        let ended : State := { s with sdir := s.sdir.filter fun z => !(z.die == d && z.la == e.la) }
        exec (.ack m) s = .next ended ∧ exec (.err m) s = .next (if q.op = .wru then ended.monitor d 0x14 else ended))) ∧
    (j.tx = some t0 → mine → only →
      let dt := t0.dirty || m.arg.getLsbD 0
      let ends := fun (h : JEnt) (dp : BitVec 46) =>
        ((s.setJent { h with
          tx := none
          wq := []
          grants := (h.grants.filter fun y => h.holders.contains y.1 && y.1 != t0.m.req) ++ [(t0.m.req, t0.m.rtx)] }).jRelease d la
            (j.wq ++ t0.next.toList)).send .grant { mkMsg t0.m.req d la t0.m.rtx with arg := dp }
      (j.st = .own → exec (.ack m) s = .next (ends { j with st := if dt then .os else .sh, holders := j.holders.filter (· != t0.m.req) ++ [t0.m.req] } 1)) ∧
      (j.st = .sh ∨ j.st = .os → exec (.ack m) s = .next (ends { j with holders := j.holders.filter (· != t0.m.req) ++ [t0.m.req] } 1))) ∧
    (j.tx = some t0 → mine → m.src ∈ t0.acks → m.src ∉ j.fenced → (∃ y ∈ t0.acks.erase m.src, y < 300) →
      exec (.ack m) s = .next (s.setJent { j with tx := some { t0 with
        acks := t0.acks.erase m.src, dirty := t0.dirty || m.arg.getLsbD 0, kept := t0.kept || m.arg.getLsbD 1 } })) ∧
    (∀ ys, j.tx = some t0 → mine → t0.op ≠ .recall → ys ≠ [] → t0.acks = m.src :: ys.map (fun y => 300 + y) → m.src ∉ j.fenced →
      (∀ y ∈ ys, up y ∧ y < 100) → ∃ t, exec (.ack m) s = .next t ∧ t.mem = s.mem ∧
        t.msgs = s.msgs ++ ys.map (fun y => (.snpi, { mkMsg y d la t0.txid with
          req := t0.m.req
          rtx := t0.m.rtx
          arg := match j.grants.find? fun g => g.1 == y with
            | some g => BitVec.ofNat 46 (4096 + g.2 % 4096)
            | none => 0 })) ∧
        (t.jent d la).tx = some { t0 with acks := ys, dirty := t0.dirty || m.arg.getLsbD 0, kept := t0.kept || m.arg.getLsbD 1 }) ∧
    (j.tx = some t0 → t0.txid = m.txid → m.src ∉ j.fenced →
      (200 + m.src ∈ t0.acks → m.src ∉ t0.acks → (∃ y ∈ t0.acks.erase (200 + m.src), y < 300) →
        exec (.gone m) s = .next (s.setJent { j with tx := some { t0 with acks := t0.acks.erase (200 + m.src) } })) ∧
      (200 + m.src ∉ t0.acks → m.src ∈ t0.acks →
        exec (.gone m) s = .next (s.setJent { j with tx := some { t0 with acks := t0.acks.erase m.src ++ [400 + m.src] } })))

/-! ### Messages between dies, the host, the ports (R42, R262 to R309) -/

/-- R42, R181, R255, R267, R273, R299, R306: what a home, a buddy, an egress die and the dies of a shoot-down do with a message. A read at the home answers
with the home's line; a masked write, once nothing stands in its way, replaces its bytes, gives up every tracked copy of the home, latches the
watches and is acknowledged; an atomic answers with the old line; one that the host's copy or another die's stands against waits for BIRsp, or for
the junction's grant; a LOST line refuses them. A die sweeps for a shoot-down and owes its acknowledgement until what it held is performed. Codes in
ARG are the model's (log 20). -/
def Obligations.HomeMessages : Prop :=
  ∀ (m : Msg) (aop : BitVec 3) (ty : BitVec 5) (off kind spc sz pasid : Nat) (mask : BitVec 64) (y c : LineData) (e : SEnt) (q : SReq) (s : State),
    let d := m.dst
    let la := m.la
    let x := match s.clines.find? fun z => z.la == la && z.dirtyT && !s.dead z.die with
      | some z => z.data
      | none => match s.mirrors.find? fun z => z.la == la && s.dead z.owner && !s.dead z.die with
        | some z => mergeLine (memLine s.mem la) z.mask z.data
        | none => memLine s.mem la
    let own := s.dieData d la
    let under := if s.dieDirty d la then own else memLine s.mem la
    let data := fun (x : LineData) => ((.data, { mkMsg m.req d la m.rtx with lines := [(fullMask, x)] }) : Mop × Msg)
    let refuse := (s.countErr la).send .err (mkMsg m.req d la m.rtx)
    let up := fun z => s.cut d z = false
    let written := fun (mask : BitVec 64) (y : LineData) (t : State) =>
      (∀ i, i < 64 → t.mem.get (64 * la + i) = if mask.getLsbD i then lineByte y i else lineByte under i) ∧
      (∀ a, a / 64 ≠ la → t.mem.get a = s.mem.get a) ∧
      (∀ z ∈ t.clines, z.die = d → z.la = la → z.kind.moesi? = none) ∧ t.out = s.out ∧
      (∀ w, s.cur.resident = true → s.cur.sleep = none → s.cur.watch = some w → w.la = la → t.cur.watch = some { w with event := true }) ∧
      (s.cur.sleep = none → t.cur.regs = s.cur.regs ∧ t.cur.slices = s.cur.slices)
    let n := tyBits ty / 8
    let amask := BitVec.ofNat 64 ((2 ^ n - 1) * 2 ^ off)
    let new := aopNew aop ty (fieldN own.toNat (8 * off) (8 * n)) (fieldN y.toNat (8 * off) (8 * n)) (fieldN c.toNat (8 * off) (8 * n))
    let quiet := (∀ w ∈ s.hws, w.la ≠ la) ∧ (s.sent d la).req = none
    let alone := s.home la = .dev d ∧ (s.sent d la).exp = false ∧ s.host.filter.contains la = false
    let held : State := { s with hws := s.hws ++ [⟨d, la, mask, y, none, some m, false, m.arg.getLsbD 0⟩] }
    let at_ := fun (z : Mirror) => z.die == d && z.la == la
    let found := s.sdir.find? (fun z => z.die == d && z.la % 2 ^ 46 == la % 2 ^ 46 && z.req.any fun p => p.txid == m.txid) = some e ∧ e.req = some q
    let ended : State := { s with sdir := s.sdir.filter fun z => !(z.die == d && z.la == e.la) }
    let w := s.writeBack d
    let hit := fun (z : TlbE) => kind = 3 ∨ z.pasid.toNat = pasid ∧ (kind = 2 ∨ z.spc.toNat = spc ∧ (kind = 1 ∨ (sz = 3 ∨ z.sz.toNat = sz) ∧
      z.page = la / 2 ^ (pageBits z.sz.toNat - 16)))
    s.dead d = false → up m.req → up m.src →
    (quiet → s.lineLost la = true → exec (.rdu m) s = .next refuse ∧ (m.lines = [(mask, y)] → exec (.wru m) s = .next refuse ∧ exec (.atu m) s = .next refuse)) ∧
    (quiet → s.lineLost la = false →
      exec (.rdu m) s = .next { s with msgs := s.msgs ++ [data x] } ∧
      (alone →
        (m.lines = [(mask, y)] → ∃ t, exec (.wru m) s = .next t ∧ t.msgs = s.msgs ++ [(.ack, mkMsg m.req d la m.rtx)] ∧
          written (if m.arg.getLsbD 0 then mask &&& ~~~s.deviceMask la else mask) y t) ∧
        (ty ∈ [0x02, 0x03, 0x06, 0x07, 0x0A, 0x0B, 0x0D] → off + n ≤ 64 → m.arg = atuArg aop ty → m.lines = [(amask, y), (amask, c)] →
          ∃ t, exec (.atu m) s = .next t ∧ written amask (BitVec.ofNat 512 (new % 2 ^ (8 * n) * 2 ^ (8 * off))) t ∧ t.msgs = s.msgs ++ [data own])) ∧
      (m.lines = [(mask, y)] → s.host.filter.contains la = true → (∀ b ∈ s.host.bis, b.1 ≠ la) →
        exec (.wru m) s = .next (held.biSnoop la .wru (mkMsg d d la 0))) ∧
      (m.lines = [(mask, y)] → s.home la = .dev d → s.host.filter.contains la = false → (s.dpOf d la).covers .rdx = false →
        (s.sent d la).wq = [] → exec (.wru m) s = .next (held.sliceReq .rdx d 31 la false))) ∧
    (m.lines = [(mask, y)] → ∃ t, exec (.mirror m) s = .next t ∧ t.msgs = s.msgs ++ [(.mirack, mkMsg m.src d la m.txid)] ∧
      t = { s with msgs := t.msgs, mirrors := t.mirrors } ∧
      t.mirrors.find? at_ = some (match s.mirrors.find? at_ with
        | some z => if z.owner = m.src then { z with mask := z.mask ||| mask, data := mergeLine z.data mask y } else ⟨d, la, m.src, mask, y⟩
        | none => ⟨d, la, m.src, mask, y⟩) ∧
      (∀ l, l ≠ la → (t.mirrors.filter fun z => z.la == l) = s.mirrors.filter fun z => z.la == l)) ∧
    (found → exec (.mirack m) s = .next (if q.op = .mirror then ended else s)) ∧
    (∀ op i, (op, i) ∈ [(Mop.remrd, Instr.remrd m), (.remwr, .remwr m), (.remat, .remat m)] →
      exec i s = .next { s with msgs := s.msgs ++ [(op, { m with at_ := d })] }) ∧
    (found →
      (e.endsOnly = true → exec (.remrsp m) s = .next ended) ∧
      (e.endsOnly = false → m.lines = [(mask, y)] → exec (.remrsp m) s = .next (s.setSent { e with req := some { q with data := some y } })) ∧
      (e.endsOnly = false → m.lines = [] → exec (.remrsp m) s = .next (s.setSent { e with req := some { q with err := true } }))) ∧
    ((∀ z ∈ s.clines, z.die ≠ d) → (∀ z ∈ s.l2, z.die ≠ d) → w = s) ∧
    (m.arg = sdArg kind spc sz pasid → kind < 4 → spc < 8 → sz < 4 → pasid < 2 ^ 20 → ∃ t, exec (.shoot m) s = .next t ∧
      t.msgs = w.msgs ∧ t.mem = w.mem ∧ (d < w.dies.length → (t.die d).sdOwed = (w.die d).sdOwed ++ [m]) ∧
      (∀ p, p ∈ t.tlb ↔ p ∈ w.tlb ∧ ¬(keyDie p.1 = d ∧ hit p.2)) ∧
      (w.cur.resident = true → w.cur.loc.die = d → ∀ p, p ∈ t.cur.lpr ↔ p ∈ w.cur.lpr ∧ ¬hit p.2) ∧
      (∀ k ∈ t.chans, k.die = d → (∀ z, k.src = some z → ¬hit z) ∧ ∀ z, k.dst = some z → ¬hit z)) ∧
    exec (.shoota m) s = .next (if (s.die d).sdTx = m.txid then s.onDie d fun z => { z with sdAcks := z.sdAcks.erase m.src } else s)

/-- R263 to R266, R268 to R270, R378, R381, R443: a silent junction. A message unanswered for too long is reported to the leader, which probes; a failed
probe is declared to every junction; the failed die's buckets pass to their shadows, which rebuild them from the dies' reports and then take the
stalled requests in order. A leader message of a lower epoch is discarded with its event, and a die that answers nothing handles nothing. An owner
that stays silent is replaced by a live sharer, or by its mirror; else the line is LOST. ARG and forms of these messages are the model's (log 20). -/
def Obligations.JunctionFailure : Prop :=
  ∀ (m : Msg) (die la txid : Nat) (e : SEnt) (q : SReq) (j2 : JEnt) (t0 : JTx) (r : LossRec) (rs : List LossRec) (s u2 : State),
    let d := m.dst
    let ep := m.arg.toNat % 2 ^ 32
    let who := fieldN m.arg.toNat 32 4
    let form := fieldN m.arg.toNat 42 4
    let arg := fun (ep who form : Nat) => BitVec.ofNat 46 (ep % 2 ^ 32 + who % 16 * 2 ^ 32 + form * 2 ^ 42)
    let up := fun z => s.cut d z = false
    let s1 := s.onDie d fun z => { z with epochSeen := ep }
    let bucket := fun l => ((s.maq.buckets.getD (bucketOf l) 0).toNat % 16, (s.maq.buckets.getD (bucketOf l) 0).toNat / 16)
    let lease := fun z => (s.die z).lease
    let leader := fun z => if (lease z).leader then z else fieldN (lease z).word.toNat 28 4
    let u := (s1.markFailed who).monitor d 0x0D
    let live := (rangeFrom 0 s.maq.ndies).filter fun z => u.dead z = false
    let takes := ∃ b ∈ s.maq.buckets, b.toNat % 16 = who ∧ b.toNat / 16 = d
    let j := s.jent d m.la
    let now := (s.die die).fclk.toNat
    let reports := (s.sdir.filter fun z => z.die = d ∧ z.la < 2 ^ 46 ∧ z.dp ≠ .i ∧ bucket z.la = (who, m.src) ∧ s.home z.la ≠ .host).map fun z =>
      ((.report, { mkMsg m.src d z.la 0 with
        arg := arg ep who (match z.dp with | .i => 2 | .s => 3 | .e => 4 | .m => 5 | .o => 6)
        mir := (s.copies d z.la).any fun x => match x.kind with | .tracked _ b => b | _ => false }) : Mop × Msg)
    let silent := fun (zs : List Nat) => zs.map fun z => ((.report, { mkMsg (leader die) die 0 0 with arg := arg 0 z 0 }) : Mop × Msg)
    let k := s.jent die la
    let gone := k.owner
    let sharers := k.holders.filter fun z => z ≠ gone ∧ s.cut die z = false ∧ s.holds z la = true
    let fence := k.fenced.filter (· != gone) ++ [gone]
    let rest := t0.acks.filter fun z => z ≠ gone ∧ z ≠ 200 + gone ∧ z ≠ 400 + gone ∧ z ≠ 300 + gone
    let awaited := gone ∈ t0.acks ∨ 200 + gone ∈ t0.acks ∨ 400 + gone ∈ t0.acks
    let saved := s.mirrors.find? fun z => z.la == la && z.owner == gone && !s.cut die z.die && !s.dead z.die
    (s.dead d = true → ∀ i ∈ [Instr.rds m, .rdx m, .upg m, .wbd m, .evc m, .rdu m, .wru m, .atu m, .snpf m, .snpi m, .snpfi m, .recall m, .grant m,
      .ack m, .retry m, .err m, .gone m, .mirack m, .data m, .datam m, .mirror m, .remrd m, .remwr m, .remat m, .remrsp m, .shoot m, .shoota m,
      .probe m, .jfail m, .census m, .report m], exec i s = .next s) ∧
    (s.dead d = false →
      (ep < (s.die d).epochSeen → ∀ i, i = Instr.jfail m ∨ i = .census m ∨ (i = .probe m ∧ form ≠ 1) → exec i s = .next (s.monitor d 5)) ∧
      ((s.die d).epochSeen ≤ ep →
        (form ≠ 1 → up m.src → exec (.probe m) s = .next { s1 with msgs := s.msgs ++ [(.probe, { mkMsg m.src d 0 m.txid with arg := arg ep who 1 })] }) ∧
        (up m.src → exec (.census m) s = .next { s1 with msgs := s.msgs ++ reports ++ [(.report, { mkMsg m.src d 0 0 with arg := arg ep who 2 })] }) ∧
        (∃ t, exec (.jfail m) s = .next t ∧ (who < s.dies.length → (t.die who).failed = true) ∧
          ((∀ z ∈ u.jdir, z.die ≠ d) →
            (∀ z ∈ u.sdir, ∀ p, z.die = d → z.endsOnly = true → z.req = some p → p.to_ = who → p.op ≠ .wru) →
            (∀ z ∈ u.sdir, ∀ p, z.die = d → z.req = some p → p.to_ = who → p.op ≠ .probe →
              (z.endsOnly = true ∨ p.op = .mirror → z ∉ t.sdir) ∧
              (z.endsOnly = false → p.op ≠ .mirror → z.la < 2 ^ 46 ∧ u.dirDie z.la ≠ who ∧ u.dead (u.dirDie z.la) = false → z ∈ t.sdir) ∧
              (z.endsOnly = false → p.op ≠ .mirror → ¬(z.la < 2 ^ 46 ∧ u.dirDie z.la ≠ who ∧ u.dead (u.dirDie z.la) = false) →
                { z with req := some { p with err := true } } ∈ t.sdir)) ∧
            (∀ z ∈ u.sdir, z.die ≠ d → z ∈ t.sdir) ∧
            (takes → (s.die who).failed = false → d ≠ who → d < s.maq.ndies → d < s.dies.length → (t.die d).census = live) ∧
            ∀ o p, (o, p) ∈ t.msgs ↔ ((o, p) ∈ u.msgs ∧ p.dst ≠ who) ∨
              (∃ p', (o, p') ∈ u.msgs ∧ p'.dst = who ∧ (o = .wbd ∨ o = .evc) ∧ p'.toSlice = false ∧ u.dirDie p'.la ≠ who ∧
                p = { p' with
                  dst := u.dirDie p'.la
                  at_ := if p'.at_ = who then p'.src else p'.at_
                  buf := if p'.at_ = who then none else p'.buf }) ∨
              (takes ∧ ∃ z ∈ (u.die d).census, u.cut d z = false ∧ (o, p) = (.census, { mkMsg z d 0 0 with arg := arg ep who 0 }))))) ∧
      (form = 1 → exec (.probe m) s = .next { s with sdir := s.sdir.filter fun z => !(z.die == d && z.la == probeKey m.src) }) ∧
      (form = 2 → exec (.report m) s = .next (s.onDie d fun z => { z with census := z.census.filter (· != m.src) })) ∧
      (3 ≤ form → form ≤ 6 → exec (.report m) s = .next ((s.onDie d fun z => { z with jseq := z.jseq + 1 }).setJent { j with
        holders := j.holders.filter (· != m.src) ++ [m.src]
        mir := j.mir || m.mir
        seq := (s.die d).jseq
        st := if form = 3 then (if j.st = .absent then .sh else j.st) else if form = 6 then .os else .own
        owner := if form = 3 then j.owner else m.src })) ∧
      ((lease d).leader = false → form < 2 ∨ form = 7 → exec (.report m) s = .next s) ∧
      ((lease d).leader = true → form = 0 →
        ((s.die who).failed = true ∨ (∃ z ∈ s.sdir, z.die = d ∧ z.la = probeKey who) → exec (.report m) s = .next s) ∧
        ((s.die who).failed = false → (∀ z ∈ s.sdir, ¬(z.die = d ∧ z.la = probeKey who)) → up who → ∃ t, exec (.report m) s = .next t ∧
          t.mem = s.mem ∧ t.msgs = s.msgs ++ [(.probe, { mkMsg who d 0 (s.freshTx d) with arg := arg (lease d).epoch who 0 })] ∧
          ∃ z ∈ t.sdir, z.die = d ∧ z.la = probeKey who ∧ (z.req.map fun (p : SReq) => p.op) = some .probe)) ∧
      ((lease d).leader = true → form = 1 → ∃ t, exec (.report m) s = .next t ∧ t.mem = s.mem ∧ t.msgs = s.msgs ∧
        ∀ z, z < s.maq.ndies → z < s.dies.length → (t.die z).unreach = ((s.die z).unreach || !s.routed d z 7)) ∧
      ((lease d).leader = true → form = 7 → exec (.report m) s = .next (s.onDie d fun z =>
        if z.alarms.contains who then z else { z with alarms := z.alarms ++ [who] }))) ∧
    ((lease die).leader = false → exec (.probeFailure die la) s = .next s) ∧
    ((lease die).leader = true → exec (.probeFailure die la) s = .next { s with
      sdir := s.sdir.filter fun z => !(z.die == die && z.la == probeKey la)
      msgs := s.msgs ++ ((rangeFrom 0 s.maq.ndies).filter fun z => z ≠ la ∧ s.dead z = false ∧ s.cut die z = false).map fun z =>
        (.jfail, { mkMsg z die 0 0 with arg := arg (lease die).epoch la 0 }) }) ∧
    ((s.die die).census.all s.dead = false → exec (.censusComplete die) s = .next s) ∧
    ((s.die die).census.all s.dead = true → ∃ t, exec (.censusComplete die) s = .next t ∧ (die < s.dies.length → (t.die die).census = []) ∧
      (s.orphans die = [] → (∀ z ∈ s.stalled die, z.2.data = none ∧ s.cut z.1.die die = false) → t.mem = s.mem ∧
        t.msgs = s.msgs ++ (s.stalled die).map fun z =>
          (z.2.op, { mkMsg die z.1.die z.1.la z.2.txid with mir := z.2.mir, pri := decide (3 ≤ z.2.retries) }))) ∧
    (s.stalled die).Pairwise (fun y z => y.2.seq ≤ z.2.seq) ∧
    (∀ z p, (z, p) ∈ s.stalled die ↔ z ∈ s.sdir ∧ s.dead z.die = false ∧ z.la < 2 ^ 46 ∧ s.dirDie z.la = die ∧ (bucket z.la).1 < 8 ∧
      (s.die (bucket z.la).1).failed = true ∧ s.shadowed (bucket z.la).1 die = true ∧ z.req = some p ∧ (p.op = .rds ∨ p.op = .rdx ∨ p.op = .upg) ∧
      p.err = false ∧ z.dp.covers p.op = false) ∧
    (s.cut die (leader die) = false →
      (s.sdir.find? (fun z => z.die == die && z.req.any fun p => p.txid == txid) = some e → e.req = some q →
        ∃ t, exec (.junctionResponseTimeout die txid) s = .next t ∧ t.mem = s.mem ∧ t.msgs = s.msgs ++ silent [q.to_] ∧
          { e with req := some { q with sentAt := now } } ∈ t.sdir) ∧
      ((∀ z ∈ s.sdir, z.die = die → ∀ p, z.req = some p → p.txid ≠ txid) →
        (s.jdir.find? (fun z => z.die == die && z.tx.any fun p => p.txid == txid) = some j2 → j2.tx = some t0 →
          ∃ t, exec (.junctionResponseTimeout die txid) s = .next t ∧ t.mem = s.mem ∧
            t.msgs = s.msgs ++ silent ((rangeFrom 0 16).filter fun z => z ∈ t0.acks ∨ 200 + z ∈ t0.acks ∨ 400 + z ∈ t0.acks)) ∧
        ((∀ z ∈ s.jdir, z.die = die → ∀ p, z.tx = some p → p.txid ≠ txid) →
          ((s.die die).sdBusy = true → (s.die die).sdTx = txid → exec (.junctionResponseTimeout die txid) s = .next
            { s.onDie die (fun z => { z with sdAt := now }) with msgs := s.msgs ++ silent (s.die die).sdAcks }) ∧
          (¬((s.die die).sdBusy = true ∧ (s.die die).sdTx = txid) → exec (.junctionResponseTimeout die txid) s = .next s)))) ∧
    (k.tx = none → exec (.snpOwnerTimeout die la) s = .next s) ∧
    (k.tx = some t0 → ¬((k.st = .own ∨ k.st = .os) ∧ awaited) → exec (.snpOwnerTimeout die la) s = .next s) ∧
    (k.tx = some t0 → k.st = .own ∨ k.st = .os → awaited → 200 + gone ∉ t0.acks → t0.op ≠ .recall → t0.sup = some gone →
      (∀ x xs, k.st = .os → sharers = x :: xs → x ≠ t0.m.req →
        ∃ t, exec (.snpOwnerTimeout die la) s = .next t ∧ t.mem = s.mem ∧ (t.sent x la).dp = .o ∧ t.copies gone la = [] ∧
          t.jent die la = { k with
            owner := x
            holders := k.holders.filter (· != gone)
            fenced := fence
            tx := some { t0 with acks := (rest.erase x).erase (300 + x) ++ [x], dirty := decide (t0.op = .rds), sup := some x } } ∧
          ∃ y, t.msgs = s.msgs ++ [(if t0.op = .rds then .snpf else .snpfi, y)] ∧ y.dst = x ∧ y.la = la ∧ y.req = t0.m.req ∧ y.rtx = t0.m.rtx) ∧
      (∀ z, k.st = .own ∨ sharers = [] → saved = some z → (∀ h, s.home la = .dev h → s.cut die h = false) →
        ∃ t, exec (.snpOwnerTimeout die la) s = .next t ∧ t.mem = putLine s.mem la z.mask z.data ∧ t.copies gone la = [] ∧
          (∀ y ∈ t.mirrors, y.la ≠ la) ∧ (t.jent die la).fenced = fence ∧ (t.jent die la).holders = k.holders.filter (· != gone) ∧
          (t.jent die la).tx = some { t0 with acks := rest ++ [s.homeAck la], sup := none }) ∧
      (k.st = .own ∨ sharers = [] → saved = none → s.dirDie la = die →
        ∃ t, exec (.snpOwnerTimeout die la) s = .next t ∧ (t.jent die la).st = .lost ∧ (t.jent die la).tx = none ∧
          (∀ y ∈ t.clines, y.la ≠ la) ∧ ∀ y ∈ t.mirrors, y.la ≠ la)) ∧
    ((s.die die).heldLoss = [] → exec (.lossRecordDrain die) s = .next s) ∧
    ((s.die die).heldLoss = r :: rs →
      let rec_ := (s.die die).lossSeq.toNat % 2 ^ 32 + min (s.jent die r.la).errs 255 * 2 ^ 32 + r.shr.toNat * 2 ^ 44 + die % 16 * 2 ^ 52 + r.owner % 16 * 2 ^ 56
        + r.kind.toNat * 2 ^ 60 + r.la % 2 ^ 46 * 2 ^ 76 + r.fclk.toNat * 2 ^ 128
      (s.ringPut (s.die die).lrbase rec_ = none → exec (.lossRecordDrain die) s = .next s) ∧
      (s.ringPut (s.die die).lrbase rec_ = some u2 → exec (.lossRecordDrain die) s =
        exec (.lossRecordDrain die) (u2.onDie die fun z => { z with lossSeq := z.lossSeq + 1, heldLoss := rs })))

/-- R272 to R274, R308, R309, R425: the host. Its snoops of a host line take the package's data, and leave the holders as the kind says, once a
transaction in progress has ended; its requests for a device line are performed at the home, yield to a device transaction, and list what it reads in
the filter; a line it no longer holds lets the held requests go on; its answers end a directory's wait. A host-port die in minimal mode answers with
an error. What the manual gives no bits of in the configuration space and BAR 0 is free (log 14). -/
def Obligations.HostLink : Prop :=
  ∀ (la addr v h : Nat) (q : HostReq) (x : LineData) (data : W32) (t0 : JTx) (s : State),
    let dirty := (s.clines.find? fun z => z.la == la && z.dirtyT).map fun z => z.data
    let any := match dirty with
      | some y => some y
      | none => (s.clines.find? fun z => z.la == la && z.kind.moesi?.isSome).map fun z => z.data
    let answer := fun (y : Option LineData) => s.out ++ [match y with | some y => OutMsg.hostData la y | none => .hostDone la]
    let hd := s.maq.hostDie
    let j := s.jent hd la
    let shared := fun (z : CLine) => match z.kind with
      | .tracked _ b => { z with kind := .tracked .s b }
      | _ => z
    let hdm := ∃ r, s.region q.la = some r ∧ r.kind = 0 ∧ r.hdm = true
    let idle := s.host.yielded = [] ∧ s.host.snps = []
    let busy := (∃ b ∈ s.host.bis, b.1 = q.la) ∨ (∃ w ∈ s.hws, w.la = q.la) ∨ (s.jent (s.dirDie q.la) q.la).tx ≠ none ∨
      ∃ p ∈ s.msgs, p.2.la = q.la ∧ (p.1 = .rdx ∨ p.1 = .upg) ∧ p.2.dst = s.dirDie q.la ∧ p.2.toSlice = false
    let set := s.host.filter.filter fun z => z % 16384 == q.la % 16384
    let full := q.write = false ∧ s.host.filter.contains q.la = false ∧ 16 ≤ set.length
    let under := if s.dieDirty h q.la then s.dieData h q.la else memLine s.mem q.la
    let y := match s.clines.find? fun z => z.la == q.la && z.dirtyT && !s.dead z.die with
      | some z => z.data
      | none => match s.mirrors.find? fun z => z.la == q.la && s.dead z.owner && !s.dead z.die with
        | some z => mergeLine (memLine s.mem q.la) z.mask z.data
        | none => memLine s.mem q.la
    let wait : State := { s with host := { s.host with yielded := s.host.yielded ++ [q] } }
    let held := (s.host.bis.filter fun b => b.1 == la && b.2.1 != Mop.wru).map fun b => b.2
    let after : State := { s with
      host := { s.host with
        filter := s.host.filter.filter (· != la)
        bis := s.host.bis.filter fun b => b.1 != la
        conflicts := s.host.conflicts.filter (· != la) }
      msgs := held ++ s.msgs }
    let acked := fun (u : State) => if s.host.conflicts.contains la then { u with out := u.out ++ [.biack la] } else u
    let grants := fun (dp : BitVec 46) => j.wq ++ t0.next.toList ++ s.msgs ++ [(.data, { mkMsg t0.m.req hd la t0.m.rtx with lines := [(fullMask, x)] }),
      (.grant, { mkMsg t0.m.req hd la t0.m.rtx with arg := dp })]
    let off := addr - 4096
    let bar := s.host.bar0.get off
    let reads := fun (w : W32) => exec (.configurationSpaceAccess addr false data) s = .next { s with free := s.free + 1, out := s.out ++ [.cfg w] }
    (s.dead hd = true →
      (∀ i ∈ [Instr.snpinv la, .snpdata la, .snpcur la], exec i s = .next { s with out := s.out ++ [.hostErr la] }) ∧
      exec (.hostM2sRequest q) s = .next { s with out := s.out ++ [.hostErr q.la] }) ∧
    (s.dead hd = false →
      (∀ k i, (k, i) ∈ [(0, Instr.snpinv la), (1, .snpdata la), (2, .snpcur la)] → j.tx ≠ none →
        exec i s = .next { s with host := { s.host with snps := s.host.snps ++ [(k, la)] } }) ∧
      (j.tx = none →
        (∃ t, exec (.snpinv la) s = .next t ∧ t.out = answer dirty ∧ t.mem = s.mem ∧ t.msgs = s.msgs ∧
          (∀ z ∈ t.clines, z.la = la → z.kind.moesi? ≠ none → 8 ≤ z.die) ∧ (∀ z ∈ s.clines, z.la ≠ la → z ∈ t.clines) ∧
          (t.jent hd la).st = .absent ∧ (t.jent hd la).holders = [] ∧ ∀ d, d < 8 → (t.sent d la).dp = .i) ∧
        (∃ t, exec (.snpdata la) s = .next t ∧ t.out = answer any ∧ t.mem = s.mem ∧ t.msgs = s.msgs ∧
          (∀ d c, t.cline? d c la = (s.cline? d c la).map shared) ∧ (∀ d c l, l ≠ la → t.cline? d c l = s.cline? d c l) ∧
          (t.jent hd la).st = if j.st = .own ∨ j.st = .os then .sh else j.st) ∧
        exec (.snpcur la) s = .next { s with out := answer any }) ∧
      (idle → ¬(hdm ∧ s.lineLost q.la = false) → exec (.hostM2sRequest q) s = .next { s with out := s.out ++ [.hostDone q.la] }) ∧
      (idle → hdm → s.lineLost q.la = false →
        (busy → exec (.hostM2sRequest q) s = .next wait) ∧
        (¬busy → s.home q.la = .dev h → s.dead h = false → (s.sent h q.la).exp = false → (s.sent h q.la).req = none →
          (full → set.head? = some v → (∀ b ∈ s.host.bis, b.1 ≠ v) → exec (.hostM2sRequest q) s = .next (wait.biSnoop v .wru (mkMsg h h v 0))) ∧
          (full → set.head? = some v → (∃ b ∈ s.host.bis, b.1 = v) → exec (.hostM2sRequest q) s = .next wait) ∧
          (q.write = true → ∃ t, exec (.hostM2sRequest q) s = .next t ∧ t.out = s.out ++ [.hostDone q.la] ∧ t.msgs = s.msgs ∧
            (∀ i, i < 64 → t.mem.get (64 * q.la + i) = if q.mask.getLsbD i then lineByte q.data i else lineByte under i) ∧
            (∀ a, a / 64 ≠ q.la → t.mem.get a = s.mem.get a) ∧ ∀ z ∈ t.clines, z.die = h → z.la = q.la → z.kind.moesi? = none) ∧
          (q.write = false → ¬full → ∃ t, exec (.hostM2sRequest q) s = .next t ∧ t.out = s.out ++ [.hostData q.la y] ∧ t.msgs = s.msgs ∧
            t.mem = s.mem ∧ t.host.filter = s.host.filter.filter (· != q.la) ++ [q.la] ∧
            ∀ z ∈ t.clines, z.die = h → z.la = q.la → z.kind.moesi? ≠ some .m ∧ z.kind.moesi? ≠ some .e)))) ∧
    exec (.birsp la) s = .next ((acked (after.jAck (s.dirDie la) la 98 false false)).settle settleBound).serveYielded ∧
    (held = [] → s.msgs = [] → s.hws = [] → idle → (s.jent (s.dirDie la) la).tx = none → exec (.birsp la) s = .next (acked after)) ∧
    exec (.biconflict q) s = (if s.host.bis.any fun b => b.1 == q.la then .next { s with host := { s.host with
        yielded := s.host.yielded ++ [q]
        conflicts := s.host.conflicts.filter (· != q.la) ++ [q.la] } }
      else exec (.hostM2sRequest q) { s with out := s.out ++ [.biack q.la] }) ∧
    (j.tx = none → exec (.cxlCacheHostResponse la x) s = .next s) ∧
    (j.tx = some t0 → 99 ∉ t0.acks → exec (.cxlCacheHostResponse la x) s = .next s) ∧
    (j.tx = some t0 → t0.acks = [99] → 99 ∉ j.fenced → s.home la = .host → s.cut hd t0.m.req = false →
      (t0.op = .rds → j.st = .absent → t0.kept = false → ∃ t, exec (.cxlCacheHostResponse la x) s = .next t ∧ t.mem = s.mem ∧ t.msgs = grants 1 ∧
        t.jent hd la = { j with st := .sh, holders := [t0.m.req], tx := none, wq := [], grants := [(t0.m.req, t0.m.rtx)] }) ∧
      (t0.op = .rdx → ∃ t, exec (.cxlCacheHostResponse la x) s = .next t ∧ t.mem = s.mem ∧ t.msgs = grants 3 ∧
        t.jent hd la = { j with st := .own, owner := t0.m.req, holders := [t0.m.req], tx := none, wq := [], grants := [(t0.m.req, t0.m.rtx)] })) ∧
    (addr < 4096 →
      exec (.configurationSpaceAccess addr true data) s = .next { s with host := { s.host with cfg := s.host.cfg.set addr data } } ∧
      reads (Config.cfgRead s.free addr s.host.cfg)) ∧
    (4096 ≤ addr →
      exec (.configurationSpaceAccess addr true data) s = .next { s with host := { s.host with bar0 := s.host.bar0.set off data } } ∧
      (∀ n r, n < 2 → off = 0x1210 + 0x20 * n + r →
        (r = 0 ∨ r = 8 → reads (bar &&& 0xF0000000)) ∧ (r = 4 ∨ r = 12 → reads bar) ∧
        (r = 16 → reads ((bar &&& 0x13FF) ||| if bar.getLsbD 9 then 0x400 else 0))) ∧
      (off < 0x1210 ∨ 0x1250 ≤ off → reads (Config.cfgRead s.free addr s.host.bar0)))

/-- R296 to R301: a port that carries Nderal flits. A flit with a wrong VER, FK or CRC, or out of order, makes the port ask for a replay and discard it with
all that it carries; one in order is accepted, its acknowledgement and credits are taken, and each of its messages takes a buffer of the port, for this
die or in transit with one hop less; one that goes nowhere raises its event and frees its buffer. A replay request has every unacknowledged flit sent
again, and the sixteenth for one SEQ takes the port down, as a missing acknowledgement does. A message reads back from the slots it was put into. -/
def Obligations.LinkPorts : Prop :=
  ∀ (d p cls n seq ackseq : Nat) (flit : BitVec 2048) (op : Mop) (m : Msg) (s : State),
    let f := flit.toNat
    let x := s.port d p
    let q := s.mport d p
    let good := fieldN f 124 4 = 1 ∧ fieldN f 122 2 ≠ 3 ∧ crc64 ((rangeFrom 0 248).map fun i => f / 2 ^ (8 * i) % 256) = fieldN f 1984 64
    let fk := fieldN f 122 2
    let num := (fieldN f 68 12 + 1 + 4096 - x.ackd.toNat) % 4096
    let acks := num ≠ 0 ∧ num ≤ x.flits.length
    let y : Port := { x with
      flits := if acks then x.flits.drop num else x.flits
      ackd := if acks then x.ackd + BitVec.ofNat 12 num else x.ackd
      ackAt := if acks then (s.die d).fclk.toNat else x.ackAt
      credits := (rangeFrom 0 6).map fun k => x.credits.getD k 0 + fieldN f (20 + 8 * k) 8 }
    let puts := fun (u : State) (gs : List (BitVec 2048)) =>
      if q.kind = 1 then { u with wires := u.wires ++ gs.map fun g => (q.pid.toNat, q.pport.toNat, g) }
      else { u with out := u.out ++ gs.map fun g => .flit d p g }
    let asksAgain := fun (t : State) => ∃ g : BitVec 2048,
      t = puts (s.onPort d p fun _ => { x with resync := true, sinceAck := 0, owed := [0, 0, 0, 0, 0, 0] }) [g] ∧ flitOk g.toNat = true ∧
      fieldN g.toNat 122 2 = 2 ∧ fieldN g.toNat 68 12 = (x.rxSeq - 1).toNat ∧ fieldN g.toNat 80 42 = 0 ∧ fieldN g.toNat 1920 12 = (x.txSeq - 1).toNat
    let from_ := BitVec.ofNat 12 (fieldN f 68 12)
    let reps := if x.rpSeq = from_ then x.rpCnt + 1 else 1
    let leader := let l := (s.die d).lease
      if l.leader then d else fieldN l.word.toNat 28 4
    let report : Msg := { mkMsg leader d 0 0 with arg := BitVec.ofNat 46 (d % 16 * 2 ^ 32 + 2 ^ 42) }
    let down := fun (z : Port) =>
      let u := (s.onPort d p fun _ => { z with down := true, trained := false, flits := [], resync := false, rpCnt := 0 }).monitor d 0x0C
      if x.retrained then u.send .report report else u
    let ms := flitMsgs f 14 0
    let reach := ∀ z ∈ ms, ∃ o w, z.2.2 = some (o, w) ∧ (o = .disc ∨ o = .discr ∨ w.dst = d ∨ w.hops ≠ 0)
    let took : Port := { y with rxSeq := x.rxSeq + 1, sinceAck := x.sinceAck + 1, resync := false, rpCnt := 0 }
    let lands := fun (z : Mop × Msg) =>
      let w := { z.2 with at_ := d, buf := some p }
      (z.1, if z.1 = .disc ∨ z.1 = .discr then { w with dst := d } else if w.dst = d then w else { w with hops := w.hops - 1 })
    let fresh := fun (found again : Bool) =>
      (⟨true, false, again, found, 0, 0, 0, [], [64, 32, 64, 192, 8, 32], 0, 0, 0, false, none, [0, 0, 0, 0, 0, 0], 0, [0, 0, 0, 0, 0, 0]⟩ : Port)
    let other := fun (w : Nat × Nat × BitVec 2048) => !((w.1 == q.pid.toNat && w.2.1 == q.pport.toNat) || (w.1 == d && w.2.1 == p))
    d < s.dies.length → p < (s.die d).ports.length →
    (∀ i, i = Instr.flitReceive d p flit ∨ i = .idleFlit d p flit ∨ i = .replayRequest d p flit →
      (x.trained = false ∨ x.down = true ∨ q.host = true ∨ s.dead d = true → exec i s = .next s) ∧
      (x.trained = true → x.down = false → q.host = false → s.dead d = false →
        (¬good → ∃ t, exec i s = .next t ∧ asksAgain t) ∧
        (good →
          (fk = 1 → exec i s = .next (s.onPort d p fun _ => y)) ∧
          (fk = 2 → reps < 16 → exec i s = .next (puts (s.onPort d p fun _ => { y with rpSeq := from_, rpCnt := reps }) y.flits)) ∧
          (fk = 2 → 16 ≤ reps → exec i s = .next (down { y with rpSeq := from_ })) ∧
          (fk = 0 → fieldN f 1920 12 ≠ x.rxSeq.toNat → x.resync = true → exec i s = .next s) ∧
          (fk = 0 → fieldN f 1920 12 ≠ x.rxSeq.toNat → x.resync = false → ∃ t, exec i s = .next t ∧ asksAgain t) ∧
          (fk = 0 → fieldN f 1920 12 = x.rxSeq.toNat → reach → exec i s = .next
            { s.onPort d p (fun _ => took) with msgs := s.msgs ++ (ms.filterMap fun z => z.2.2).map lands }) ∧
          (∀ z, fk = 0 → fieldN f 1920 12 = x.rxSeq.toNat → ms = [(cls, n, z)] →
            (∀ o w, z = some (o, w) → o ≠ .disc ∧ o ≠ .discr ∧ w.dst ≠ d ∧ w.hops = 0) →
            exec i s = .next (((s.onPort d p fun _ => took).monitor d 0x0B).onPort d p fun z => { z with
              owed := z.owed.modify (if cls = 5 then 4 else if cls = 6 then 5 else cls - 1) (· + if cls = 4 then n else 1) }))))) ∧
    (x.flits = [] ∨ x.down = true → exec (.portAckTimeout d p) s = .next s) ∧
    (x.flits ≠ [] → x.down = false → exec (.portAckTimeout d p) s = .next (down x)) ∧
    (∀ ok, x.down = false ∨ x.retrained = true → exec (.portRetrain d p ok) s = .next s) ∧
    (x.down = true → x.retrained = false →
      (q.kind ≠ 1 → exec (.portRetrain d p true) s = .next (s.onPort d p fun _ => fresh x.discovered true)) ∧
      (q.kind = 1 → exec (.portRetrain d p true) s = .next { (s.onPort d p fun _ => fresh x.discovered true).onPort q.pid.toNat q.pport.toNat
        (fun z => fresh z.discovered z.retrained) with wires := s.wires.filter other }) ∧
      exec (.portRetrain d p false) s = .next ((s.onPort d p fun _ => { x with retrained := true }).send .report report)) ∧
    exec (.classStarvation d p cls) s = .next (s.onPort d p fun _ => { x with first := some cls }) ∧
    -- a message in a flit of its own
    (m.dst < 16 → m.src < 16 → m.hops < 8 → m.txid < 4096 → m.la < 2 ^ 46 → m.at_ = m.src → m.buf = none → op ≠ .disc → op ≠ .discr →
      (mopClass op ≤ 2 → m.req < 16 ∧ m.rtx < 4096 ∧ m.arg.toNat < 2 ^ 29) → (2 < mopClass op → m.req = m.src ∧ m.rtx = m.txid ∧ m.toSlice = false) →
      (mopClass op = 5 → m.lines = []) →
      (masked op = true → m.lines.length ≤ 2) → (masked op = false → m.lines.length ≤ 3 ∧ ∀ l ∈ m.lines, l.1 = fullMask) →
      let ss := slotsOf op m
      let code := mopClass op + ((rangeFrom 1 (ss.length - 1)).map fun i => 7 * 2 ^ (3 * i)).sum
      flitMsgs (mkFlit 0 code ackseq 0 seq ss).toNat 14 0 = [(mopClass op, ss.length, some (op, m))])

/-- R17, R304, R388, R423 to R426: DISCOVER, the start and what DOE and SPDM answer. A die whose maquette is valid tells each partner who it is; a partner
that differs, a digest that differs, an unconnected port that trains, or silence sends the die to minimal mode with its code; once every port has
answered the die claims or follows the lease, and the leader makes the supervisor's task. A die reset of a die that the package has counts an
attempt, chooses the slot of higher VERSION, checks the maquette and enables its clusters. The fields of `Disc`, the places of VERSION and MINROLL and
what verifies are free or the model's (log 13, log 20). -/
def Obligations.StartAndRestart : Prop :=
  ∀ (d p off : Nat) (bytes : List (BitVec 8)) (m : Msg) (s : State),
    let q := s.mport d p
    let b := (s.die d).boot
    let digest8 := (Config.digest s.maqBytes).toNat % 2 ^ 64
    let mine : Msg := { mkMsg q.pid.toNat d 0 0 with
      req := p
      hops := 1
      arg := BitVec.ofNat 46 (d % 16 + p % 4 * 16 + 64)
      lines := [(fullMask, BitVec.ofNat 512 digest8)] }
    let live := b.mode ≠ 2 ∧ b.stage ≠ 0
    let minimal := fun (s : State) (c : BitVec 8) => if (s.die d).boot.mode = 0 then
      s.onDie d fun x => { x with boot := { x.boot with mode := 2, reason := c } } else s
    let same := fieldN m.arg.toNat 0 4 = q.pid.toNat ∧ fieldN m.arg.toNat 4 2 = q.pport.toNat ∧ fieldN m.arg.toNat 6 2 = q.kind.toNat
    let agree := ∃ k x r, m.lines = (k, x) :: r ∧ x.toNat % 2 ^ 64 = digest8
    let trained := s.onPort d p fun x => { x with trained := true }
    let heard := s.onPort d p fun x => { x with discovered := true }
    let goesOn := fun (u t : State) =>
      (u.portsUp d = false ∨ b.mode ≠ 0 ∨ b.stage ≠ 1 → t = u) ∧
      (u.portsUp d = true → b.mode = 0 → b.stage = 1 → d < s.dies.length → (t.die d).boot.stage = 2 ∧
        ((t.die d).lease.leader = true → s.dead d = false → d < s.maq.ndies → (∀ k ∈ s.tasks, k.die ≠ d) →
          ∃ k ∈ t.tasks, k.die = d ∧ k.pasid = 0 ∧ k.st = .ready ∧ k.image = Config.imgRecord (s.image b.slot.toNat)))
    let roll := s.readMaq.roll
    let ok := fun k => Config.imgVerifies (s.image k) = true ∧ Config.imgMinRoll (s.image k) ≤ roll
    let ver := fun k => (Config.imgVersion (s.image k)).toNat
    let slot := if ok 0 ∧ (ok 1 → ver 1 ≤ ver 0) then 0 else 1
    let present := fun d => d ≤ fieldN (s.flashN 0x3000000 64) 32 4 ∧ d < 8
    let here := present d
    let started := fun (r : BitVec 8) (t : State) =>
      (∀ x ∈ t.others, x.loc.die ≠ d) ∧ (∀ x ∈ t.savedT, x.loc.die ≠ d) ∧ (t.cur.resident = true → t.cur.loc.die ≠ d) ∧
      t.flash = s.flash ∧ (∀ x ∈ t.jdir, x.die ≠ d) ∧ (∀ x ∈ t.clines, x.die ≠ d) ∧
      (t.die d).aclk = 0 ∧ (t.die d).fclk = 0 ∧ (t.die d).tclk = 0 ∧ (t.die d).ptb0 = 0 ∧ (t.die d).trapvec = 0 ∧ (t.die d).svcring = 0 ∧
      (¬here → (t.die d).boot.att = b.att ∧ (t.die d).boot.stage = 0) ∧
      (here → 3 ≤ b.att.toNat → (t.die d).boot.mode = 2 ∧ (t.die d).boot.reason = 0x11 ∧ (t.die d).boot.att = b.att ∧ (t.die d).boot.slot = 0xF) ∧
      (here → b.att.toNat < 3 → (t.die d).boot.att = b.att + 1 ∧
        (¬ok 0 → ¬ok 1 → (t.die d).boot.mode = 2 ∧ (t.die d).boot.slot = 0xF ∧
          (t.die d).boot.reason = if Config.imgVerifies (s.image 0) = true ∨ Config.imgVerifies (s.image 1) = true then 0x19 else 0x10) ∧
        (ok 0 ∨ ok 1 → (t.die d).boot.slot = BitVec.ofNat 4 slot ∧ (t.die d).boot.vers = Config.imgVersion (s.image slot) ∧
          (Config.maqVerifies s.maqBytes = false → (t.die d).boot.mode = 2 ∧ (t.die d).boot.reason = 0x18) ∧
          (Config.maqVerifies s.maqBytes = true → s.maqBad = true → (t.die d).boot.mode = 2 ∧ (t.die d).boot.reason = 0x20) ∧
          (Config.maqVerifies s.maqBytes = true → s.maqBad = false → (t.die d).boot.mode = 0 ∧ (t.die d).boot.reason = r ∧
            (t.die d).boot.stage ≠ 0 ∧ t.maq = s.readMaq ∧
            (s.failedAt d = [] → (t.clusters.filter fun c => c.die == d) = bootClusters d [] (s.readMaq.dies.getD d ⟨0, 0, []⟩).spare.toNat))))
    let word := BitVec.ofNat 64 (b.vers.toNat + b.mode.toNat * 2 ^ 24 + b.slot.toNat * 2 ^ 28 + b.att.toNat * 2 ^ 32 + b.reason.toNat * 2 ^ 40)
    let bs := (bytes.take 1024).take (0x1000000 - off)
    let lower := if Config.imgVersion (s.image 0) < Config.imgVersion (s.image 1) then 0 else 1
    (m.dst = d → ¬live → exec (.disc m p) s = .next s ∧ exec (.discr m p) s = .next s) ∧
    (m.dst = d → live →
      (¬same → exec (.disc m p) s = .next (minimal s 0x23) ∧ exec (.discr m p) s = .next (minimal s 0x23)) ∧
      (same → ¬agree → exec (.disc m p) s = .next (minimal s 0x24) ∧ exec (.discr m p) s = .next (minimal s 0x24)) ∧
      (same → agree → exec (.disc m p) s = .next { s with msgs := s.msgs ++ [(.discr, mine)] } ∧
        ∃ t, exec (.discr m p) s = .next t ∧ goesOn heard t)) ∧
    (¬live → exec (.portTrained d p) s = .next trained) ∧
    (live → (q.host = true → ∃ t, exec (.portTrained d p) s = .next t ∧ goesOn trained t) ∧
      (q.host = false → q.kind = 0 → exec (.portTrained d p) s = .next (minimal trained 0x22)) ∧
      (q.host = false → q.kind ≠ 0 → exec (.portTrained d p) s = .next { trained with msgs := s.msgs ++ [(.disc, mine)] })) ∧
    exec (.discoverTimeout d p) s = .next (if q.kind ≠ 0 ∧ q.host = false ∧ (s.port d p).discovered = false ∧ b.stage = 1 then minimal s 0x21 else s) ∧
    exec (.hostPortTrainTimeout d) s = .next (if s.maq.hostDie = d ∧ (s.port d s.maq.hostPort).trained = false ∧ b.stage = 1
      then minimal s 0x21 else s) ∧
    (d < s.dies.length → (∃ t, exec (.dieReset d) s = .next t ∧ started 0 t) ∧
      (b.mode = 0 → ∃ t, exec (.bootStartTimeout d) s = .next t ∧ started 0x12 t)) ∧
    (b.mode ≠ 0 → exec (.bootStartTimeout d) s = .next s) ∧
    exec (.doeStatus d) s = .next { s with out := s.out ++ [.doe (if s.maq.ndies ≤ d ∨ (s.die d).failed = true ∨ (s.die d).unreach = true
      then BitVec.allOnes 64 else word)] } ∧
    (2 ^ 24 ≤ off → exec (.doeStage off bytes) s = .next { s with out := s.out ++ [.doe 1] }) ∧
    (off < 2 ^ 24 → ∃ t, exec (.doeStage off bytes) s = .next t ∧ t = { s with flash := t.flash, out := s.out ++ [.doe 0] } ∧
      ∀ a, t.flash.get a = if 0x2000000 + off ≤ a ∧ a < 0x2000000 + off + bs.length then bs.getD (a - (0x2000000 + off)) 0 else s.flash.get a) ∧
    (¬ok 2 → exec (.doeRestart) s = .next { s with out := s.out ++ [.doe 2] }) ∧
    (ok 2 → s.flash.wf = true → ∃ t o, exec (.doeRestart) s = .next t ∧ t.out = s.out ++ o ++ [.doe 0] ∧
      (∀ a, t.flash.get a = if lower * 0x1000000 ≤ a ∧ a < lower * 0x1000000 + 0x1000000 then s.flash.get (a - lower * 0x1000000 + 0x2000000)
        else s.flash.get a) ∧
      ∀ k, k < 8 → k < s.dies.length → (t.die k).boot.att = (if present k then 1 else 0) ∧ (t.die k).failed = false ∧ (t.die k).fclk = 0) ∧
    exec (.spdmRequest .identity) s = .next { s with out := s.out ++ [.spdm Config.identity] } ∧
    exec (.spdmRequest .imageDigest) s = .next { s with
      out := s.out ++ [.spdm (Config.digest (s.image (s.die s.maq.hostDie).boot.slot.toNat))] } ∧
    exec (.spdmRequest .maquetteDigest) s = .next { s with out := s.out ++ [.spdm (Config.digest s.maqBytes)] }

/-! ### The atelier, the voters, errors and heat (R379 to R387, R393, R427 to R433) -/

/-- R379 to R382: the lease. The leader's swap raises HB; one that fails ends its leadership. A follower starts its count again when HB or EPOCH has
changed; its swap of the word last read takes the lease with EPOCH plus one, raises the event, and the new leader probes failed junctions
again. After an error reply the line is dead for the core, which goes to the next line and claims above any EPOCH it has seen. -/
def Obligations.Lease : Prop :=
  ∀ (d : Nat) (s : State),
    let l := (s.die d).lease
    let lost := fun k => s.lineLost (s.atePage k / 64) = true ∨ s.cut d k = true ∨ s.dead k = true
    let line := fun k => (s.die k).leaseLine
    let w := line l.line
    let word := fun (epoch hb : Nat) => BitVec.ofNat 64 (epoch % 2 ^ 32 * 2 ^ 32 + d % 16 * 2 ^ 28 + hb % 2 ^ 28)
    let epoch := fun (w : Word) => w.toNat / 2 ^ 32
    let hb := fun (w : Word) => w.toNat % 2 ^ 28
    let follow := s.onDie d fun x => { x with
      lease := { x.lease with leader := false, word := w, since := x.tclk.toNat }
      epochSeen := max x.epochSeen (epoch w) }
    let leads := fun (k : Nat) (n : Word) (dead : List Nat) (t : State) =>
      (k < s.dies.length → (t.die k).leaseLine = n) ∧ (t.die d).lease = ⟨true, epoch n, k, n, dead, (s.die d).tclk.toNat⟩ ∧
      (t.die d).epochSeen = max (s.die d).epochSeen (epoch n) ∧
      ∀ x, x < s.maq.ndies → (s.die x).failed = true → ∃ z ∈ t.sdir, z.die = d ∧ z.la = probeKey x
    let ok := s.lineDies.filter fun x => x ∉ l.dead ++ [l.line]
    let next := ((ok.filter fun x => l.line < x) ++ ok).headD l.line
    let moves := fun (i : Instr) =>
      (lost next → exec i s = .next (s.onDie d fun x => { x with
        lease := { x.lease with dead := l.dead ++ [l.line], line := next, leader := false } })) ∧
      (¬lost next → ∃ t, exec i s = .next t ∧
        leads next (word (max (max (s.die d).epochSeen (epoch l.word)) (epoch (line next)) + 1) 0) (l.dead ++ [l.line]) t)
    d < s.dies.length →
    (l.leader = false → exec (.leaseRenewal d) s = .next s) ∧
    (l.leader = true → exec (.leaseWatch d) s = .next s ∧ exec (.leaseTakeover d) s = .next s) ∧
    (l.leader = true → lost l.line → moves (.leaseRenewal d)) ∧
    (l.leader = false → lost l.line → moves (.leaseWatch d) ∧ moves (.leaseTakeover d)) ∧
    (l.leader = true → ¬lost l.line →
      (w = l.word → ∃ t, exec (.leaseRenewal d) s = .next t ∧
        (t.die d).lease = { l with word := word (epoch w) (hb w + 1), since := (s.die d).tclk.toNat } ∧
        (l.line < s.dies.length → (t.die l.line).leaseLine = word (epoch w) (hb w + 1))) ∧
      (w ≠ l.word → exec (.leaseRenewal d) s = .next follow)) ∧
    (l.leader = false → ¬lost l.line →
      (hb w = hb l.word → epoch w = epoch l.word → exec (.leaseWatch d) s = .next s) ∧
      (¬(hb w = hb l.word ∧ epoch w = epoch l.word) → exec (.leaseWatch d) s = .next follow) ∧
      (w ≠ l.word → exec (.leaseTakeover d) s = .next follow) ∧
      (w = l.word → ∃ u, leads l.line (word (epoch w + 1) 0) l.dead u ∧ exec (.leaseTakeover d) s = .next (u.monitor d 0x0A)))

/-- R378, R383 to R387: a voted machine. The copies' forms of an output are compared after the injections that wait; one copy that dissents is recorded
with its machine and overwritten in a RESYNC window of 10000 fabric clocks, a disagreement without a majority or within the window stops the machine with
the die alarm, which goes to the leader, and a stopped machine gives no output. Of two copies the one that an injection inverted is to blame; where
neither or both are, which is is free (log 15). An injection waits 2^20 fabric clocks at most. Event 3 names machine and copy as the model encodes
them (log 40). -/
def Obligations.ControlVoters : Prop :=
  ∀ (d mach copy : Nat) (a b c : Word) (s : State),
    let fclk := (s.die d).fclk.toNat
    let stand := fun (now : Nat) (z : Mach) =>
      if z.st = 1 ∧ z.till ≤ now then { z with st := 0, inj := z.inj ++ z.held.map fun k => (k, z.till), held := [] } else z
    let pick := fun (x : Die) => if mach = 0 then x.sch else if mach = 1 then x.dsp else x.wlk
    let x := stand fclk (pick (s.die d))
    let on := fun (f : Mach → Mach) (z : Die) =>
      let y := f (stand z.fclk.toNat (pick z))
      if mach = 0 then { z with sch := y } else if mach = 1 then { z with dsp := y } else { z with wlk := y }
    let y := s.onDie d (on fun z => { z with inj := [] })
    let odd := fun (k : Nat) => x.inj.countP (fun p => p.1 == k) % 2 = 1
    let flip := fun (k : Nat) (w : Word) => if odd k then w ^^^ 1 else w
    let f := fun (k : Nat) => if k = 0 then flip 0 a else if k = 1 then flip 1 b else flip 2 c
    let blames := fun (u : State) (k : Nat) => State.monitorAt (u.onDie d fun z =>
      let z' := on (fun m => { m with copy := BitVec.ofNat 2 k, st := 1, till := z.fclk.toNat + 10000 }) z
      { z' with dcnt := z.dcnt + 1 }) d 3 mach k
    let halts := fun (u : State) (k : Nat) => State.reportTo (State.monitor (State.monitorAt (u.onDie d fun z =>
      let z' := on (fun m => { m with copy := BitVec.ofNat 2 k, st := 2, inj := [], held := [] }) z
      { z' with dcnt := z.dcnt + 1 }) d 3 mach k) d 4) d d 7
    let out := exec (.voterOutput d mach a b c) s
    let two := fun (i j : Nat) =>
      (f i = f j → out = .next y) ∧
      (f i ≠ f j → odd i → ¬odd j → out = .next (halts y i)) ∧
      (f i ≠ f j → odd j → ¬odd i → out = .next (halts y j)) ∧
      (f i ≠ f j → (odd i ↔ odd j) → ∃ k, (k = i ∨ k = j) ∧ out = .next (halts { y with free := s.free + 1 } k))
    (x.st = 2 → out = .next y) ∧
    (x.st = 1 → (x.copy = 0 → two 1 2) ∧ (x.copy = 1 → two 0 2) ∧ (x.copy ≠ 0 → x.copy ≠ 1 → two 0 1)) ∧
    (x.st ≠ 2 → x.st ≠ 1 →
      (f 0 = f 1 → f 1 = f 2 → out = .next y) ∧
      (f 0 = f 1 → f 1 ≠ f 2 → out = .next (blames y 2)) ∧
      (f 0 = f 2 → f 0 ≠ f 1 → out = .next (blames y 1)) ∧
      (f 1 = f 2 → f 0 ≠ f 1 → out = .next (blames y 0)) ∧
      (f 0 ≠ f 1 → f 0 ≠ f 2 → f 1 ≠ f 2 → ∃ k, k < 3 ∧ out = .next (halts { y with free := s.free + 1 } k))) ∧
    exec (.resyncEnd d mach) s = .next (s.onDie d (on fun m => m)) ∧
    (mach < 3 → copy < 3 → exec (.voteInject d mach copy) s = .next (s.onDie d (on fun m =>
      if m.st = 2 then m
      else if m.st = 1 ∧ m.copy.toNat = copy then { m with held := m.held ++ [copy] }
      else { m with inj := m.inj ++ [(copy, fclk)] }))) ∧
    (¬(mach < 3 ∧ copy < 3) → exec (.voteInject d mach copy) s = .next s) ∧
    exec (.injectDiscard d mach) s = .next (s.onDie d (on fun m => { m with inj := m.inj.filter fun p => fclk < p.2 + 2 ^ 20 }))

/-- R427 to R433, R393: errors, retirement, heat, and the rings of records. The second uncorrectable error of a cluster within a period retires it, the
sixteenth corrected one in an array raises its event, an uncorrectable one poisons where it lies; throttle steps and the trip raise their
events; a monitor event is counted, and recorded while its ring has space; records of `pfring` are held back in order. The source unit and
DETAIL of a monitor record are free (log 11). -/
def Obligations.ErrorsAndHeat : Prop :=
  ∀ (d cl arr deg code t0 off : Nat) (n : BitVec 10) (k : BitVec 6) (w : Word) (rec_ : Nat) (r : PfRec) (rs : List PfRec) (s u : State) (x : Thread),
    let retire := fun (s : State) => if (s.cluster d cl).retired then s else (s.onCluster d cl fun x => { x with retired := true, drain := false }).monitor d 0x0E
    let counted := fun (s : State) (d cl : Nat) =>
      let n := assocD 0 (s.die d).uerr cl + 1
      let s := s.onDie d fun x => { x with uerr := assocSet x.uerr cl n }
      if n = 2 then (if (s.cluster d cl).retired then s else (s.onCluster d cl fun x => { x with retired := true, drain := false }).monitor d 0x0E) else s
    let ces := assocD 0 (s.die d).cerr arr + 1
    let ce := s.onDie d fun x => { x with cerr := assocSet x.cerr arr ces }
    let ue := s.monitor d 0x10
    let mark := fun (key : Nat) => if key / 8 * 8 ∈ ue.bad then ue else { ue with bad := ue.bad ++ [key / 8 * 8] }
    let reg := fun (f : Regs → Regs) => counted (ue.modThread t0 fun y => { y with regs := f y.regs }) x.loc.die x.loc.cl
    let heat := (s.die d).heat
    let step := if 110 ≤ deg then 3 else if 100 ≤ deg ∨ heat = 2 ∧ 97 < deg then 2 else if 95 ≤ deg ∨ 1 ≤ heat ∧ 92 < deg then 1 else 0
    let base := fieldN w.toNat 12 40 * 4096
    let size := 2 ^ max 6 (w.toNat % 16)
    let prod := s.physRead base 8
    let cons := s.physRead (base + 64) 8
    let at_ := base + 128 + 32 * (prod % size)
    let plain := ∀ l, base / 64 ≤ l → l ≤ (base + 128 + 32 * size) / 64 → s.homeFree l = true ∧ s.lineLost l = false
    let pf := r.page.vpn.toNat * 65536 + r.page.pasid.toNat * 2 ^ 64 + r.page.spc.toNat * 2 ^ 96 + r.src.toNat * 2 ^ 104 + r.who.toNat * 2 ^ 128
      + r.fclk.toNat * 2 ^ 192
    exec (.controlFault d cl) s = .next (retire s) ∧
    exec (.clusterOffline d cl) s = .next (if (s.cluster d cl).retired = true ∧ s.idle d cl = true then
      s.onCluster d cl fun x => { x with offline := true } else s) ∧
    exec (.correctedError d arr) s = .next (if ces = 16 then ce.monitor d 0x0F else ce) ∧
    exec (.scrubPeriod d) s = .next (s.onDie d fun x => { x with cerr := [], uerr := [], scrubAt := x.fclk.toNat }) ∧
    (∀ la, ∃ t, exec (.uncorrectableError d (.line la)) s = .next t ∧ t.lineLost la = true ∧
      ((ue.jent (ue.dirDie la) la).st ≠ .lost → ∀ y ∈ t.clines, y.la ≠ la)) ∧
    exec (.uncorrectableError d (.scratch cl off)) s = .next (counted (mark (2 ^ 53 + (d * 16 + cl) * 2 ^ 21 + off % 2 ^ 21)) d cl) ∧
    exec (.uncorrectableError d (.vault cl off)) s = .next (mark (2 ^ 52 + d * 2 ^ 29 + (cl * 2 ^ 25 + off) % 2 ^ 29)) ∧
    (ue.thread? t0 = some x →
      exec (.uncorrectableError d (.vreg t0 n)) s = .next (reg fun y => { y with vtag := y.vtag.set n.toNat tPSN }) ∧
      exec (.uncorrectableError d (.sreg t0 k)) s = .next (reg fun y => { y with rpois := setBit y.rpois k.toNat true }) ∧
      exec (.uncorrectableError d (.tile t0 k)) s = .next (reg fun y => { y with ttag := y.ttag.set k.toNat tPSN })) ∧
    (ue.thread? t0 = none → exec (.uncorrectableError d (.vreg t0 n)) s = .next ue ∧ exec (.uncorrectableError d (.sreg t0 k)) s = .next ue ∧
      exec (.uncorrectableError d (.tile t0 k)) s = .next ue) ∧
    (heat ≠ 3 → exec (.temperatureChange d deg) s = .next (if step = heat then s else
      (s.onDie d fun x => { x with heat := step }).monitor d (if step = 3 then 0x12 else 0x11))) ∧
    (heat = 3 → 90 ≤ deg → exec (.temperatureChange d deg) s = .next s) ∧
    (heat = 3 → deg < 90 → exec (.temperatureChange d deg) s = exec (.dieReset d) s) ∧
    -- a record goes into a ring
    (base = 0 ∨ (prod + 2 ^ 64 - cons) % 2 ^ 64 = size → s.ringPut w rec_ = none) ∧
    (base ≠ 0 → (prod + 2 ^ 64 - cons) % 2 ^ 64 ≠ size → plain → ∃ t, s.ringPut w rec_ = some t ∧ t.dies = s.dies ∧
      (∀ i, i < 8 → t.mem.get (base + i) = BitVec.ofNat 8 ((prod + 1) % 2 ^ 64 / 2 ^ (8 * i))) ∧
      (∀ i, i < 32 → t.mem.get (at_ + i) = BitVec.ofNat 8 (rec_ / 2 ^ (8 * i)))) ∧
    -- a monitor event
    (d < s.dies.length → code < 2 ^ 16 → ((s.monitor d code).die d).evcnt.get code = (s.die d).evcnt.get code + 1) ∧
    (∀ e, e ≠ code → ((s.monitor d code).die d).evcnt.get e = (s.die d).evcnt.get e) ∧
    (d < s.dies.length → base ≠ 0 → plain → w = (s.die d).monring → (prod + 2 ^ 64 - cons) % 2 ^ 64 ≠ size →
      (s.monitor d code).mem.get at_ = BitVec.ofNat 8 code ∧ (s.monitor d code).mem.get (at_ + 1) = BitVec.ofNat 8 (code / 256) ∧
      ∀ i, i < 8 → (s.monitor d code).mem.get (at_ + 24 + i) = (s.die d).fclk.extractLsb' (8 * i) 8) ∧
    ((s.die d).monFull = true → w = (s.die d).monring → base ≠ 0 → (prod + 2 ^ 64 - cons) % 2 ^ 64 ≠ size →
      exec (.monitorRingSpaceFreed d) s = .next ((s.onDie d fun x => { x with monFull := false }).monitor d 0x13)) ∧
    ((s.die d).monFull = false ∨ (w = (s.die d).monring ∧ (base = 0 ∨ (prod + 2 ^ 64 - cons) % 2 ^ 64 = size)) →
      exec (.monitorRingSpaceFreed d) s = .next s) ∧
    ((s.die d).heldPf = [] → exec (.pfringRecordDrain d) s = .next s) ∧
    ((s.die d).heldPf = r :: rs →
      (s.ringPut (s.die d).pfring pf = none → exec (.pfringRecordDrain d) s = .next s) ∧
      (s.ringPut (s.die d).pfring pf = some u → exec (.pfringRecordDrain d) s = exec (.pfringRecordDrain d) (u.onDie d fun z => { z with heldPf := rs })))

/-! ### The supervisor's requests and the scheduler (R41 to R43, R285, R343 to R347, R364 to R377, R401, R402, R405, R406) -/

/-- R41 to R43, R285, R401, R402, R405, R406: what a control word of the supervisor starts. A shoot-down writes back and sweeps the issuing die and asks
every other one that answers; it ends when all have acknowledged and what the die held is performed. A page report drops the pages that are now
present from every waiter of a die whose walkers vote, and a parked thread whose last missing page it was restarts at its oldest record's load or at
its parking point. A pre-emption is delivered once, to each thread of the task: what waits is abandoned, the copies leave their channels, the save area
is written and the handler entered; a halted thread ends. A saved thread is restored in its turn where it fits, in its handler, with RESTORE set. -/
def Obligations.SupervisorRequests : Prop :=
  ∀ (d kind c b : Nat) (spc : BitVec 3) (sz : BitVec 2) (pasid : BitVec 20) (vpn : BitVec 41) (task : BitVec 32) (n : Nat) (i : Instr) (x : Thread) (k : Task)
    (cls : List Nat) (ks : List (Nat × Copy)) (s u0 a r q v w : State),
    let form := (kind = 0 ∧ i = .shootdownPage d spc sz pasid) ∨ (kind = 1 ∧ i = .shootdownPasidSpace d spc pasid) ∨
      (kind = 2 ∧ i = .shootdownPasid d pasid) ∨ (kind = 3 ∧ i = .shootdownAll d)
    let page := (s.die d).sdaddr.toNat / 65536 % 2 ^ 41
    let others := (rangeFrom 0 s.maq.ndies).filter fun z => z ≠ d ∧ s.dead z = false
    let asked := sdArg kind (if kind ≤ 1 then spc.toNat else 0) (if kind = 0 then sz.toNat else 0) (if kind ≤ 2 then pasid.toNat else 0)
    let hit := fun (z : TlbE) => kind = 3 ∨ z.pasid = pasid ∧ (kind = 2 ∨ z.spc = spc ∧ (kind = 1 ∨ (sz = 3 ∨ z.sz = sz) ∧
      z.page = page / 2 ^ (pageBits z.sz.toNat - 16)))
    let wb := s.writeBack d
    let acked := if (s.die d).sdOwed ≠ [] ∧ s.unperformed d = false then
      (s.die d).sdOwed.foldl (fun z m => z.send .shoota (mkMsg m.src d 0 m.txid)) (s.onDie d fun y => { y with sdOwed := [] }) else s
    let walks := s.walkAgain spc pasid
    let s' := walks.1
    let t0 := s'.cur
    let here := fun (d : Nat) (p : Page) => p.pasid = pasid ∧ p.spc = spc ∧ d ∈ walks.2 ∧
      ∃ z, s'.mappedSz d pasid.toNat spc.toNat p.vpn.toNat = some z ∧ p.vpn.toNat / 2 ^ (pageBits z - 16) = vpn.toNat / 2 ^ (pageBits z - 16)
    let u := (u0.abandonWaits u0.cur.id).onCur fun t => { t.dropWaits with preempt := false }
    let cs := u.copiesOf u.cur
    let g := (u.cur.slices.find? fun c => c.live != 0).elim 0 fun c => c.grp
    let vec := fun (s : State) => vecPc (s.die x.loc.die).trapvec
    let hdr := recHeader u.cur 0x0014 0 0 0 (u.cur.mask g) (u.cur.pcOf g) (u.cur.gslices g)
    let area := (u.areaWrite u.cur (entryBytes u u.cur hdr cs.length)).areaWrite u.cur
      ((0x1600, u.cur.cohortBytes, 1024) :: cs.zipIdx.map fun z => (0x2000 + 128 * z.2, z.1.2.record z.1.1, 128))
    let back : Thread := { x with resident := true, rbase := b, loc := { x.loc with cl := c } }
    let place := findMap (fun c => (q.restoreFit x c ks).map fun b => (c, b)) cls
    (form → ∃ t, exec i s = .next t ∧ t.mem = wb.mem ∧
      (d < wb.dies.length → (t.die d).sdBusy = true ∧ (t.die d).sdAcks = others ∧ (t.die d).sdTx = s.freshTx d) ∧
      (∀ p, p ∈ t.tlb ↔ p ∈ wb.tlb ∧ ¬(keyDie p.1 = d ∧ hit p.2)) ∧
      (wb.cur.resident = true → wb.cur.loc.die = d → ∀ p, p ∈ t.cur.lpr ↔ p ∈ wb.cur.lpr ∧ ¬hit p.2) ∧
      (∀ y ∈ t.chans, y.die = d → (∀ z, y.src = some z → ¬hit z) ∧ ∀ z, y.dst = some z → ¬hit z) ∧
      ((∀ z ∈ others, t.cut d z = false) → t.msgs = wb.msgs ++ others.map fun z => (.shoot, { mkMsg z d page (s.freshTx d) with arg := asked }))) ∧
    exec (.shootdownComplete d) s = .next (if (acked.die d).sdBusy = true ∧ (acked.die d).sdAcks.all acked.dead = true ∧ acked.unperformed d = false then
      acked.onDie d fun y => { y with sdBusy := false, sdAcks := [] } else acked) ∧
    (∀ z, z < 8 → ((s.die z).wlk.st = 2 → z ∉ walks.2) ∧
      ((∃ p ∈ s.awaitedPages z, p.pasid = pasid ∧ p.spc = spc) → (s.die z).wlk.st = 0 → (s.die z).wlk.inj = [] → z ∈ walks.2)) ∧
    (∃ t, exec (.pageReadyReport d spc pasid vpn) s = .next t ∧ t.mem = s'.mem ∧ t.msgs = s'.msgs ∧
      (t0.resident = true → (∀ p ∈ t0.missing, ¬here t0.loc.die p) → t.cur = t0) ∧
      (t0.resident = true → (∃ p ∈ t0.missing, here t0.loc.die p) →
        (∀ p, p ∈ t.cur.missing ↔ p ∈ t0.missing ∧ ¬here t0.loc.die p) ∧ t.cur.regs = t0.regs ∧ t.cur.ctl = t0.ctl ∧
        (t0.parked = false ∨ (∃ p ∈ t0.missing, ¬here t0.loc.die p) → t.cur.slices = t0.slices ∧ t.cur.frs = t0.frs ∧ t.cur.parked = t0.parked) ∧
        (t0.parked = true → (∀ p ∈ t0.missing, here t0.loc.die p) → t.cur.parked = false ∧ t.cur.frs = [] ∧
          ∀ (j : Nat) y, t0.slices[j]? = some y → ∃ y', t.cur.slices[j]? = some y' ∧ y'.live = y.live ∧ y'.active = y.active ∧ y'.stack = y.stack ∧
            (y.live = 0 → y'.pc = y.pc) ∧
            (y.live ≠ 0 → y'.wait = .none ∧ y'.pc = match t0.frs.find? fun f => f.gmask &&& t0.gslices y.grp != 0 with
              | some f => f.pc
              | none => t0.parkPc.getD j y.pc))) ∧
      (∀ y ∈ t.chans, ∀ z ∈ y.cmds, ∀ p, z.stopped = some p → ¬here y.die p) ∧ (∀ y ∈ t.queues, ∀ p, y.page = some p → ¬here y.die p) ∧
      (∀ y ∈ t.tasks, ∀ p, y.page = some p → ¬here y.die p) ∧ ∀ y ∈ t.savedT, ∀ p ∈ y.missing, ¬here y.loc.die p) ∧
    (∃ t, exec (.patinaForce n) s = .next t ∧ t.mem = s.mem ∧ ∀ y, s.thread? n = some y →
      t.thread? n = some { y with ctl := { y.ctl with patina := BitVec.allOnes 512 } }) ∧
    (∃ t, exec (.preemptRequest task) s = .next t ∧ t.mem = s.mem ∧
      t.threads = s.threads.map fun y => if y.task = task then { y with preempt := true } else y) ∧
    (s.thread? n = none → exec (.preemptTake n) s = .next s) ∧
    (s.thread? n = some x →
      (x.preempt = false → exec (.preemptTake n) s = .next s) ∧
      (x.preempt = true → x.halted = true → ∃ t, exec (.preemptTake n) s = .next t ∧ t.mem = s.mem ∧
        ∃ y, t.thread? n = some y ∧ y.saved = false ∧ y.preempt = false ∧ y.memb = [] ∧ ∀ z ∈ y.slices, z.live = 0) ∧
      (x.preempt = true → x.halted = false → x.handler = true ∨ s.preemptWaits x = true → exec (.preemptTake n) s = .next s) ∧
      (x.preempt = true → x.halted = false → x.handler = false → s.preemptWaits x = false →
        ((s.focus n).areaTouch (s.focus n).cur 1 = (u0, false) → exec (.preemptTake n) s = .next u0) ∧
        ((s.focus n).areaTouch (s.focus n).cur 1 = (u0, true) →
          (vecPc (u.die u.cur.loc.die).trapvec ≠ 0 → ∃ t, exec (.preemptTake n) s = .next t ∧ t.mem = area.mem ∧ t.cur.id = u.cur.id ∧ t.curGrp = 0 ∧
            t.cur.handler = true ∧ t.cur.saved = true ∧ t.cur.preempt = false ∧ t.cur.watch = none ∧ t.cur.cntCp = u.cur.cntCp - cs.length ∧
            t.cur.regs.rdR 62 = 0x14 ∧ t.cur.regs.rdR 63 = BitVec.ofNat 64 (u.csaAddr u.cur) ∧
            (∀ z ∈ t.cur.slices, z.live ≠ 0 → z.pc = vecPc (u.die u.cur.loc.die).trapvec ∧ z.active = z.live ∧ z.wait = .none) ∧
            ∀ y ∈ t.chans, y.die = u.cur.loc.die → y.cl = u.cur.loc.cl → ∀ z ∈ y.cmds, z.t ≠ u.cur.id) ∧
          (vecPc (u.die u.cur.loc.die).trapvec = 0 → ∃ t, exec (.preemptTake n) s = .next t ∧ t.cur.id = u.cur.id ∧ t.cur.halted = true)))) ∧
    ((s.savedT.find? fun z => z.id == n) = none → exec (.threadRestore n) s = .next s) ∧
    ((s.savedT.find? fun z => z.id == n) = some x →
      (s.task? x.task = none ∨ (s.die x.loc.die).dsp.st = 2 ∨ s.restoreTurn x = false → exec (.threadRestore n) s = .next s) ∧
      (s.task? x.task = some k → (s.die x.loc.die).dsp.st ≠ 2 → s.restoreTurn x = true →
        (s.areaTouch x 1 = (a, false) → exec (.threadRestore n) s = .next a) ∧
        (s.areaTouch x 1 = (a, true) → a.restoreClusters x k.image = (r, cls) → r.copyRecs x (r.csaAddr x) = (q, ks) →
          (place = none → exec (.threadRestore n) s = .next q) ∧
          (place = some (c, b) →
            (q.output x.loc.die 1 = (v, false) → exec (.threadRestore n) s = .next v) ∧
            (q.output x.loc.die 1 = (v, true) →
              (v.areaTouch back 1 = (w, false) → exec (.threadRestore n) s = .next w) ∧
              (v.areaTouch back 1 = (w, true) → vec w ≠ 0 →
                ∃ t y, exec (.threadRestore n) s = .next t ∧ y ∈ t.threads ∧ y.id = n ∧ y.resident = true ∧ y.loc = { x.loc with cl := c } ∧ y.rbase = b ∧
                  y.handler = true ∧ y.restoring = true ∧ y.saved = true ∧ y.cntCp = ks.length ∧ y.cntMx = 0 ∧ y.outs = [] ∧
                  y.regs.rdR 62 = 0x14 ∧ (∀ z ∈ y.slices, z.live ≠ 0 → z.pc = vec w) ∧ ∀ z ∈ t.savedT, z.id ≠ n))))))

/-- R343 to R347, R364 to R370: `svc`, `spawn` and the records of a queue. A record of a queue that may be read is taken by its KIND, or halts the queue
with the code of its failure; nothing but the record's own step takes it. A task's start awaits the earlier tasks that conflict with it and the
earlier waits, and its extra predecessors; its completion lowers those that counted it, deposits its patina and counts in the completion object. -/
def Obligations.QueueRecords : Prop :=
  ∀ (d : Nat) (pasid : BitVec 20) (qn : BitVec 16) (q : Qcb) (im : BitVec 2048) (h : BitVec 32) (k : Task) (x : Ctx) (rm : BitVec 3) (code obj slot : Nat)
    (p : Page) (g : Gd) (dst sa sc : BitVec 10) (sb : Src) (ps : List Pc) (xs : List (Pc × Option Nat)) (oq : Option Qcb) (st : Nat)
    (s u v u2 s1 s2 s3 s4 : State),
    let nr := (s.freshQueue d pasid qn).nextRec d pasid qn
    let f := fun (a n : Nat) => fieldN im.toNat (8 * a) (8 * n)
    let zero := fun (a b : Nat) => f a (b - a) = 0
    let halt : Nat → Out := fun code => .next (v.haltQueue q q.head code)
    let made : BitVec 20 → Ctx → Out := fun pas ctx =>
      let r := v.newTask d pas pasid qn im q.head false 0 ctx
      .next ((r.1.tookRec q).enterWindow r.2)
    let lists := (v.queue d pasid qn).lists
    let sent := v.tasks.find? fun t => lists.isEmpty && t.bySpawn && t.st == .accepted && t.die == d && t.qpasid == pasid && t.qn == qn && t.pos == q.head && t.image == im
    let stale := fun (t : Task) => lists.isEmpty && t.bySpawn && t.st == .accepted && t.die == d && t.qpasid == pasid && t.qn == qn && t.pos == q.head
    let clean : State := { v with tasks := v.tasks.filter fun t => !stale t }
    let pas := recPasid im pasid
    let status := spawnStatus im pasid (pasid == 0)
    let ready := fun (t : Task) => t.die == d && t.qpasid == pasid && t.qn == qn && t.kind == 2 && t.st == .ready
    let ones := [(1, Instr.spawnRecord d pasid qn), (2, .copyTask d pasid qn), (3, .countBarrierWait d pasid qn), (4, .list d pasid qn)]
    let idle := s.tasks.find? ready = none
    let overlap := fun (a b : BitVec 2048) => (recRanges a).any fun y => (recRanges b).any fun z => (y.2.2 || z.2.2) && spaceOf y.1 == spaceOf z.1 &&
      decide (y.1 / 256 * 256 < (z.1 + z.2.1 + 255) / 256 * 256) && decide (z.1 / 256 * 256 < (y.1 + y.2.1 + 255) / 256 * 256)
    let counts := fun (t : Task) => t.inWin && t.die == k.die && t.qpasid == k.qpasid && t.qn == k.qn && k.kind != 3 &&
      (t.kind == 3 || overlap t.image k.image)
    let c := q.cmpl
    let old := s.physRead c 8
    let plain := fun (z : State) l => z.homeFree l = true ∧ z.lineLost l = false ∧ (∀ y ∈ z.clines, y.la ≠ l) ∧ ∀ y ∈ z.mirrors, y.la ≠ l
    -- the next record stands in the ring
    (∀ w : State, (w.queue d pasid qn).lists = [] → w.schedQueue d pasid.toNat qn.toNat = some q → q.halt = false → (w.die d).sch.st ≠ 2 → q.bad = false →
      q.tail ≠ q.head → (w.queue d pasid qn).page = none → (w.tasks.filter fun t => t.inWin && t.die == d).length < 4096 →
      ((w.tasks.filter fun t => t.inWin && t.die == d).countP fun t => t.qpasid == pasid && t.qn == qn) < 64 →
      w.nextRec d pasid qn = (w, .ok q (BitVec.ofNat 2048 (w.physRead (q.rbase + 256 * (q.head % 2 ^ q.rlogn)) 256)))) ∧
    -- a record that is read is taken by its own step
    (nr = (u, .none) → ∀ y ∈ ones, (y.1 = 2 → idle) → exec y.2 s = .next u) ∧
    (nr = (u, .ok q im) → ∀ y ∈ ones, (y.1 = 2 → idle) → f 0 1 ≠ y.1 → exec y.2 s = .next u) ∧
    (nr = (u, .ok q im) → u.output d 0 = (v, false) → ∀ y ∈ ones, (y.1 = 2 → idle) → f 0 1 = y.1 → exec y.2 s = .next v) ∧
    (nr = (u, .perm q) → u.output d 0 = (v, true) → ∀ y ∈ ones, (y.1 = 2 → idle) → exec y.2 s = halt 0x12) ∧
    (nr = (u, .absent p) → ∀ y ∈ ones, (y.1 = 2 → idle) →
      exec y.2 s = .next ((u.setQueue { u.queue d pasid qn with page := some p }).pfPut d ⟨p, 3, qn.setWidth 64, (u.die d).fclk⟩)) ∧
    (nr = (u, .bad q) → (∀ y ∈ ones, (y.1 = 2 → idle) → exec y.2 s = .next u) ∧
      (u.output d 0 = (v, true) → exec (.queueTailAdvance d pasid qn) s = halt 1)) ∧
    (∀ r0, nr = (u, r0) → (∀ y, r0 ≠ .bad y) →
      let nr2 := (u.freshQueue d pasid qn).nextRec d pasid qn
      (nr2 = (u2, .none) → exec (.queueTailAdvance d pasid qn) s = .next u2) ∧
      (nr2 = (u2, .perm q) → u2.output d 0 = (v, true) → exec (.queueTailAdvance d pasid qn) s = halt 0x12) ∧
      (nr2 = (u2, .absent p) → exec (.queueTailAdvance d pasid qn) s =
        .next ((u2.setQueue { u2.queue d pasid qn with page := some p }).pfPut d ⟨p, 3, qn.setWidth 64, (u2.die d).fclk⟩)) ∧
      (nr2 = (u2, .ok q im) →
        (1 ≤ f 0 1 → f 0 1 ≤ 4 → exec (.queueTailAdvance d pasid qn) s = .next u2) ∧
        (f 0 1 = 0 ∨ 4 < f 0 1 → u2.output d 0 = (v, true) → exec (.queueTailAdvance d pasid qn) s = halt 8))) ∧
    (nr = (u, .ok q im) → u.output d 0 = (v, true) →
      (f 0 1 = 1 →
        (∀ t, sent = some t → exec (.spawnRecord d pasid qn) s = .next ((v.tookRec q).enterWindow t.h)) ∧
        (sent = none → status ≠ 0 → exec (.spawnRecord d pasid qn) s = .next (clean.haltQueue q q.head status)) ∧
        (sent = none → status = 0 → clean.progressOk d im pas = false → exec (.spawnRecord d pasid qn) s = .next (clean.haltQueue q q.head 7)) ∧
        (sent = none → status = 0 → clean.progressOk d im pas = true →
          let r := clean.newTask d pas pasid qn im q.head false 0 .unset
          exec (.spawnRecord d pasid qn) s = .next ((r.1.tookRec q).enterWindow r.2))) ∧
      (f 0 1 = 2 → idle →
        let good := f 1 1 ≤ 7 ∧ zero 2 12 ∧ zero 24 64 ∧ zero 224 256
        (¬good → exec (.copyTask d pasid qn) s = halt 8) ∧
        (good → v.ctxRec q = none → exec (.copyTask d pasid qn) s = halt 0x14) ∧
        (good → v.ctxRec q = some (x, rm) → exec (.copyTask d pasid qn) s = made pasid { x with csaBase := rm.setWidth 64 })) ∧
      (f 0 1 = 3 →
        let good := zero 1 16 ∧ zero 24 256
        (¬good → exec (.countBarrierWait d pasid qn) s = halt 8) ∧
        (good → v.ctxRec q = none → exec (.countBarrierWait d pasid qn) s = halt 0x14) ∧
        (good → v.ctxRec q = some (x, rm) → 2 ^ cbLogn x.cbarBase ≤ f 16 4 → exec (.countBarrierWait d pasid qn) s = halt 0x13) ∧
        (good → v.ctxRec q = some (x, rm) → f 16 4 < 2 ^ cbLogn x.cbarBase → exec (.countBarrierWait d pasid qn) s = made pasid x)) ∧
      (f 0 1 = 4 →
        let good := zero 1 12 ∧ zero 28 128 ∧ zero 224 256 ∧ 1 ≤ f 24 4 ∧ f 24 4 ≤ 65535 ∧ f 16 8 % 256 = 0 ∧ f 16 8 < 2 ^ 57
        (¬good → exec (.list d pasid qn) s = halt 8) ∧
        (good → 4 ≤ lists.length → exec (.list d pasid qn) s = halt 0x10) ∧
        (good → lists.length < 4 → (∃ l ∈ lists, l.1.toNat = f 16 8) → exec (.list d pasid qn) s = halt 0x11) ∧
        (good → lists.length < 4 → (∀ l ∈ lists, l.1.toNat ≠ f 16 8) → exec (.list d pasid qn) s =
          .next (v.setQueue { v.queue d pasid qn with lists := (BitVec.ofNat 64 (f 16 8), f 24 4, 0) :: lists })))) ∧
    (∀ t cl, s.tasks.find? ready = some t → s.leastBusy d (f 1 1 % 8) (s.liveClusters d) = some cl → t.image = im → t.die = d →
      let cp := t.copy (BitVec.ofNat 3 t.ctx.csaBase.toNat)
      let r := if cp.data.toNat % 4096 ≠ 0 then s.copyFail d cl (f 1 1 % 8) cp 1 else s.copyEnqueue d cl (f 1 1 % 8) cp
      (s.chanFull d cl (f 1 1 % 8) = true → exec (.copyTask d pasid qn) s = .next s) ∧
      (s.chanFull d cl (f 1 1 % 8) = false → r = (u, .busy) → exec (.copyTask d pasid qn) s = .next s) ∧
      (∀ b, s.chanFull d cl (f 1 1 % 8) = false → r = (u, b) → b ≠ .busy → exec (.copyTask d pasid qn) s =
        .next (u.onTask t.h fun t => { t with st := .placed }))) ∧
    -- a halt
    ((s.qcb q.pa).halt = true → s.haltQueue q code st = s) ∧
    (q = s.qcb q.pa → q.halt = false → q.pa % 64 = 0 → c / 64 ≠ q.pa / 64 → (c + 64) / 64 ≠ q.pa / 64 → fieldN (s.die q.die).monring.toNat 12 40 = 0 →
      plain s (q.pa / 64) → plain s (c / 64) → q.die < s.dies.length →
      let t := s.haltQueue q st code
      (t.qcb q.pa).halt = true ∧ (t.qcb q.pa).f 415 408 = code % 256 ∧ (t.qcb q.pa).f 447 416 = st % 2 ^ 32 ∧ (t.qcb q.pa).head = q.head ∧
        (t.qcb q.pa).tail = q.tail ∧ (t.qcb q.pa).f 61 0 = q.f 61 0 ∧ (t.die q.die).evcnt.get 7 = (s.die q.die).evcnt.get 7 + 1) ∧
    -- a task enters the window
    (s.task? h = some k → (s.tasks.countP fun t => t.h == h) = 1 →
      let preds := (s.tasks.filter counts).map fun t => t.h
      let inn := { k with st := .window, preds := preds, startP := k.spawnP ||| (s.queue k.die k.qpasid k.qn).pq }
      (k.kind = 3 ∨ preds ≠ [] ∨ k.xout ≠ 0 → s.enterWindow h = s.onTask h fun _ => inn) ∧
      (k.kind ≠ 3 → preds = [] → k.xout = 0 → ((s.onTask h fun _ => inn).output k.die 0).2 = true →
        ∃ n, (s.enterWindow h).task? h = some { inn with st := .ready, readySeq := n })) ∧
    -- a barrier wait, and a task's completion
    (s.task? h = none → exec (.countBarrierWaitComplete h) s = .next s ∧ exec (.taskComplete h) s = .next s) ∧
    (s.task? h = some k → k.h = h →
      let waits := k.kind = 3 ∧ k.st = .window ∧ k.page = none ∧ k.ended = 0 ∧ (s.die k.die).sch.st ≠ 2
      let r := s.barrier k.die (10000 + k.die * 16 + 15) k.pasid (k.pasid == 0) k.ctx.cbarBase (recF k.image 16 4) .load
      (¬waits → exec (.countBarrierWaitComplete h) s = .next s) ∧
      (waits → r = (u, .ok obj slot) → (u.cbar obj).flips = recF k.image 20 4 → exec (.countBarrierWaitComplete h) s = .next u) ∧
      (waits → r = (u, .ok obj slot) → (u.cbar obj).flips ≠ recF k.image 20 4 → (u.cbar obj).err = false →
        exec (.countBarrierWaitComplete h) s = .next (u.onTask h fun t => { t with ended := 1, complP := u.slotAt slot })) ∧
      (waits → (∃ o z, r = (u, .ok o z) ∧ (u.cbar o).flips ≠ recF k.image 20 4 ∧ (u.cbar o).err = true) ∨ r = (u, .perm) →
        exec (.countBarrierWaitComplete h) s = .next ((u.onTask h fun t => { t with st := .placed }).haltTask k 0x13)) ∧
      (waits → r = (u, .absent p) → exec (.countBarrierWaitComplete h) s =
        .next ((u.onTask h fun t => { t with page := some p }).pfPut k.die ⟨p, 3, k.qn.setWidth 64, (u.die k.die).fclk⟩)) ∧
      (waits → r = (u, .busy) → exec (.countBarrierWaitComplete h) s = .next u) ∧
      let over_ := (k.kind = 1 ∧ k.st = .placed ∧ k.ended = recThreads k.image) ∨ (k.kind = 2 ∧ k.st = .placed ∧ k.ended = 1) ∨
        (k.kind ≠ 1 ∧ k.kind ≠ 2 ∧ k.st = .window ∧ k.ended = 1)
      (¬over_ ∨ (s.die k.die).sch.st = 2 → exec (.taskComplete h) s = .next s) ∧
      (over_ → (s.die k.die).sch.st ≠ 2 → ∃ t, exec (.taskComplete h) s = .next t ∧ (∀ y ∈ t.tasks, y.h ≠ h) ∧
        (∀ y ∈ s.tasks, y.h ≠ h → ∃ z ∈ t.tasks, z.h = y.h ∧ z.image = y.image ∧ z.preds = y.preds.erase h ∧
          z.startP = if h ∈ y.preds then y.startP ||| k.complP else y.startP) ∧
        (t.queue k.die k.qpasid k.qn).pq = (s.queue k.die k.qpasid k.qn).pq ||| k.complP ∧
        ((∀ y ∈ s.tasks, h ∉ y.preds) → s.schedQueue k.die k.qpasid.toNat k.qn.toNat = some q → c % 128 = 0 → c < 2 ^ 52 →
          plain s (c / 64) → plain s ((c + 64) / 64) →
          (∀ i, i < 8 → t.mem.get (c + i) = BitVec.ofNat 8 (((old % 2 ^ 63 + 1) % 2 ^ 63 + if 2 ^ 63 ≤ old then 2 ^ 63 else 0) / 2 ^ (8 * i))) ∧
          (k.complP ≠ 0 → ∀ i, i < 64 → t.mem.get (c + 64 + i) = (s.slotAt (c + 64) ||| k.complP).extractLsb' (8 * i) 8)))) ∧
    -- svc
    (let arm := s.cur.arm
     let r := s.cur.regs
     let a := sa.toNat
     let act := s.lanes g
     let w := (s1.die s1.cur.loc.die).svcring
     let base := fieldN w.toNat 12 40 * 4096
     let size := 2 ^ min 12 (max 4 (w.toNat % 16))
     let rsv := s1.physRead base 8
     let full := base = 0 ∨ size ≤ (rsv + 2 ^ 64 - s1.physRead (base + 64) 8) % 2 ^ 64
     let req := fun l => if arm then (rVal s sa).toNat else (r.rdV a l).toNat + (r.rdV (a + 1) l).toNat * 2 ^ 32
     let entry := (rsv + 1) % 2 ^ 64 + s1.cur.pasid.toNat * 2 ^ 64 + ctlVal s1 sb % 2 ^ 32 * 2 ^ 96 + act.toNat * 2 ^ 128 + s1.cur.gangid.toNat * 2 ^ 192
       + (rVal s1 sc).toNat * 2 ^ 256 + s1.cur.ctl.patina.toNat * 2 ^ 512
       + ((lanesOf act).map fun l => req l % 2 ^ 64 * 2 ^ (1024 + 64 * l)).sum
     s.Acts false g → (if arm then rPois s sa else r.tag a == tPSN || r.tag (a + 1) == tPSN) = false → ctlPois s sb = false → rPois s sc = false →
     (release 2).run s = .ok ((), s1) → s1.cur.regs = r →
     (full → exec (.svc g dst sa sb sc) s = .next ((s1.onRegs fun y => y.wrR dst.toNat (BitVec.allOnes 64)).passed (srcLen sb))) ∧
     (¬full → s1.cur.sleep = none → (∀ l, base / 64 ≤ l → l ≤ (base + 128 + 512 * size) / 64 → plain s1 l) → ∃ t, exec (.svc g dst sa sb sc) s = .next t ∧
       (∀ i, i < 512 → t.mem.get (base + 128 + 512 * (rsv % size) + i) = BitVec.ofNat 8 (entry / 2 ^ (8 * i))) ∧
       (∀ i, i < 8 → t.mem.get (base + i) = BitVec.ofNat 8 ((rsv + 1) % 2 ^ 64 / 2 ^ (8 * i))) ∧
       t.cur.regs = r.wrR dst.toNat (BitVec.ofNat 64 rsv) ∧ t.cur.ctl = { s1.cur.ctl with patina := 0 })) ∧
    -- spawn
    (let a := (s.cur.regs.rdR sa.toNat).toNat
     let img : BitVec 2048 := BitVec.ofNat 2048 (laneVal xs 0)
     s.Acts false noGd → rPois s sa = false → ctlPois s sb = false →
     (resolve .load 0 0 64 [(0, a, 256)] (fun _ => true) (fun y => spaceOf y == 0)).run s = .ok ((ps, []), s1) →
     (watchTrap false [(0, a, 256)]).run s1 = .ok ((), s1) → (readPcs ps).run s1 = .ok (xs, s2) → (xs.any fun y => y.2.isNone) = false →
     s2.submit s2.cur.loc.die img s2.cur.pasid s2.cur.super (queueNo s sb) = (s3, st, oq) →
     (oq = none → exec (.spawn dst sa sb) s = .next ((s3.onRegs fun y => y.wrR dst.toNat (BitVec.ofNat 64 (st * 2 ^ 56))).passed (srcLen sb))) ∧
     (oq = some q → (release 3).run s3 = .ok ((), s4) →
       let pas := recPasid img s2.cur.pasid
       let made := s4.newTask q.die pas pas (BitVec.ofNat 16 (queueNo s sb)) img q.tail true s2.cur.ctl.patina .unset
       ∃ t, exec (.spawn dst sa sb) s = .next t ∧
         t.mem = ((made.1.physWrite (q.rbase + 256 * (q.tail % 2 ^ q.rlogn)) (bytesN img.toNat 256)).physWrite
           (q.pa + 40) (bytesN ((q.tail + 1) % 2 ^ 64) 8)).mem ∧ t.tasks = made.1.tasks ∧
         (s4.cur.sleep = none → t.cur.regs = s4.cur.regs.wrR dst.toNat (made.2.setWidth 64) ∧ t.cur.ctl = { s4.cur.ctl with patina := 0 }))) ∧
    (spawnStatus im pasid (pasid == 0) ≠ 2 ∨ (f 8 4 ≠ 0 ∧ f 8 4 ≠ pasid.toNat ∧ pasid ≠ 0)) ∧
    (recBad im = false → f 0 1 = 1 ∧ 1 ≤ f 1 1 ∧ f 1 1 ≤ 2 ∧ f 2 1 ≤ 2 ∧ f 3 1 ≤ 15 ∧ f 4 1 ≤ 64 ∧ f 5 1 ≤ 1 ∧ zero 6 8 ∧ f 8 4 < 2 ^ 20 ∧
      (f 5 1 = 0 → f 16 8 = 0) ∧ f 40 4 % 4 = 0 ∧ zero 44 64 ∧ zero 224 256 ∧ 1 ≤ f 76 1 ∧ f 76 1 ≤ 8 ∧ 1 ≤ f 77 1 ∧ f 77 1 ≤ 32 ∧ f 78 1 ≤ 64 ∧
      1 ≤ f 72 4 ∧ f 72 4 ≤ 65535 ∧ f 64 8 % 8 = 0 ∧ spaceOf (f 64 8) = 0 ∧ zero 79 96 ∧ (f 1 1 = 1 → zero 96 128))

/-- R372 to R377, R335, R424: placing a task's threads, the end of a thread, and the choice of what issues. A gang goes to the first partition that fits
it, from its index on, with the lowest free slot and the lowest or the highest fitting run of registers by its role; it starts as R374 says. A
thread ends when nothing of it is outstanding and its release is performed, as finished or as saved. Of a partition's ready active gangs the oldest wins and the others age;
a pending gang that has been ready for 256 clocks is promoted. -/
def Obligations.PlacementAndIssue : Prop :=
  ∀ (d n : Nat) (k : Task) (cls : List Nat) (occ : List Occ) (role : Bool) (g csa : Nat) (o : Occ) (x y : Thread) (s u v w : State),
    let done := fun (u : State) => if (u.die d).boot.mode = 0 ∧ (u.die d).boot.stage = 2 ∧ (u.tasks.any fun t => t.die == d && t.pasid == 0 && t.st == .placed) = true
      then u.onDie d fun z => { z with boot := { z.boot with mode := 1, att := 0, reason := 0 } } else u
    let im := k.image
    let cand := if recCluster im = true ∧ k.placed ≠ [] then s.sameCluster d k (k.placed.headD 0) else s.candidates d im k.pasid
    let held := (s.die d).dsp.st = 2 ∨ (s.die d).boot.mode = 2 ∨ s.oldestReady d = none ∨
      ∃ t z, s.oldestReady d = some t ∧ s.firstSaved d = some z ∧ z.readySince < t.readySeq
    let r := recRole im role
    let here := occ.filter fun z => z.cl == o.cl && z.core == o.core && z.part == o.part
    let free := fun (a : Nat) => ∀ z ∈ here, z.rbase + z.allot ≤ a ∨ a + 32 * r.regs ≤ z.rbase
    let started := fun (t : Thread) (arm : Bool) (entry : Nat) (idx gangs : Nat) =>
      t.task = k.h ∧ t.pasid = k.pasid ∧ t.csaIdx = csa ∧ t.resident = true ∧ t.handler = false ∧ t.outs = [] ∧ t.frs = [] ∧
      t.regs.rdR 0 = BitVec.ofNat 64 (recF im 24 8) ∧ t.regs.rdR 1 = BitVec.ofNat 64 (recF im 32 8) ∧ t.regs.rdR 2 = BitVec.ofNat 64 idx ∧
      t.regs.rdR 3 = BitVec.ofNat 64 gangs ∧ t.regs.rdR 4 = k.h.setWidth 64 ∧ (∀ j, 5 ≤ j → t.regs.rdR j = 0) ∧ t.regs.rpois = 0 ∧ t.regs.ppois = 0 ∧
      t.regs.vtag = [] ∧ t.regs.v = [] ∧ t.regs.tile = [] ∧
      t.ctl.rmode = 0 ∧ t.ctl.fflags = 0 ∧ t.ctl.tagchk = true ∧ t.ctl.bpm = 0 ∧ t.ctl.patina = 0 ∧
      ∀ c ∈ t.slices, c.pc = BitVec.ofNat 64 entry ∧ c.live = (if arm then 1 else 15) ∧ c.active = c.live ∧ c.stack = [] ∧ c.grp = 0 ∧ c.wait = .none
    let ended := (∀ c ∈ x.slices, c.live = 0) ∧ x.cntCp = 0 ∧ (x.arm = true ∨ x.cntMx = 0) ∧ ∀ z ∈ x.outs, z = .load
    let look := s.lookReady
    let now := fun (t : Thread) => (s.die t.loc.die).aclk.toNat
    let due := fun (t : Thread) => t.act = false ∧ t.arm = false ∧ t.rdy = true ∧ t.readySince + 256 ≤ now t
    let acts := look.threads.filter fun z => samePart z y && z.act
    let plain := fun (t : Thread) => { t with act := false, actSince := 0, rdy := false, readySince := 0 }
    let left := fun (t : Thread) => { t with act := false, readySince := now t }
    -- placement
    (held → exec (.taskPlace d) s = .next (done s)) ∧
    (¬held → s.oldestReady d = some k → cand = (u, cls) →
      (cls = [] → exec (.taskPlace d) s = .next (done u)) ∧
      (cls ≠ [] → recF im 2 1 = 2 → fitAll im cls (recGangs im) (u.occ d) = false ∨ u.csaRoom k.pasid < recThreads im →
        exec (.taskPlace d) s = .next (done u)) ∧
      (cls ≠ [] → recF im 2 1 ≠ 2 → u.placeOne k cls = none → k.placed.length < recThreads im → u.task? k.h = some k →
        exec (.taskPlace d) s = .next (done u)) ∧
      (cls ≠ [] → recF im 2 1 ≠ 2 → recThreads im = 1 → k.placed = [] → u.task? k.h = some k → u.placeOne k cls ≠ none →
        u.output d 1 = (v, true) → v.task? k.h = some k → v.placeOne k cls = some w → exec (.taskPlace d) s = .next (done { (w.onTask k.h fun t => { t with st := .placed }) with
          clusters := w.clusters.map fun z => if z.die == d then { z with drain := false } else z }))) ∧
    (v.placeOne k cls = some w → v.freeCsa k.pasid = some csa →
      (recArm im = true → k.placed = [] → ∀ c, cls.head? = some c →
        ∃ t ∈ w.threads, t.id = v.nextId ∧ t.kind = .armature ∧ t.loc = ⟨k.die, c, 0, 0, 0⟩ ∧ t.slices.length = 1 ∧
          started t true (recF im 16 8) 0 (recRole im false).gangs) ∧
      (∀ j, (recArm im = true → k.placed ≠ []) → j = k.placed.length - (if recArm im then 1 else 0) → (recGangs im)[j]? = some (role, g) →
        seek (v.occ k.die) cls role r g = some o →
        ∃ t ∈ w.threads, t.id = v.nextId ∧ t.kind = .gang ∧ t.loc = ⟨k.die, o.cl, o.core, o.part, o.slot⟩ ∧ t.slices.length = r.slices ∧ t.nsl = r.slices ∧
          t.allot = 32 * r.regs ∧ t.rbase = o.rbase ∧ t.tcount = r.tiles ∧ t.ctl.prvSize = BitVec.ofNat 32 (recF im 40 4) ∧
          started t false r.entry g r.gangs)) ∧
    -- a fitting place
    (∀ cl core part, fitPart occ cl core part role r = some o → o.cl = cl ∧ o.core = core ∧ o.part = part ∧ o.slot < 32 ∧ (∀ z ∈ here, z.slot ≠ o.slot) ∧
      (∀ j, j < o.slot → ∃ z ∈ here, z.slot = j) ∧ o.allot = 32 * r.regs ∧ o.rbase % 32 = 0 ∧ free o.rbase ∧
      (role = false → ∀ a, a % 32 = 0 → a < o.rbase → ¬free a) ∧
      (role = true → ∀ a, a % 32 = 0 → o.rbase < a → a / 32 + r.regs ≤ 32 → ¬free a) ∧
      ((occ.filter fun z => z.cl == cl && z.core == core).map fun z => z.tiles).sum + r.tiles ≤ 1536) ∧
    (∀ P, P = 128 * cls.length → 0 < P →
      let at_ := fun q => fitPart occ (cls.getD (q % P / 128) 0) (q % P % 128 / 32) (q % P % 32) role r
      (seek occ cls role r g = none ↔ ∀ j, j < P → at_ (g + j) = none) ∧
      (seek occ cls role r g = some o → ∃ j, j < P ∧ at_ (g + j) = some o ∧ ∀ i, i < j → at_ (g + i) = none)) ∧
    -- the end of a thread
    (s.thread? n = none → exec (.threadEnd n) s = .next s) ∧
    (s.thread? n = some x →
      let rel := (s.releaseAct x.loc.die x.loc.cl 3 x.ctl.patina).settle settleBound
      (¬ended → exec (.threadEnd n) s = .next s) ∧
      (ended → rel.unperformed x.loc.die = true → exec (.threadEnd n) s = .next rel) ∧
      (ended → rel.unperformed x.loc.die = false → (rel.threads.countP fun z => z.id == n) = 1 → ∃ t, exec (.threadEnd n) s = .next t ∧
        (∀ z ∈ t.threads, z.id ≠ n) ∧
        (x.saved = false → t.savedT = rel.savedT ∧
          ∀ z, rel.task? x.task = some z → t.task? x.task = some { z with ended := z.ended + 1, complP := z.complP ||| x.ctl.patina }) ∧
        (x.saved = true → t.tasks = rel.tasks ∧ ∃ z, t.savedT = rel.savedT ++ [z] ∧ z.id = n ∧ z.resident = false ∧ z.task = x.task ∧ z.loc = x.loc ∧
          z.csaIdx = x.csaIdx ∧ z.memb = x.memb ∧ z.missing = x.missing ∧ z.frs = x.frs ∧ z.parkPc = x.parkPc ∧ z.handler = false))) ∧
    -- the issue slot
    (look.threads = s.threads.map fun t => if s.ready t = t.rdy then t else { t with rdy := s.ready t, readySince := now t }) ∧
    ((s.threads.map fun t => t.id).Nodup → ∃ z t, exec (.issueSelect) s = .next t ∧ z.threads.map plain = s.threads.map plain ∧ z.mem = s.mem ∧ t.mem = s.mem ∧
      (z.winner = none → t = z) ∧
      ∀ a, z.winner = some a → t.cur.id = a.id ∧ t.phase = .issue ∧ t.cur.age = 0 ∧ t.curReady = true ∧
        ∀ c ∈ z.threads, c.id ≠ a.id → ∃ e ∈ t.threads, e.id = c.id ∧ e.age = if c.act && samePart c a then c.age + 1 else c.age) ∧
    (s.winner = none ↔ ∀ t ∈ s.threads, s.ready t = true → t.act = false ∧ t.arm = false) ∧
    (∀ a, s.winner = some a → a ∈ s.threads ∧ s.ready a = true ∧ (a.act = true ∨ a.arm = true) ∧
      ∀ t ∈ s.threads, s.ready t = true → t.act = true ∨ t.arm = true → samePart a t = true → t.age < a.age ∨ (t.age = a.age ∧ a.loc.slot ≤ t.loc.slot)) ∧
    ((∀ t ∈ look.threads, ¬due t) → exec (.pendingGangPromote) s = .next look) ∧
    ((s.threads.map fun t => t.id).Nodup → y ∈ look.threads → due y → (∀ t ∈ look.threads, due t → t = y) →
      ∃ t out, exec (.pendingGangPromote) s = .next t ∧
        (t.threads = look.threads.map fun z => if z.id = y.id then { z with act := true, actSince := now y } else if some z.id = out then left z else z) ∧
        (acts.length < 8 → out = none) ∧
        (8 ≤ acts.length → ∃ a ∈ acts, out = some a.id ∧
          ((∃ c ∈ acts, c.rdy = false) → a.rdy = false ∧ ∀ c ∈ acts, c.rdy = false → a.readySince ≤ c.readySince) ∧
          ((∀ c ∈ acts, c.rdy = true) → ∀ c ∈ acts, a.actSince ≤ c.actSince)))

/-! ### Fetch, decoding and one step -/

/-- R150 to R152, R376: a step runs what the current group's counter names. What comes before the issue comes first; a group that is not ready gives
its slot up, and a STEP that is due is taken; otherwise the unit at the counter is fetched and decoded for the thread, and the step is `exec` of
the instruction, or the trap of the unit that does not decode, or the trap or wait of its fetch. A word fetched through a translation that the
thread's TLB holds, from a line of its own die that no store holds dirty and no instruction copy has, is the 8 bytes of memory there, and the
fetch changes nothing but that copy. Which step of the engine comes first is the model's choice (log 17). -/
def Obligations.StepRunsDecoded : Prop :=
  ∀ (s u : State) (i : Instr) (rest : List Instr) (w0 w1 : Word) (e : DecTrap) (x : Exc) (pc : Word) (k : Nat) (c : TlbE),
    let s0 := { s with phase := .engine }
    let p := s.cur.pcOf s.curGrp
    let pa := entPa c.ent c.sz.toNat pc.toNat
    let la := pa / 64
    let word := BitVec.ofNat 64 (fieldN (memLine s.mem la).toNat (8 * (pa % 64)) 64)
    (s.agenda = i :: rest → step s = exec i { s with agenda := rest }) ∧
    (s.agenda = [] →
      (s.phase = .engine → step s = .next s.engineStep) ∧
      (s.phase = .select → step s = .next s.chooseNext) ∧
      (s.phase = .issue →
        (s.curReady = false → step s = .next s0) ∧
        (s.curReady = true → s.stepDue = true → step s = .next s0.takeStep) ∧
        (s.curReady = true → s.stepDue = false →
          (s0.fetchUnit = (u, .unit w0 w1) →
            (decodeUnit u.cur.dctx w0 w1 = .ok i → step s = exec i u) ∧
            (decodeUnit u.cur.dctx w0 w1 = .error e → step s = .next (u.decodeTrap e w0))) ∧
          (s0.fetchUnit = (u, .stop x) →
            step s = .next (u.stopped x (u.cur.mask u.curGrp) (u.cur.pcOf u.curGrp) (u.cur.gslices u.curGrp)))))) ∧
    (s.fetchWord p p = (u, .ok w0) → unitBytes w0 = 8 → s.fetchUnit = (u, .unit w0 0)) ∧
    (∀ v, s.fetchWord p p = (u, .ok w0) → unitBytes w0 = 16 → u.fetchWord p (p + 8) = (v, .ok w1) → s.fetchUnit = (v, .unit w0 w1)) ∧
    (spaceOf pc.toNat = 0 → fieldN pc.toNat 57 3 = 0 →
      (s.tlb.find? fun y => y.1 == tlbKey s.cur && y.2.serves s s.cur.tpasid.toNat 0 pc.toNat s.cur.super .fetch) = some (k, c) →
      (s.jent (s.dirDie la) la).st ≠ .lost → s.home la = .dev s.cur.loc.die → s.dead s.cur.loc.die = false → (s.sent s.cur.loc.die la).exp = false →
      entTrk c.ent = false → entPol c.ent ≤ 1 → (∀ y ∈ s.hws, y.la ≠ la) → (∀ y ∈ s.mirrors, y.la ≠ la) →
      (∀ y ∈ s.clines, y.la ≠ la) → (∀ y ∈ s.ilines, y.la ≠ la) →
      s.fetchWord p pc = ({ s with ilines := s.ilines ++ [⟨s.cur.loc.die, s.cur.loc.cl, la, memLine s.mem la⟩] }, .ok word) ∧
      (pa % 8 = 0 → ∀ j, j < 8 → word.extractLsb' (8 * j) 8 = s.mem.get (pa + j)))

/-- R133, R143 to R151, R157: the worked words of spec/07 and the fates that it gives, in a gang of the largest allotment; on the armature core
every pair word traps ILL_OPC (R152). -/
def Obligations.WordsOfTheSpec : Prop :=
  ∀ (x : Word),
    decodeUnit .full 0x0000000000000000 x = .ok (.nop ⟨0, false⟩) ∧
    decodeUnit .full 0x0004000000000000 x = .error .illEnc ∧
    decodeUnit .full 0x0F00000000000000 x = .error .illOpc ∧
    decodeUnit .full 0xC000000000000000 x = .error .illEnc ∧
    decodeUnit .full 0x410080A03C810141 x = .ok (.pairIadd ⟨0, 4, 5, 0⟩ ⟨.fmulF, 2, 4, 5, 1⟩) ∧
    decodeUnit .full 0x6000000000000000 x = .ok (.pairFmaxF ⟨0, 0, 0, 0⟩ ⟨.pnop, 0, 0, 0, 0⟩) ∧
    decodeUnit .full 0x5E00000000000000 x = .ok (.pairFmulF ⟨0, 0, 0, 0⟩ ⟨.pnop, 0, 0, 0, 0⟩) ∧
    decodeUnit .full 0x7C00000000000000 x = .error .illOpc ∧
    decodeUnit .full 0x8000000000000000 0x410080A03C810141 = .error .illEnc ∧
    decodeUnit .full 0x8048D159E26AF000 0x1C80020000000310 = .ok (.movi ⟨0, false, false⟩ 2 (.i48 0x123456789ABC) 1) ∧
    decodeUnit .armature 0x410080A03C810141 x = .error .illOpc

/-- R133 to R151: for every core and allotment, each well-formed instruction is read back from its words with every operand as it was, and each unit
that decodes is the encoding of a well-formed instruction and of no other. -/
def Obligations.EncodeDecode : Prop :=
  ∀ (c : DCtx), c.ok = true →
    (∀ (i : Instr) (x : Word), i.wf c = true → decodeUnit c ((encode i).getD 0 0) ((encode i).getD 1 x) = .ok i) ∧
    (∀ (i : Instr) (w0 w1 : Word), decodeUnit c w0 w1 = .ok i →
      i.wf c = true ∧ encode i = if unitBytes w0 = 8 then [w0] else [w0, w1])

/-! ### Reset, and an invariant -/

/-- R23, R386, R300, R270, R393, R432: at reset each die's counters are zero, its three voted machines have never dissented, its supervisor words are
zero and each of its ports holds the credits of R300 and is not trained. No thread is placed, no task is accepted, no message travels. Memory
reads as zero and is canonical: what unwritten memory holds is the model's choice (log 3). -/
def Obligations.ResetValues : Prop :=
  ∀ (d n p a : Nat), d < 8 → p < 4 →
    let s := { State.reset with cur := { State.reset.cur with loc := { State.reset.cur.loc with die := d } } }
    let y := State.reset.port d p
    (n ∈ [0x20, 0x21, 0x30, 0x31, 0x32, 0x33, 0x34, 0x35, 0x36, 0x38, 0x39, 0x3E, 0x3F] → csrRead s n = 0) ∧
    (State.reset.die d).tclk = 0 ∧ csrRead s 0x37 = 0x0C0C0C ∧
    y.credits = [64, 32, 64, 192, 8, 32] ∧ y.trained = false ∧ y.down = false ∧ y.flits = [] ∧ y.txSeq = 0 ∧
    State.reset.threads.all (fun t => !t.resident) = true ∧ State.reset.savedT = [] ∧ State.reset.tasks = [] ∧ State.reset.msgs = [] ∧
    State.reset.agenda = [] ∧ State.reset.mem.get a = 0 ∧ State.reset.mem.wf = true

/-- Log 3: memory stays in its one canonical form: whatever a step does to it, equal memories stay equal data. -/
def Obligations.EveryStepKeepsMemoryCanonical : Prop :=
  ∀ (s t : State), s.mem.wf = true → step s = .next t → t.mem.wf = true
end

