-- ==== Sys2Proof/Laws/Memory.lean ====
section
/-! SUPPORT. The laws of sparse maps: read after write, and every writer keeps the canonical form. -/

namespace Sys2Proof.SMap

variable {w : Nat}

@[simp] theorem get_nil (k : Nat) : get ([] : SMap w) k = 0 := rfl

theorem get_cons (j : Nat) (y : BitVec w) (m : SMap w) (n : Nat) : get ((j, y) :: m) n = if n = j then y else get m n := by
  simp only [get]
  by_cases h : j = n
  · rw [if_pos h, if_pos h.symm]
  · rw [if_neg h, if_neg (Ne.symm h)]

theorem get_put (m : SMap w) (k : Nat) (x : BitVec w) (n : Nat) : get (put m k x) n = if n = k then x else get m n := by
  induction m with
  | nil => simp only [put, get_cons]
  | cons e m ih =>
    obtain ⟨j, y⟩ := e
    simp only [put]
    split
    · rw [get_cons]
    · split
      · subst_vars; simp only [get_cons]; split <;> rfl
      · simp only [get_cons, ih]; split <;> split <;> simp_all

theorem get_drop (m : SMap w) (k n : Nat) : get (drop m k) n = if n = k then 0 else get m n := by
  induction m with
  | nil => simp [drop]
  | cons e m ih =>
    obtain ⟨j, y⟩ := e
    simp only [drop] at ih
    simp only [drop, List.filter_cons]
    by_cases h : j = k
    · subst h; simp only [bne_self_eq_false, Bool.false_eq_true, if_false, ih, get_cons]; split <;> rfl
    · rw [if_pos (by simpa using h)]; simp only [get_cons, ih]; split <;> split <;> simp_all

/-- A read after a write: the value written at its key, everything else as before. -/
@[simp] theorem get_set (m : SMap w) (k : Nat) (x : BitVec w) (n : Nat) : get (set m k x) n = if n = k then x else get m n := by
  unfold set
  split
  · rw [get_drop]; simp_all
  · exact get_put m k x n

/-- A read after a range is cleared. -/
@[simp] theorem get_clear (m : SMap w) (lo len n : Nat) :
    get (clear m lo len) n = if lo ≤ n ∧ n < lo + len then 0 else get m n := by
  induction m with
  | nil => simp [clear]
  | cons e m ih =>
    obtain ⟨j, y⟩ := e
    simp only [clear, List.filter_cons] at *
    split
    · rename_i h
      simp only [Bool.or_eq_true, decide_eq_true_eq] at h
      simp only [get_cons, ih]
      by_cases hn : n = j
      · subst hn; rw [if_pos rfl, if_pos rfl, if_neg (by omega)]
      · rw [if_neg hn, if_neg hn]
    · rename_i h
      simp only [Bool.or_eq_true, decide_eq_true_eq] at h
      simp only [get_cons, ih]
      by_cases hn : n = j
      · subst hn; rw [if_pos (by omega), if_pos (by omega)]
      · rw [if_neg hn]

/-! ### The canonical form -/

theorem wfFrom_mono {m : SMap w} {a b : Nat} (h : a ≤ b) (hm : wfFrom b m = true) : wfFrom a m = true := by
  cases m with
  | nil => rfl
  | cons e m =>
    obtain ⟨j, x⟩ := e
    simp only [wfFrom, Bool.and_eq_true, decide_eq_true_eq] at *
    exact ⟨⟨by omega, hm.1.2⟩, hm.2⟩

theorem wfFrom_put (m : SMap w) (b k : Nat) (x : BitVec w) (hk : b ≤ k) (hx : x ≠ 0) (hm : wfFrom b m = true) :
    wfFrom b (put m k x) = true := by
  induction m generalizing b with
  | nil => simp only [put, wfFrom, Bool.and_eq_true, decide_eq_true_eq]; exact ⟨⟨hk, hx⟩, trivial⟩
  | cons e m ih =>
    obtain ⟨j, y⟩ := e
    simp only [wfFrom, Bool.and_eq_true, decide_eq_true_eq] at hm
    simp only [put]
    split
    · simp only [wfFrom, Bool.and_eq_true, decide_eq_true_eq]
      exact ⟨⟨hk, hx⟩, ⟨by omega, hm.1.2⟩, hm.2⟩
    · split
      · subst_vars; simp only [wfFrom, Bool.and_eq_true, decide_eq_true_eq]; exact ⟨⟨hk, hx⟩, hm.2⟩
      · simp only [wfFrom, Bool.and_eq_true, decide_eq_true_eq]
        exact ⟨hm.1, ih (j + 1) (by omega) hm.2⟩

theorem wfFrom_filter (m : SMap w) (b : Nat) (f : Nat × BitVec w → Bool) (hm : wfFrom b m = true) :
    wfFrom b (m.filter f) = true := by
  induction m generalizing b with
  | nil => rfl
  | cons e m ih =>
    obtain ⟨j, y⟩ := e
    simp only [wfFrom, Bool.and_eq_true, decide_eq_true_eq] at hm
    rw [List.filter_cons]
    split
    · simp only [wfFrom, Bool.and_eq_true, decide_eq_true_eq]; exact ⟨hm.1, ih _ hm.2⟩
    · exact wfFrom_mono (by omega) (ih _ hm.2)

/-- A write keeps the canonical form. -/
theorem wf_set {m : SMap w} (k : Nat) (x : BitVec w) (h : m.wf = true) : (m.set k x).wf = true := by
  unfold set
  split
  · exact wfFrom_filter m 0 _ h
  · exact wfFrom_put m 0 k x (Nat.zero_le _) ‹_› h

/-- Clearing a range keeps the canonical form. -/
theorem wf_clear {m : SMap w} (lo n : Nat) (h : m.wf = true) : (m.clear lo n).wf = true := wfFrom_filter m 0 _ h

/-- A fold of writes keeps the canonical form. -/
theorem wf_foldl {β : Type} (l : List β) (f : SMap w → β → SMap w) (hf : ∀ m b, m.wf = true → (f m b).wf = true) :
    ∀ m : SMap w, m.wf = true → (l.foldl f m).wf = true := by
  induction l with
  | nil => intro m h; exact h
  | cons x xs ih => intro m h; exact ih _ (hf m x h)

theorem get_of_wfFrom {m : SMap w} {b n : Nat} (hm : wfFrom b m = true) (hn : n < b) : get m n = 0 := by
  induction m generalizing b with
  | nil => rfl
  | cons e m ih =>
    obtain ⟨j, x⟩ := e
    simp only [wfFrom, Bool.and_eq_true, decide_eq_true_eq] at hm
    simp only [get]
    rw [if_neg (by omega)]
    exact ih hm.2 (by omega)

/-- Maps in canonical form that read alike are equal. -/
theorem ext_of_wf {m m' : SMap w} (h : m.wf = true) (h' : m'.wf = true) (he : ∀ k, m.get k = m'.get k) : m = m' := by
  have main : ∀ (m m' : SMap w) (b : Nat), wfFrom b m = true → wfFrom b m' = true → (∀ k, get m k = get m' k) → m = m' := by
    intro m
    induction m with
    | nil =>
      intro m' b _ h' he
      cases m' with
      | nil => rfl
      | cons e m' =>
        obtain ⟨j, x⟩ := e
        simp only [wfFrom, Bool.and_eq_true, decide_eq_true_eq] at h'
        have := he j
        simp [get] at this
        exact absurd this.symm h'.1.2
    | cons e m ih =>
      intro m' b h h' he
      obtain ⟨j, x⟩ := e
      have hh := h
      simp only [wfFrom, Bool.and_eq_true, decide_eq_true_eq] at h
      cases m' with
      | nil =>
        have := he j
        simp [get] at this
        exact absurd this h.1.2
      | cons e' m' =>
        obtain ⟨j', x'⟩ := e'
        have hh' := h'
        simp only [wfFrom, Bool.and_eq_true, decide_eq_true_eq] at h'
        have hj : j = j' := by
          rcases Nat.lt_trichotomy j j' with hlt | heq | hgt
          · have := he j
            simp only [get, if_true] at this
            rw [if_neg (by omega), get_of_wfFrom h'.2 (by omega)] at this
            exact absurd this h.1.2
          · exact heq
          · have := he j'
            simp only [get, if_true] at this
            rw [if_neg (by omega), get_of_wfFrom h.2 (by omega)] at this
            exact absurd this.symm h'.1.2
        subst hj
        have hx : x = x' := by have := he j; simpa [get] using this
        subst hx
        rw [ih m' (j + 1) h.2 h'.2]
        intro k
        by_cases hk : j = k
        · subst hk; rw [get_of_wfFrom h.2 (by omega), get_of_wfFrom h'.2 (by omega)]
        · have := he k; simpa [get, hk] using this
  exact main m m' 0 h h' he

end Sys2Proof.SMap
end

