-- ==== Sys2Proof/Laws/State.lean ====
section
/-! SUPPORT. For each update of the state, a thread or a register file: what each field is afterwards. -/

namespace Sys2Proof.Machine

@[simp] theorem State.onCur_cur (s : State) (f : Thread → Thread) : (s.onCur f).cur = f s.cur := rfl
@[simp] theorem State.onCur_curGrp (s : State) (f : Thread → Thread) : (s.onCur f).curGrp = s.curGrp := rfl
@[simp] theorem State.onCur_others (s : State) (f : Thread → Thread) : (s.onCur f).others = s.others := rfl
@[simp] theorem State.onCur_savedT (s : State) (f : Thread → Thread) : (s.onCur f).savedT = s.savedT := rfl
@[simp] theorem State.onCur_mem (s : State) (f : Thread → Thread) : (s.onCur f).mem = s.mem := rfl
@[simp] theorem State.onCur_flash (s : State) (f : Thread → Thread) : (s.onCur f).flash = s.flash := rfl
@[simp] theorem State.onCur_bad (s : State) (f : Thread → Thread) : (s.onCur f).bad = s.bad := rfl
@[simp] theorem State.onCur_ctxs (s : State) (f : Thread → Thread) : (s.onCur f).ctxs = s.ctxs := rfl
@[simp] theorem State.onCur_clusters (s : State) (f : Thread → Thread) : (s.onCur f).clusters = s.clusters := rfl
@[simp] theorem State.onCur_niches (s : State) (f : Thread → Thread) : (s.onCur f).niches = s.niches := rfl
@[simp] theorem State.onCur_cohorts (s : State) (f : Thread → Thread) : (s.onCur f).cohorts = s.cohorts := rfl
@[simp] theorem State.onCur_tlb (s : State) (f : Thread → Thread) : (s.onCur f).tlb = s.tlb := rfl
@[simp] theorem State.onCur_ilines (s : State) (f : Thread → Thread) : (s.onCur f).ilines = s.ilines := rfl
@[simp] theorem State.onCur_clines (s : State) (f : Thread → Thread) : (s.onCur f).clines = s.clines := rfl
@[simp] theorem State.onCur_l2 (s : State) (f : Thread → Thread) : (s.onCur f).l2 = s.l2 := rfl
@[simp] theorem State.onCur_sdir (s : State) (f : Thread → Thread) : (s.onCur f).sdir = s.sdir := rfl
@[simp] theorem State.onCur_jdir (s : State) (f : Thread → Thread) : (s.onCur f).jdir = s.jdir := rfl
@[simp] theorem State.onCur_mirrors (s : State) (f : Thread → Thread) : (s.onCur f).mirrors = s.mirrors := rfl
@[simp] theorem State.onCur_hws (s : State) (f : Thread → Thread) : (s.onCur f).hws = s.hws := rfl
@[simp] theorem State.onCur_packed (s : State) (f : Thread → Thread) : (s.onCur f).packed = s.packed := rfl
@[simp] theorem State.onCur_chans (s : State) (f : Thread → Thread) : (s.onCur f).chans = s.chans := rfl
@[simp] theorem State.onCur_mqs (s : State) (f : Thread → Thread) : (s.onCur f).mqs = s.mqs := rfl
@[simp] theorem State.onCur_dies (s : State) (f : Thread → Thread) : (s.onCur f).dies = s.dies := rfl
@[simp] theorem State.onCur_maq (s : State) (f : Thread → Thread) : (s.onCur f).maq = s.maq := rfl
@[simp] theorem State.onCur_tasks (s : State) (f : Thread → Thread) : (s.onCur f).tasks = s.tasks := rfl
@[simp] theorem State.onCur_queues (s : State) (f : Thread → Thread) : (s.onCur f).queues = s.queues := rfl
@[simp] theorem State.onCur_nextTask (s : State) (f : Thread → Thread) : (s.onCur f).nextTask = s.nextTask := rfl
@[simp] theorem State.onCur_msgs (s : State) (f : Thread → Thread) : (s.onCur f).msgs = s.msgs := rfl
@[simp] theorem State.onCur_wires (s : State) (f : Thread → Thread) : (s.onCur f).wires = s.wires := rfl
@[simp] theorem State.onCur_nextTx (s : State) (f : Thread → Thread) : (s.onCur f).nextTx = s.nextTx := rfl
@[simp] theorem State.onCur_host (s : State) (f : Thread → Thread) : (s.onCur f).host = s.host := rfl
@[simp] theorem State.onCur_out (s : State) (f : Thread → Thread) : (s.onCur f).out = s.out := rfl
@[simp] theorem State.onCur_agenda (s : State) (f : Thread → Thread) : (s.onCur f).agenda = s.agenda := rfl
@[simp] theorem State.onCur_phase (s : State) (f : Thread → Thread) : (s.onCur f).phase = s.phase := rfl
@[simp] theorem State.onCur_free (s : State) (f : Thread → Thread) : (s.onCur f).free = s.free := rfl
@[simp] theorem State.onCur_nextId (s : State) (f : Thread → Thread) : (s.onCur f).nextId = s.nextId := rfl
@[simp] theorem State.onCur_issued (s : State) (f : Thread → Thread) : (s.onCur f).issued = s.issued := rfl

@[simp] theorem State.onRegs_cur (s : State) (f : Regs → Regs) : (s.onRegs f).cur = { s.cur with regs := f s.cur.regs } := rfl
@[simp] theorem State.onRegs_curGrp (s : State) (f : Regs → Regs) : (s.onRegs f).curGrp = s.curGrp := rfl
@[simp] theorem State.onRegs_others (s : State) (f : Regs → Regs) : (s.onRegs f).others = s.others := rfl
@[simp] theorem State.onRegs_savedT (s : State) (f : Regs → Regs) : (s.onRegs f).savedT = s.savedT := rfl
@[simp] theorem State.onRegs_mem (s : State) (f : Regs → Regs) : (s.onRegs f).mem = s.mem := rfl
@[simp] theorem State.onRegs_flash (s : State) (f : Regs → Regs) : (s.onRegs f).flash = s.flash := rfl
@[simp] theorem State.onRegs_bad (s : State) (f : Regs → Regs) : (s.onRegs f).bad = s.bad := rfl
@[simp] theorem State.onRegs_ctxs (s : State) (f : Regs → Regs) : (s.onRegs f).ctxs = s.ctxs := rfl
@[simp] theorem State.onRegs_clusters (s : State) (f : Regs → Regs) : (s.onRegs f).clusters = s.clusters := rfl
@[simp] theorem State.onRegs_niches (s : State) (f : Regs → Regs) : (s.onRegs f).niches = s.niches := rfl
@[simp] theorem State.onRegs_cohorts (s : State) (f : Regs → Regs) : (s.onRegs f).cohorts = s.cohorts := rfl
@[simp] theorem State.onRegs_tlb (s : State) (f : Regs → Regs) : (s.onRegs f).tlb = s.tlb := rfl
@[simp] theorem State.onRegs_ilines (s : State) (f : Regs → Regs) : (s.onRegs f).ilines = s.ilines := rfl
@[simp] theorem State.onRegs_clines (s : State) (f : Regs → Regs) : (s.onRegs f).clines = s.clines := rfl
@[simp] theorem State.onRegs_l2 (s : State) (f : Regs → Regs) : (s.onRegs f).l2 = s.l2 := rfl
@[simp] theorem State.onRegs_sdir (s : State) (f : Regs → Regs) : (s.onRegs f).sdir = s.sdir := rfl
@[simp] theorem State.onRegs_jdir (s : State) (f : Regs → Regs) : (s.onRegs f).jdir = s.jdir := rfl
@[simp] theorem State.onRegs_mirrors (s : State) (f : Regs → Regs) : (s.onRegs f).mirrors = s.mirrors := rfl
@[simp] theorem State.onRegs_hws (s : State) (f : Regs → Regs) : (s.onRegs f).hws = s.hws := rfl
@[simp] theorem State.onRegs_packed (s : State) (f : Regs → Regs) : (s.onRegs f).packed = s.packed := rfl
@[simp] theorem State.onRegs_chans (s : State) (f : Regs → Regs) : (s.onRegs f).chans = s.chans := rfl
@[simp] theorem State.onRegs_mqs (s : State) (f : Regs → Regs) : (s.onRegs f).mqs = s.mqs := rfl
@[simp] theorem State.onRegs_dies (s : State) (f : Regs → Regs) : (s.onRegs f).dies = s.dies := rfl
@[simp] theorem State.onRegs_maq (s : State) (f : Regs → Regs) : (s.onRegs f).maq = s.maq := rfl
@[simp] theorem State.onRegs_tasks (s : State) (f : Regs → Regs) : (s.onRegs f).tasks = s.tasks := rfl
@[simp] theorem State.onRegs_queues (s : State) (f : Regs → Regs) : (s.onRegs f).queues = s.queues := rfl
@[simp] theorem State.onRegs_nextTask (s : State) (f : Regs → Regs) : (s.onRegs f).nextTask = s.nextTask := rfl
@[simp] theorem State.onRegs_msgs (s : State) (f : Regs → Regs) : (s.onRegs f).msgs = s.msgs := rfl
@[simp] theorem State.onRegs_wires (s : State) (f : Regs → Regs) : (s.onRegs f).wires = s.wires := rfl
@[simp] theorem State.onRegs_nextTx (s : State) (f : Regs → Regs) : (s.onRegs f).nextTx = s.nextTx := rfl
@[simp] theorem State.onRegs_host (s : State) (f : Regs → Regs) : (s.onRegs f).host = s.host := rfl
@[simp] theorem State.onRegs_out (s : State) (f : Regs → Regs) : (s.onRegs f).out = s.out := rfl
@[simp] theorem State.onRegs_agenda (s : State) (f : Regs → Regs) : (s.onRegs f).agenda = s.agenda := rfl
@[simp] theorem State.onRegs_phase (s : State) (f : Regs → Regs) : (s.onRegs f).phase = s.phase := rfl
@[simp] theorem State.onRegs_free (s : State) (f : Regs → Regs) : (s.onRegs f).free = s.free := rfl
@[simp] theorem State.onRegs_nextId (s : State) (f : Regs → Regs) : (s.onRegs f).nextId = s.nextId := rfl
@[simp] theorem State.onRegs_issued (s : State) (f : Regs → Regs) : (s.onRegs f).issued = s.issued := rfl

@[simp] theorem State.onDie_cur (s : State) (d : Nat) (f : Die → Die) : (s.onDie d f).cur = s.cur := rfl
@[simp] theorem State.onDie_curGrp (s : State) (d : Nat) (f : Die → Die) : (s.onDie d f).curGrp = s.curGrp := rfl
@[simp] theorem State.onDie_others (s : State) (d : Nat) (f : Die → Die) : (s.onDie d f).others = s.others := rfl
@[simp] theorem State.onDie_savedT (s : State) (d : Nat) (f : Die → Die) : (s.onDie d f).savedT = s.savedT := rfl
@[simp] theorem State.onDie_mem (s : State) (d : Nat) (f : Die → Die) : (s.onDie d f).mem = s.mem := rfl
@[simp] theorem State.onDie_flash (s : State) (d : Nat) (f : Die → Die) : (s.onDie d f).flash = s.flash := rfl
@[simp] theorem State.onDie_bad (s : State) (d : Nat) (f : Die → Die) : (s.onDie d f).bad = s.bad := rfl
@[simp] theorem State.onDie_ctxs (s : State) (d : Nat) (f : Die → Die) : (s.onDie d f).ctxs = s.ctxs := rfl
@[simp] theorem State.onDie_clusters (s : State) (d : Nat) (f : Die → Die) : (s.onDie d f).clusters = s.clusters := rfl
@[simp] theorem State.onDie_niches (s : State) (d : Nat) (f : Die → Die) : (s.onDie d f).niches = s.niches := rfl
@[simp] theorem State.onDie_cohorts (s : State) (d : Nat) (f : Die → Die) : (s.onDie d f).cohorts = s.cohorts := rfl
@[simp] theorem State.onDie_tlb (s : State) (d : Nat) (f : Die → Die) : (s.onDie d f).tlb = s.tlb := rfl
@[simp] theorem State.onDie_ilines (s : State) (d : Nat) (f : Die → Die) : (s.onDie d f).ilines = s.ilines := rfl
@[simp] theorem State.onDie_clines (s : State) (d : Nat) (f : Die → Die) : (s.onDie d f).clines = s.clines := rfl
@[simp] theorem State.onDie_l2 (s : State) (d : Nat) (f : Die → Die) : (s.onDie d f).l2 = s.l2 := rfl
@[simp] theorem State.onDie_sdir (s : State) (d : Nat) (f : Die → Die) : (s.onDie d f).sdir = s.sdir := rfl
@[simp] theorem State.onDie_jdir (s : State) (d : Nat) (f : Die → Die) : (s.onDie d f).jdir = s.jdir := rfl
@[simp] theorem State.onDie_mirrors (s : State) (d : Nat) (f : Die → Die) : (s.onDie d f).mirrors = s.mirrors := rfl
@[simp] theorem State.onDie_hws (s : State) (d : Nat) (f : Die → Die) : (s.onDie d f).hws = s.hws := rfl
@[simp] theorem State.onDie_packed (s : State) (d : Nat) (f : Die → Die) : (s.onDie d f).packed = s.packed := rfl
@[simp] theorem State.onDie_chans (s : State) (d : Nat) (f : Die → Die) : (s.onDie d f).chans = s.chans := rfl
@[simp] theorem State.onDie_mqs (s : State) (d : Nat) (f : Die → Die) : (s.onDie d f).mqs = s.mqs := rfl
@[simp] theorem State.onDie_dies (s : State) (d : Nat) (f : Die → Die) : (s.onDie d f).dies = s.dies.modify d f := rfl
@[simp] theorem State.onDie_maq (s : State) (d : Nat) (f : Die → Die) : (s.onDie d f).maq = s.maq := rfl
@[simp] theorem State.onDie_tasks (s : State) (d : Nat) (f : Die → Die) : (s.onDie d f).tasks = s.tasks := rfl
@[simp] theorem State.onDie_queues (s : State) (d : Nat) (f : Die → Die) : (s.onDie d f).queues = s.queues := rfl
@[simp] theorem State.onDie_nextTask (s : State) (d : Nat) (f : Die → Die) : (s.onDie d f).nextTask = s.nextTask := rfl
@[simp] theorem State.onDie_msgs (s : State) (d : Nat) (f : Die → Die) : (s.onDie d f).msgs = s.msgs := rfl
@[simp] theorem State.onDie_wires (s : State) (d : Nat) (f : Die → Die) : (s.onDie d f).wires = s.wires := rfl
@[simp] theorem State.onDie_nextTx (s : State) (d : Nat) (f : Die → Die) : (s.onDie d f).nextTx = s.nextTx := rfl
@[simp] theorem State.onDie_host (s : State) (d : Nat) (f : Die → Die) : (s.onDie d f).host = s.host := rfl
@[simp] theorem State.onDie_out (s : State) (d : Nat) (f : Die → Die) : (s.onDie d f).out = s.out := rfl
@[simp] theorem State.onDie_agenda (s : State) (d : Nat) (f : Die → Die) : (s.onDie d f).agenda = s.agenda := rfl
@[simp] theorem State.onDie_phase (s : State) (d : Nat) (f : Die → Die) : (s.onDie d f).phase = s.phase := rfl
@[simp] theorem State.onDie_free (s : State) (d : Nat) (f : Die → Die) : (s.onDie d f).free = s.free := rfl
@[simp] theorem State.onDie_nextId (s : State) (d : Nat) (f : Die → Die) : (s.onDie d f).nextId = s.nextId := rfl
@[simp] theorem State.onDie_issued (s : State) (d : Nat) (f : Die → Die) : (s.onDie d f).issued = s.issued := rfl

@[simp] theorem State.onCluster_cur (s : State) (d c : Nat) (f : Cluster → Cluster) : (s.onCluster d c f).cur = s.cur := rfl
@[simp] theorem State.onCluster_curGrp (s : State) (d c : Nat) (f : Cluster → Cluster) : (s.onCluster d c f).curGrp = s.curGrp := rfl
@[simp] theorem State.onCluster_others (s : State) (d c : Nat) (f : Cluster → Cluster) : (s.onCluster d c f).others = s.others := rfl
@[simp] theorem State.onCluster_savedT (s : State) (d c : Nat) (f : Cluster → Cluster) : (s.onCluster d c f).savedT = s.savedT := rfl
@[simp] theorem State.onCluster_mem (s : State) (d c : Nat) (f : Cluster → Cluster) : (s.onCluster d c f).mem = s.mem := rfl
@[simp] theorem State.onCluster_flash (s : State) (d c : Nat) (f : Cluster → Cluster) : (s.onCluster d c f).flash = s.flash := rfl
@[simp] theorem State.onCluster_bad (s : State) (d c : Nat) (f : Cluster → Cluster) : (s.onCluster d c f).bad = s.bad := rfl
@[simp] theorem State.onCluster_ctxs (s : State) (d c : Nat) (f : Cluster → Cluster) : (s.onCluster d c f).ctxs = s.ctxs := rfl
@[simp] theorem State.onCluster_niches (s : State) (d c : Nat) (f : Cluster → Cluster) : (s.onCluster d c f).niches = s.niches := rfl
@[simp] theorem State.onCluster_cohorts (s : State) (d c : Nat) (f : Cluster → Cluster) : (s.onCluster d c f).cohorts = s.cohorts := rfl
@[simp] theorem State.onCluster_tlb (s : State) (d c : Nat) (f : Cluster → Cluster) : (s.onCluster d c f).tlb = s.tlb := rfl
@[simp] theorem State.onCluster_ilines (s : State) (d c : Nat) (f : Cluster → Cluster) : (s.onCluster d c f).ilines = s.ilines := rfl
@[simp] theorem State.onCluster_clines (s : State) (d c : Nat) (f : Cluster → Cluster) : (s.onCluster d c f).clines = s.clines := rfl
@[simp] theorem State.onCluster_l2 (s : State) (d c : Nat) (f : Cluster → Cluster) : (s.onCluster d c f).l2 = s.l2 := rfl
@[simp] theorem State.onCluster_sdir (s : State) (d c : Nat) (f : Cluster → Cluster) : (s.onCluster d c f).sdir = s.sdir := rfl
@[simp] theorem State.onCluster_jdir (s : State) (d c : Nat) (f : Cluster → Cluster) : (s.onCluster d c f).jdir = s.jdir := rfl
@[simp] theorem State.onCluster_mirrors (s : State) (d c : Nat) (f : Cluster → Cluster) : (s.onCluster d c f).mirrors = s.mirrors := rfl
@[simp] theorem State.onCluster_hws (s : State) (d c : Nat) (f : Cluster → Cluster) : (s.onCluster d c f).hws = s.hws := rfl
@[simp] theorem State.onCluster_packed (s : State) (d c : Nat) (f : Cluster → Cluster) : (s.onCluster d c f).packed = s.packed := rfl
@[simp] theorem State.onCluster_chans (s : State) (d c : Nat) (f : Cluster → Cluster) : (s.onCluster d c f).chans = s.chans := rfl
@[simp] theorem State.onCluster_mqs (s : State) (d c : Nat) (f : Cluster → Cluster) : (s.onCluster d c f).mqs = s.mqs := rfl
@[simp] theorem State.onCluster_dies (s : State) (d c : Nat) (f : Cluster → Cluster) : (s.onCluster d c f).dies = s.dies := rfl
@[simp] theorem State.onCluster_maq (s : State) (d c : Nat) (f : Cluster → Cluster) : (s.onCluster d c f).maq = s.maq := rfl
@[simp] theorem State.onCluster_tasks (s : State) (d c : Nat) (f : Cluster → Cluster) : (s.onCluster d c f).tasks = s.tasks := rfl
@[simp] theorem State.onCluster_queues (s : State) (d c : Nat) (f : Cluster → Cluster) : (s.onCluster d c f).queues = s.queues := rfl
@[simp] theorem State.onCluster_nextTask (s : State) (d c : Nat) (f : Cluster → Cluster) : (s.onCluster d c f).nextTask = s.nextTask := rfl
@[simp] theorem State.onCluster_msgs (s : State) (d c : Nat) (f : Cluster → Cluster) : (s.onCluster d c f).msgs = s.msgs := rfl
@[simp] theorem State.onCluster_wires (s : State) (d c : Nat) (f : Cluster → Cluster) : (s.onCluster d c f).wires = s.wires := rfl
@[simp] theorem State.onCluster_nextTx (s : State) (d c : Nat) (f : Cluster → Cluster) : (s.onCluster d c f).nextTx = s.nextTx := rfl
@[simp] theorem State.onCluster_host (s : State) (d c : Nat) (f : Cluster → Cluster) : (s.onCluster d c f).host = s.host := rfl
@[simp] theorem State.onCluster_out (s : State) (d c : Nat) (f : Cluster → Cluster) : (s.onCluster d c f).out = s.out := rfl
@[simp] theorem State.onCluster_agenda (s : State) (d c : Nat) (f : Cluster → Cluster) : (s.onCluster d c f).agenda = s.agenda := rfl
@[simp] theorem State.onCluster_phase (s : State) (d c : Nat) (f : Cluster → Cluster) : (s.onCluster d c f).phase = s.phase := rfl
@[simp] theorem State.onCluster_free (s : State) (d c : Nat) (f : Cluster → Cluster) : (s.onCluster d c f).free = s.free := rfl
@[simp] theorem State.onCluster_nextId (s : State) (d c : Nat) (f : Cluster → Cluster) : (s.onCluster d c f).nextId = s.nextId := rfl
@[simp] theorem State.onCluster_issued (s : State) (d c : Nat) (f : Cluster → Cluster) : (s.onCluster d c f).issued = s.issued := rfl

@[simp] theorem State.setNiche_cur (s : State) (x : Niche) : (s.setNiche x).cur = s.cur := rfl
@[simp] theorem State.setNiche_curGrp (s : State) (x : Niche) : (s.setNiche x).curGrp = s.curGrp := rfl
@[simp] theorem State.setNiche_others (s : State) (x : Niche) : (s.setNiche x).others = s.others := rfl
@[simp] theorem State.setNiche_savedT (s : State) (x : Niche) : (s.setNiche x).savedT = s.savedT := rfl
@[simp] theorem State.setNiche_mem (s : State) (x : Niche) : (s.setNiche x).mem = s.mem := rfl
@[simp] theorem State.setNiche_flash (s : State) (x : Niche) : (s.setNiche x).flash = s.flash := rfl
@[simp] theorem State.setNiche_bad (s : State) (x : Niche) : (s.setNiche x).bad = s.bad := rfl
@[simp] theorem State.setNiche_ctxs (s : State) (x : Niche) : (s.setNiche x).ctxs = s.ctxs := rfl
@[simp] theorem State.setNiche_clusters (s : State) (x : Niche) : (s.setNiche x).clusters = s.clusters := rfl
@[simp] theorem State.setNiche_cohorts (s : State) (x : Niche) : (s.setNiche x).cohorts = s.cohorts := rfl
@[simp] theorem State.setNiche_tlb (s : State) (x : Niche) : (s.setNiche x).tlb = s.tlb := rfl
@[simp] theorem State.setNiche_ilines (s : State) (x : Niche) : (s.setNiche x).ilines = s.ilines := rfl
@[simp] theorem State.setNiche_clines (s : State) (x : Niche) : (s.setNiche x).clines = s.clines := rfl
@[simp] theorem State.setNiche_l2 (s : State) (x : Niche) : (s.setNiche x).l2 = s.l2 := rfl
@[simp] theorem State.setNiche_sdir (s : State) (x : Niche) : (s.setNiche x).sdir = s.sdir := rfl
@[simp] theorem State.setNiche_jdir (s : State) (x : Niche) : (s.setNiche x).jdir = s.jdir := rfl
@[simp] theorem State.setNiche_mirrors (s : State) (x : Niche) : (s.setNiche x).mirrors = s.mirrors := rfl
@[simp] theorem State.setNiche_hws (s : State) (x : Niche) : (s.setNiche x).hws = s.hws := rfl
@[simp] theorem State.setNiche_packed (s : State) (x : Niche) : (s.setNiche x).packed = s.packed := rfl
@[simp] theorem State.setNiche_chans (s : State) (x : Niche) : (s.setNiche x).chans = s.chans := rfl
@[simp] theorem State.setNiche_mqs (s : State) (x : Niche) : (s.setNiche x).mqs = s.mqs := rfl
@[simp] theorem State.setNiche_dies (s : State) (x : Niche) : (s.setNiche x).dies = s.dies := rfl
@[simp] theorem State.setNiche_maq (s : State) (x : Niche) : (s.setNiche x).maq = s.maq := rfl
@[simp] theorem State.setNiche_tasks (s : State) (x : Niche) : (s.setNiche x).tasks = s.tasks := rfl
@[simp] theorem State.setNiche_queues (s : State) (x : Niche) : (s.setNiche x).queues = s.queues := rfl
@[simp] theorem State.setNiche_nextTask (s : State) (x : Niche) : (s.setNiche x).nextTask = s.nextTask := rfl
@[simp] theorem State.setNiche_msgs (s : State) (x : Niche) : (s.setNiche x).msgs = s.msgs := rfl
@[simp] theorem State.setNiche_wires (s : State) (x : Niche) : (s.setNiche x).wires = s.wires := rfl
@[simp] theorem State.setNiche_nextTx (s : State) (x : Niche) : (s.setNiche x).nextTx = s.nextTx := rfl
@[simp] theorem State.setNiche_host (s : State) (x : Niche) : (s.setNiche x).host = s.host := rfl
@[simp] theorem State.setNiche_out (s : State) (x : Niche) : (s.setNiche x).out = s.out := rfl
@[simp] theorem State.setNiche_agenda (s : State) (x : Niche) : (s.setNiche x).agenda = s.agenda := rfl
@[simp] theorem State.setNiche_phase (s : State) (x : Niche) : (s.setNiche x).phase = s.phase := rfl
@[simp] theorem State.setNiche_free (s : State) (x : Niche) : (s.setNiche x).free = s.free := rfl
@[simp] theorem State.setNiche_nextId (s : State) (x : Niche) : (s.setNiche x).nextId = s.nextId := rfl
@[simp] theorem State.setNiche_issued (s : State) (x : Niche) : (s.setNiche x).issued = s.issued := rfl

@[simp] theorem State.onCtx_cur (s : State) (p : BitVec 20) (f : Ctx → Ctx) : (s.onCtx p f).cur = s.cur := rfl
@[simp] theorem State.onCtx_curGrp (s : State) (p : BitVec 20) (f : Ctx → Ctx) : (s.onCtx p f).curGrp = s.curGrp := rfl
@[simp] theorem State.onCtx_others (s : State) (p : BitVec 20) (f : Ctx → Ctx) : (s.onCtx p f).others = s.others := rfl
@[simp] theorem State.onCtx_savedT (s : State) (p : BitVec 20) (f : Ctx → Ctx) : (s.onCtx p f).savedT = s.savedT := rfl
@[simp] theorem State.onCtx_mem (s : State) (p : BitVec 20) (f : Ctx → Ctx) : (s.onCtx p f).mem = s.mem := rfl
@[simp] theorem State.onCtx_flash (s : State) (p : BitVec 20) (f : Ctx → Ctx) : (s.onCtx p f).flash = s.flash := rfl
@[simp] theorem State.onCtx_bad (s : State) (p : BitVec 20) (f : Ctx → Ctx) : (s.onCtx p f).bad = s.bad := rfl
@[simp] theorem State.onCtx_clusters (s : State) (p : BitVec 20) (f : Ctx → Ctx) : (s.onCtx p f).clusters = s.clusters := rfl
@[simp] theorem State.onCtx_niches (s : State) (p : BitVec 20) (f : Ctx → Ctx) : (s.onCtx p f).niches = s.niches := rfl
@[simp] theorem State.onCtx_cohorts (s : State) (p : BitVec 20) (f : Ctx → Ctx) : (s.onCtx p f).cohorts = s.cohorts := rfl
@[simp] theorem State.onCtx_tlb (s : State) (p : BitVec 20) (f : Ctx → Ctx) : (s.onCtx p f).tlb = s.tlb := rfl
@[simp] theorem State.onCtx_ilines (s : State) (p : BitVec 20) (f : Ctx → Ctx) : (s.onCtx p f).ilines = s.ilines := rfl
@[simp] theorem State.onCtx_clines (s : State) (p : BitVec 20) (f : Ctx → Ctx) : (s.onCtx p f).clines = s.clines := rfl
@[simp] theorem State.onCtx_l2 (s : State) (p : BitVec 20) (f : Ctx → Ctx) : (s.onCtx p f).l2 = s.l2 := rfl
@[simp] theorem State.onCtx_sdir (s : State) (p : BitVec 20) (f : Ctx → Ctx) : (s.onCtx p f).sdir = s.sdir := rfl
@[simp] theorem State.onCtx_jdir (s : State) (p : BitVec 20) (f : Ctx → Ctx) : (s.onCtx p f).jdir = s.jdir := rfl
@[simp] theorem State.onCtx_mirrors (s : State) (p : BitVec 20) (f : Ctx → Ctx) : (s.onCtx p f).mirrors = s.mirrors := rfl
@[simp] theorem State.onCtx_hws (s : State) (p : BitVec 20) (f : Ctx → Ctx) : (s.onCtx p f).hws = s.hws := rfl
@[simp] theorem State.onCtx_packed (s : State) (p : BitVec 20) (f : Ctx → Ctx) : (s.onCtx p f).packed = s.packed := rfl
@[simp] theorem State.onCtx_chans (s : State) (p : BitVec 20) (f : Ctx → Ctx) : (s.onCtx p f).chans = s.chans := rfl
@[simp] theorem State.onCtx_mqs (s : State) (p : BitVec 20) (f : Ctx → Ctx) : (s.onCtx p f).mqs = s.mqs := rfl
@[simp] theorem State.onCtx_dies (s : State) (p : BitVec 20) (f : Ctx → Ctx) : (s.onCtx p f).dies = s.dies := rfl
@[simp] theorem State.onCtx_maq (s : State) (p : BitVec 20) (f : Ctx → Ctx) : (s.onCtx p f).maq = s.maq := rfl
@[simp] theorem State.onCtx_tasks (s : State) (p : BitVec 20) (f : Ctx → Ctx) : (s.onCtx p f).tasks = s.tasks := rfl
@[simp] theorem State.onCtx_queues (s : State) (p : BitVec 20) (f : Ctx → Ctx) : (s.onCtx p f).queues = s.queues := rfl
@[simp] theorem State.onCtx_nextTask (s : State) (p : BitVec 20) (f : Ctx → Ctx) : (s.onCtx p f).nextTask = s.nextTask := rfl
@[simp] theorem State.onCtx_msgs (s : State) (p : BitVec 20) (f : Ctx → Ctx) : (s.onCtx p f).msgs = s.msgs := rfl
@[simp] theorem State.onCtx_wires (s : State) (p : BitVec 20) (f : Ctx → Ctx) : (s.onCtx p f).wires = s.wires := rfl
@[simp] theorem State.onCtx_nextTx (s : State) (p : BitVec 20) (f : Ctx → Ctx) : (s.onCtx p f).nextTx = s.nextTx := rfl
@[simp] theorem State.onCtx_host (s : State) (p : BitVec 20) (f : Ctx → Ctx) : (s.onCtx p f).host = s.host := rfl
@[simp] theorem State.onCtx_out (s : State) (p : BitVec 20) (f : Ctx → Ctx) : (s.onCtx p f).out = s.out := rfl
@[simp] theorem State.onCtx_agenda (s : State) (p : BitVec 20) (f : Ctx → Ctx) : (s.onCtx p f).agenda = s.agenda := rfl
@[simp] theorem State.onCtx_phase (s : State) (p : BitVec 20) (f : Ctx → Ctx) : (s.onCtx p f).phase = s.phase := rfl
@[simp] theorem State.onCtx_free (s : State) (p : BitVec 20) (f : Ctx → Ctx) : (s.onCtx p f).free = s.free := rfl
@[simp] theorem State.onCtx_nextId (s : State) (p : BitVec 20) (f : Ctx → Ctx) : (s.onCtx p f).nextId = s.nextId := rfl
@[simp] theorem State.onCtx_issued (s : State) (p : BitVec 20) (f : Ctx → Ctx) : (s.onCtx p f).issued = s.issued := rfl

@[simp] theorem State.takeFree_cur (s : State) : (s.takeFree).cur = s.cur := rfl
@[simp] theorem State.takeFree_curGrp (s : State) : (s.takeFree).curGrp = s.curGrp := rfl
@[simp] theorem State.takeFree_others (s : State) : (s.takeFree).others = s.others := rfl
@[simp] theorem State.takeFree_savedT (s : State) : (s.takeFree).savedT = s.savedT := rfl
@[simp] theorem State.takeFree_mem (s : State) : (s.takeFree).mem = s.mem := rfl
@[simp] theorem State.takeFree_flash (s : State) : (s.takeFree).flash = s.flash := rfl
@[simp] theorem State.takeFree_bad (s : State) : (s.takeFree).bad = s.bad := rfl
@[simp] theorem State.takeFree_ctxs (s : State) : (s.takeFree).ctxs = s.ctxs := rfl
@[simp] theorem State.takeFree_clusters (s : State) : (s.takeFree).clusters = s.clusters := rfl
@[simp] theorem State.takeFree_niches (s : State) : (s.takeFree).niches = s.niches := rfl
@[simp] theorem State.takeFree_cohorts (s : State) : (s.takeFree).cohorts = s.cohorts := rfl
@[simp] theorem State.takeFree_tlb (s : State) : (s.takeFree).tlb = s.tlb := rfl
@[simp] theorem State.takeFree_ilines (s : State) : (s.takeFree).ilines = s.ilines := rfl
@[simp] theorem State.takeFree_clines (s : State) : (s.takeFree).clines = s.clines := rfl
@[simp] theorem State.takeFree_l2 (s : State) : (s.takeFree).l2 = s.l2 := rfl
@[simp] theorem State.takeFree_sdir (s : State) : (s.takeFree).sdir = s.sdir := rfl
@[simp] theorem State.takeFree_jdir (s : State) : (s.takeFree).jdir = s.jdir := rfl
@[simp] theorem State.takeFree_mirrors (s : State) : (s.takeFree).mirrors = s.mirrors := rfl
@[simp] theorem State.takeFree_hws (s : State) : (s.takeFree).hws = s.hws := rfl
@[simp] theorem State.takeFree_packed (s : State) : (s.takeFree).packed = s.packed := rfl
@[simp] theorem State.takeFree_chans (s : State) : (s.takeFree).chans = s.chans := rfl
@[simp] theorem State.takeFree_mqs (s : State) : (s.takeFree).mqs = s.mqs := rfl
@[simp] theorem State.takeFree_dies (s : State) : (s.takeFree).dies = s.dies := rfl
@[simp] theorem State.takeFree_maq (s : State) : (s.takeFree).maq = s.maq := rfl
@[simp] theorem State.takeFree_tasks (s : State) : (s.takeFree).tasks = s.tasks := rfl
@[simp] theorem State.takeFree_queues (s : State) : (s.takeFree).queues = s.queues := rfl
@[simp] theorem State.takeFree_nextTask (s : State) : (s.takeFree).nextTask = s.nextTask := rfl
@[simp] theorem State.takeFree_msgs (s : State) : (s.takeFree).msgs = s.msgs := rfl
@[simp] theorem State.takeFree_wires (s : State) : (s.takeFree).wires = s.wires := rfl
@[simp] theorem State.takeFree_nextTx (s : State) : (s.takeFree).nextTx = s.nextTx := rfl
@[simp] theorem State.takeFree_host (s : State) : (s.takeFree).host = s.host := rfl
@[simp] theorem State.takeFree_out (s : State) : (s.takeFree).out = s.out := rfl
@[simp] theorem State.takeFree_agenda (s : State) : (s.takeFree).agenda = s.agenda := rfl
@[simp] theorem State.takeFree_phase (s : State) : (s.takeFree).phase = s.phase := rfl
@[simp] theorem State.takeFree_free (s : State) : (s.takeFree).free = s.free + 1 := rfl
@[simp] theorem State.takeFree_nextId (s : State) : (s.takeFree).nextId = s.nextId := rfl
@[simp] theorem State.takeFree_issued (s : State) : (s.takeFree).issued = s.issued := rfl

@[simp] theorem State.emit_cur (s : State) (x : OutMsg) : (s.emit x).cur = s.cur := rfl
@[simp] theorem State.emit_curGrp (s : State) (x : OutMsg) : (s.emit x).curGrp = s.curGrp := rfl
@[simp] theorem State.emit_others (s : State) (x : OutMsg) : (s.emit x).others = s.others := rfl
@[simp] theorem State.emit_savedT (s : State) (x : OutMsg) : (s.emit x).savedT = s.savedT := rfl
@[simp] theorem State.emit_mem (s : State) (x : OutMsg) : (s.emit x).mem = s.mem := rfl
@[simp] theorem State.emit_flash (s : State) (x : OutMsg) : (s.emit x).flash = s.flash := rfl
@[simp] theorem State.emit_bad (s : State) (x : OutMsg) : (s.emit x).bad = s.bad := rfl
@[simp] theorem State.emit_ctxs (s : State) (x : OutMsg) : (s.emit x).ctxs = s.ctxs := rfl
@[simp] theorem State.emit_clusters (s : State) (x : OutMsg) : (s.emit x).clusters = s.clusters := rfl
@[simp] theorem State.emit_niches (s : State) (x : OutMsg) : (s.emit x).niches = s.niches := rfl
@[simp] theorem State.emit_cohorts (s : State) (x : OutMsg) : (s.emit x).cohorts = s.cohorts := rfl
@[simp] theorem State.emit_tlb (s : State) (x : OutMsg) : (s.emit x).tlb = s.tlb := rfl
@[simp] theorem State.emit_ilines (s : State) (x : OutMsg) : (s.emit x).ilines = s.ilines := rfl
@[simp] theorem State.emit_clines (s : State) (x : OutMsg) : (s.emit x).clines = s.clines := rfl
@[simp] theorem State.emit_l2 (s : State) (x : OutMsg) : (s.emit x).l2 = s.l2 := rfl
@[simp] theorem State.emit_sdir (s : State) (x : OutMsg) : (s.emit x).sdir = s.sdir := rfl
@[simp] theorem State.emit_jdir (s : State) (x : OutMsg) : (s.emit x).jdir = s.jdir := rfl
@[simp] theorem State.emit_mirrors (s : State) (x : OutMsg) : (s.emit x).mirrors = s.mirrors := rfl
@[simp] theorem State.emit_hws (s : State) (x : OutMsg) : (s.emit x).hws = s.hws := rfl
@[simp] theorem State.emit_packed (s : State) (x : OutMsg) : (s.emit x).packed = s.packed := rfl
@[simp] theorem State.emit_chans (s : State) (x : OutMsg) : (s.emit x).chans = s.chans := rfl
@[simp] theorem State.emit_mqs (s : State) (x : OutMsg) : (s.emit x).mqs = s.mqs := rfl
@[simp] theorem State.emit_dies (s : State) (x : OutMsg) : (s.emit x).dies = s.dies := rfl
@[simp] theorem State.emit_maq (s : State) (x : OutMsg) : (s.emit x).maq = s.maq := rfl
@[simp] theorem State.emit_tasks (s : State) (x : OutMsg) : (s.emit x).tasks = s.tasks := rfl
@[simp] theorem State.emit_queues (s : State) (x : OutMsg) : (s.emit x).queues = s.queues := rfl
@[simp] theorem State.emit_nextTask (s : State) (x : OutMsg) : (s.emit x).nextTask = s.nextTask := rfl
@[simp] theorem State.emit_msgs (s : State) (x : OutMsg) : (s.emit x).msgs = s.msgs := rfl
@[simp] theorem State.emit_wires (s : State) (x : OutMsg) : (s.emit x).wires = s.wires := rfl
@[simp] theorem State.emit_nextTx (s : State) (x : OutMsg) : (s.emit x).nextTx = s.nextTx := rfl
@[simp] theorem State.emit_host (s : State) (x : OutMsg) : (s.emit x).host = s.host := rfl
@[simp] theorem State.emit_out (s : State) (x : OutMsg) : (s.emit x).out = s.out ++ [x] := rfl
@[simp] theorem State.emit_agenda (s : State) (x : OutMsg) : (s.emit x).agenda = s.agenda := rfl
@[simp] theorem State.emit_phase (s : State) (x : OutMsg) : (s.emit x).phase = s.phase := rfl
@[simp] theorem State.emit_free (s : State) (x : OutMsg) : (s.emit x).free = s.free := rfl
@[simp] theorem State.emit_nextId (s : State) (x : OutMsg) : (s.emit x).nextId = s.nextId := rfl
@[simp] theorem State.emit_issued (s : State) (x : OutMsg) : (s.emit x).issued = s.issued := rfl

@[simp] theorem State.advance_curGrp (s : State) (len : Nat) : (s.advance len).curGrp = s.curGrp := rfl
@[simp] theorem State.advance_others (s : State) (len : Nat) : (s.advance len).others = s.others := rfl
@[simp] theorem State.advance_savedT (s : State) (len : Nat) : (s.advance len).savedT = s.savedT := rfl
@[simp] theorem State.advance_mem (s : State) (len : Nat) : (s.advance len).mem = s.mem := rfl
@[simp] theorem State.advance_flash (s : State) (len : Nat) : (s.advance len).flash = s.flash := rfl
@[simp] theorem State.advance_bad (s : State) (len : Nat) : (s.advance len).bad = s.bad := rfl
@[simp] theorem State.advance_ctxs (s : State) (len : Nat) : (s.advance len).ctxs = s.ctxs := rfl
@[simp] theorem State.advance_clusters (s : State) (len : Nat) : (s.advance len).clusters = s.clusters := rfl
@[simp] theorem State.advance_niches (s : State) (len : Nat) : (s.advance len).niches = s.niches := rfl
@[simp] theorem State.advance_cohorts (s : State) (len : Nat) : (s.advance len).cohorts = s.cohorts := rfl
@[simp] theorem State.advance_tlb (s : State) (len : Nat) : (s.advance len).tlb = s.tlb := rfl
@[simp] theorem State.advance_ilines (s : State) (len : Nat) : (s.advance len).ilines = s.ilines := rfl
@[simp] theorem State.advance_clines (s : State) (len : Nat) : (s.advance len).clines = s.clines := rfl
@[simp] theorem State.advance_l2 (s : State) (len : Nat) : (s.advance len).l2 = s.l2 := rfl
@[simp] theorem State.advance_sdir (s : State) (len : Nat) : (s.advance len).sdir = s.sdir := rfl
@[simp] theorem State.advance_jdir (s : State) (len : Nat) : (s.advance len).jdir = s.jdir := rfl
@[simp] theorem State.advance_mirrors (s : State) (len : Nat) : (s.advance len).mirrors = s.mirrors := rfl
@[simp] theorem State.advance_hws (s : State) (len : Nat) : (s.advance len).hws = s.hws := rfl
@[simp] theorem State.advance_packed (s : State) (len : Nat) : (s.advance len).packed = s.packed := rfl
@[simp] theorem State.advance_chans (s : State) (len : Nat) : (s.advance len).chans = s.chans := rfl
@[simp] theorem State.advance_mqs (s : State) (len : Nat) : (s.advance len).mqs = s.mqs := rfl
@[simp] theorem State.advance_dies (s : State) (len : Nat) : (s.advance len).dies = s.dies := rfl
@[simp] theorem State.advance_maq (s : State) (len : Nat) : (s.advance len).maq = s.maq := rfl
@[simp] theorem State.advance_tasks (s : State) (len : Nat) : (s.advance len).tasks = s.tasks := rfl
@[simp] theorem State.advance_queues (s : State) (len : Nat) : (s.advance len).queues = s.queues := rfl
@[simp] theorem State.advance_nextTask (s : State) (len : Nat) : (s.advance len).nextTask = s.nextTask := rfl
@[simp] theorem State.advance_msgs (s : State) (len : Nat) : (s.advance len).msgs = s.msgs := rfl
@[simp] theorem State.advance_wires (s : State) (len : Nat) : (s.advance len).wires = s.wires := rfl
@[simp] theorem State.advance_nextTx (s : State) (len : Nat) : (s.advance len).nextTx = s.nextTx := rfl
@[simp] theorem State.advance_host (s : State) (len : Nat) : (s.advance len).host = s.host := rfl
@[simp] theorem State.advance_out (s : State) (len : Nat) : (s.advance len).out = s.out := rfl
@[simp] theorem State.advance_agenda (s : State) (len : Nat) : (s.advance len).agenda = s.agenda := rfl
@[simp] theorem State.advance_phase (s : State) (len : Nat) : (s.advance len).phase = s.phase := rfl
@[simp] theorem State.advance_free (s : State) (len : Nat) : (s.advance len).free = s.free := rfl
@[simp] theorem State.advance_nextId (s : State) (len : Nat) : (s.advance len).nextId = s.nextId := rfl
@[simp] theorem State.advance_issued (s : State) (len : Nat) : (s.advance len).issued = s.issued := rfl

@[simp] theorem Thread.onGrp_id (t : Thread) (g : Nat) (f : Nat → Slice → Slice) : (t.onGrp g f).id = t.id := rfl
@[simp] theorem Thread.onGrp_resident (t : Thread) (g : Nat) (f : Nat → Slice → Slice) : (t.onGrp g f).resident = t.resident := rfl
@[simp] theorem Thread.onGrp_kind (t : Thread) (g : Nat) (f : Nat → Slice → Slice) : (t.onGrp g f).kind = t.kind := rfl
@[simp] theorem Thread.onGrp_loc (t : Thread) (g : Nat) (f : Nat → Slice → Slice) : (t.onGrp g f).loc = t.loc := rfl
@[simp] theorem Thread.onGrp_task (t : Thread) (g : Nat) (f : Nat → Slice → Slice) : (t.onGrp g f).task = t.task := rfl
@[simp] theorem Thread.onGrp_role (t : Thread) (g : Nat) (f : Nat → Slice → Slice) : (t.onGrp g f).role = t.role := rfl
@[simp] theorem Thread.onGrp_gidx (t : Thread) (g : Nat) (f : Nat → Slice → Slice) : (t.onGrp g f).gidx = t.gidx := rfl
@[simp] theorem Thread.onGrp_pasid (t : Thread) (g : Nat) (f : Nat → Slice → Slice) : (t.onGrp g f).pasid = t.pasid := rfl
@[simp] theorem Thread.onGrp_nsl (t : Thread) (g : Nat) (f : Nat → Slice → Slice) : (t.onGrp g f).nsl = t.nsl := rfl
@[simp] theorem Thread.onGrp_allot (t : Thread) (g : Nat) (f : Nat → Slice → Slice) : (t.onGrp g f).allot = t.allot := rfl
@[simp] theorem Thread.onGrp_rbase (t : Thread) (g : Nat) (f : Nat → Slice → Slice) : (t.onGrp g f).rbase = t.rbase := rfl
@[simp] theorem Thread.onGrp_resv (t : Thread) (g : Nat) (f : Nat → Slice → Slice) : (t.onGrp g f).resv = t.resv := rfl
@[simp] theorem Thread.onGrp_resvHeld (t : Thread) (g : Nat) (f : Nat → Slice → Slice) : (t.onGrp g f).resvHeld = t.resvHeld := rfl
@[simp] theorem Thread.onGrp_tcount (t : Thread) (g : Nat) (f : Nat → Slice → Slice) : (t.onGrp g f).tcount = t.tcount := rfl
@[simp] theorem Thread.onGrp_csaIdx (t : Thread) (g : Nat) (f : Nat → Slice → Slice) : (t.onGrp g f).csaIdx = t.csaIdx := rfl
@[simp] theorem Thread.onGrp_regs (t : Thread) (g : Nat) (f : Nat → Slice → Slice) : (t.onGrp g f).regs = t.regs := rfl
@[simp] theorem Thread.onGrp_ctl (t : Thread) (g : Nat) (f : Nat → Slice → Slice) : (t.onGrp g f).ctl = t.ctl := rfl
@[simp] theorem Thread.onGrp_slices (t : Thread) (g : Nat) (f : Nat → Slice → Slice) : (t.onGrp g f).slices = mapGrp g f t.slices 0 := rfl
@[simp] theorem Thread.onGrp_outs (t : Thread) (g : Nat) (f : Nat → Slice → Slice) : (t.onGrp g f).outs = t.outs := rfl
@[simp] theorem Thread.onGrp_cntCp (t : Thread) (g : Nat) (f : Nat → Slice → Slice) : (t.onGrp g f).cntCp = t.cntCp := rfl
@[simp] theorem Thread.onGrp_cntMx (t : Thread) (g : Nat) (f : Nat → Slice → Slice) : (t.onGrp g f).cntMx = t.cntMx := rfl
@[simp] theorem Thread.onGrp_claims (t : Thread) (g : Nat) (f : Nat → Slice → Slice) : (t.onGrp g f).claims = t.claims := rfl
@[simp] theorem Thread.onGrp_batches (t : Thread) (g : Nat) (f : Nat → Slice → Slice) : (t.onGrp g f).batches = t.batches := rfl
@[simp] theorem Thread.onGrp_nextBat (t : Thread) (g : Nat) (f : Nat → Slice → Slice) : (t.onGrp g f).nextBat = t.nextBat := rfl
@[simp] theorem Thread.onGrp_watch (t : Thread) (g : Nat) (f : Nat → Slice → Slice) : (t.onGrp g f).watch = t.watch := rfl
@[simp] theorem Thread.onGrp_sleep (t : Thread) (g : Nat) (f : Nat → Slice → Slice) : (t.onGrp g f).sleep = t.sleep := rfl
@[simp] theorem Thread.onGrp_frs (t : Thread) (g : Nat) (f : Nat → Slice → Slice) : (t.onGrp g f).frs = t.frs := rfl
@[simp] theorem Thread.onGrp_missing (t : Thread) (g : Nat) (f : Nat → Slice → Slice) : (t.onGrp g f).missing = t.missing := rfl
@[simp] theorem Thread.onGrp_lpr (t : Thread) (g : Nat) (f : Nat → Slice → Slice) : (t.onGrp g f).lpr = t.lpr := rfl
@[simp] theorem Thread.onGrp_handler (t : Thread) (g : Nat) (f : Nat → Slice → Slice) : (t.onGrp g f).handler = t.handler := rfl
@[simp] theorem Thread.onGrp_halted (t : Thread) (g : Nat) (f : Nat → Slice → Slice) : (t.onGrp g f).halted = t.halted := rfl
@[simp] theorem Thread.onGrp_parked (t : Thread) (g : Nat) (f : Nat → Slice → Slice) : (t.onGrp g f).parked = t.parked := rfl
@[simp] theorem Thread.onGrp_preempt (t : Thread) (g : Nat) (f : Nat → Slice → Slice) : (t.onGrp g f).preempt = t.preempt := rfl
@[simp] theorem Thread.onGrp_restoring (t : Thread) (g : Nat) (f : Nat → Slice → Slice) : (t.onGrp g f).restoring = t.restoring := rfl
@[simp] theorem Thread.onGrp_saved (t : Thread) (g : Nat) (f : Nat → Slice → Slice) : (t.onGrp g f).saved = t.saved := rfl
@[simp] theorem Thread.onGrp_noWatch (t : Thread) (g : Nat) (f : Nat → Slice → Slice) : (t.onGrp g f).noWatch = t.noWatch := rfl
@[simp] theorem Thread.onGrp_apDone (t : Thread) (g : Nat) (f : Nat → Slice → Slice) : (t.onGrp g f).apDone = t.apDone := rfl
@[simp] theorem Thread.onGrp_memb (t : Thread) (g : Nat) (f : Nat → Slice → Slice) : (t.onGrp g f).memb = t.memb := rfl
@[simp] theorem Thread.onGrp_act (t : Thread) (g : Nat) (f : Nat → Slice → Slice) : (t.onGrp g f).act = t.act := rfl
@[simp] theorem Thread.onGrp_actSince (t : Thread) (g : Nat) (f : Nat → Slice → Slice) : (t.onGrp g f).actSince = t.actSince := rfl
@[simp] theorem Thread.onGrp_age (t : Thread) (g : Nat) (f : Nat → Slice → Slice) : (t.onGrp g f).age = t.age := rfl
@[simp] theorem Thread.onGrp_rdy (t : Thread) (g : Nat) (f : Nat → Slice → Slice) : (t.onGrp g f).rdy = t.rdy := rfl
@[simp] theorem Thread.onGrp_readySince (t : Thread) (g : Nat) (f : Nat → Slice → Slice) : (t.onGrp g f).readySince = t.readySince := rfl
@[simp] theorem Thread.onGrp_parkPc (t : Thread) (g : Nat) (f : Nat → Slice → Slice) : (t.onGrp g f).parkPc = t.parkPc := rfl
@[simp] theorem Thread.onGrp_steps (t : Thread) (g : Nat) (f : Nat → Slice → Slice) : (t.onGrp g f).steps = t.steps := rfl

@[simp] theorem Thread.orFlags_id (t : Thread) (f : BitVec 5) : (t.orFlags f).id = t.id := rfl
@[simp] theorem Thread.orFlags_resident (t : Thread) (f : BitVec 5) : (t.orFlags f).resident = t.resident := rfl
@[simp] theorem Thread.orFlags_kind (t : Thread) (f : BitVec 5) : (t.orFlags f).kind = t.kind := rfl
@[simp] theorem Thread.orFlags_loc (t : Thread) (f : BitVec 5) : (t.orFlags f).loc = t.loc := rfl
@[simp] theorem Thread.orFlags_task (t : Thread) (f : BitVec 5) : (t.orFlags f).task = t.task := rfl
@[simp] theorem Thread.orFlags_role (t : Thread) (f : BitVec 5) : (t.orFlags f).role = t.role := rfl
@[simp] theorem Thread.orFlags_gidx (t : Thread) (f : BitVec 5) : (t.orFlags f).gidx = t.gidx := rfl
@[simp] theorem Thread.orFlags_pasid (t : Thread) (f : BitVec 5) : (t.orFlags f).pasid = t.pasid := rfl
@[simp] theorem Thread.orFlags_nsl (t : Thread) (f : BitVec 5) : (t.orFlags f).nsl = t.nsl := rfl
@[simp] theorem Thread.orFlags_allot (t : Thread) (f : BitVec 5) : (t.orFlags f).allot = t.allot := rfl
@[simp] theorem Thread.orFlags_rbase (t : Thread) (f : BitVec 5) : (t.orFlags f).rbase = t.rbase := rfl
@[simp] theorem Thread.orFlags_resv (t : Thread) (f : BitVec 5) : (t.orFlags f).resv = t.resv := rfl
@[simp] theorem Thread.orFlags_resvHeld (t : Thread) (f : BitVec 5) : (t.orFlags f).resvHeld = t.resvHeld := rfl
@[simp] theorem Thread.orFlags_tcount (t : Thread) (f : BitVec 5) : (t.orFlags f).tcount = t.tcount := rfl
@[simp] theorem Thread.orFlags_csaIdx (t : Thread) (f : BitVec 5) : (t.orFlags f).csaIdx = t.csaIdx := rfl
@[simp] theorem Thread.orFlags_regs (t : Thread) (f : BitVec 5) : (t.orFlags f).regs = t.regs := rfl
@[simp] theorem Thread.orFlags_ctl (t : Thread) (f : BitVec 5) : (t.orFlags f).ctl = { t.ctl with fflags := t.ctl.fflags ||| f } := rfl
@[simp] theorem Thread.orFlags_slices (t : Thread) (f : BitVec 5) : (t.orFlags f).slices = t.slices := rfl
@[simp] theorem Thread.orFlags_outs (t : Thread) (f : BitVec 5) : (t.orFlags f).outs = t.outs := rfl
@[simp] theorem Thread.orFlags_cntCp (t : Thread) (f : BitVec 5) : (t.orFlags f).cntCp = t.cntCp := rfl
@[simp] theorem Thread.orFlags_cntMx (t : Thread) (f : BitVec 5) : (t.orFlags f).cntMx = t.cntMx := rfl
@[simp] theorem Thread.orFlags_claims (t : Thread) (f : BitVec 5) : (t.orFlags f).claims = t.claims := rfl
@[simp] theorem Thread.orFlags_batches (t : Thread) (f : BitVec 5) : (t.orFlags f).batches = t.batches := rfl
@[simp] theorem Thread.orFlags_nextBat (t : Thread) (f : BitVec 5) : (t.orFlags f).nextBat = t.nextBat := rfl
@[simp] theorem Thread.orFlags_watch (t : Thread) (f : BitVec 5) : (t.orFlags f).watch = t.watch := rfl
@[simp] theorem Thread.orFlags_sleep (t : Thread) (f : BitVec 5) : (t.orFlags f).sleep = t.sleep := rfl
@[simp] theorem Thread.orFlags_frs (t : Thread) (f : BitVec 5) : (t.orFlags f).frs = t.frs := rfl
@[simp] theorem Thread.orFlags_missing (t : Thread) (f : BitVec 5) : (t.orFlags f).missing = t.missing := rfl
@[simp] theorem Thread.orFlags_lpr (t : Thread) (f : BitVec 5) : (t.orFlags f).lpr = t.lpr := rfl
@[simp] theorem Thread.orFlags_handler (t : Thread) (f : BitVec 5) : (t.orFlags f).handler = t.handler := rfl
@[simp] theorem Thread.orFlags_halted (t : Thread) (f : BitVec 5) : (t.orFlags f).halted = t.halted := rfl
@[simp] theorem Thread.orFlags_parked (t : Thread) (f : BitVec 5) : (t.orFlags f).parked = t.parked := rfl
@[simp] theorem Thread.orFlags_preempt (t : Thread) (f : BitVec 5) : (t.orFlags f).preempt = t.preempt := rfl
@[simp] theorem Thread.orFlags_restoring (t : Thread) (f : BitVec 5) : (t.orFlags f).restoring = t.restoring := rfl
@[simp] theorem Thread.orFlags_saved (t : Thread) (f : BitVec 5) : (t.orFlags f).saved = t.saved := rfl
@[simp] theorem Thread.orFlags_noWatch (t : Thread) (f : BitVec 5) : (t.orFlags f).noWatch = t.noWatch := rfl
@[simp] theorem Thread.orFlags_apDone (t : Thread) (f : BitVec 5) : (t.orFlags f).apDone = t.apDone := rfl
@[simp] theorem Thread.orFlags_memb (t : Thread) (f : BitVec 5) : (t.orFlags f).memb = t.memb := rfl
@[simp] theorem Thread.orFlags_act (t : Thread) (f : BitVec 5) : (t.orFlags f).act = t.act := rfl
@[simp] theorem Thread.orFlags_actSince (t : Thread) (f : BitVec 5) : (t.orFlags f).actSince = t.actSince := rfl
@[simp] theorem Thread.orFlags_age (t : Thread) (f : BitVec 5) : (t.orFlags f).age = t.age := rfl
@[simp] theorem Thread.orFlags_rdy (t : Thread) (f : BitVec 5) : (t.orFlags f).rdy = t.rdy := rfl
@[simp] theorem Thread.orFlags_readySince (t : Thread) (f : BitVec 5) : (t.orFlags f).readySince = t.readySince := rfl
@[simp] theorem Thread.orFlags_parkPc (t : Thread) (f : BitVec 5) : (t.orFlags f).parkPc = t.parkPc := rfl
@[simp] theorem Thread.orFlags_steps (t : Thread) (f : BitVec 5) : (t.orFlags f).steps = t.steps := rfl

@[simp] theorem Thread.regroup_id (t : Thread) (g : Nat) : (t.regroup g).id = t.id := rfl
@[simp] theorem Thread.regroup_resident (t : Thread) (g : Nat) : (t.regroup g).resident = t.resident := rfl
@[simp] theorem Thread.regroup_kind (t : Thread) (g : Nat) : (t.regroup g).kind = t.kind := rfl
@[simp] theorem Thread.regroup_loc (t : Thread) (g : Nat) : (t.regroup g).loc = t.loc := rfl
@[simp] theorem Thread.regroup_task (t : Thread) (g : Nat) : (t.regroup g).task = t.task := rfl
@[simp] theorem Thread.regroup_role (t : Thread) (g : Nat) : (t.regroup g).role = t.role := rfl
@[simp] theorem Thread.regroup_gidx (t : Thread) (g : Nat) : (t.regroup g).gidx = t.gidx := rfl
@[simp] theorem Thread.regroup_pasid (t : Thread) (g : Nat) : (t.regroup g).pasid = t.pasid := rfl
@[simp] theorem Thread.regroup_nsl (t : Thread) (g : Nat) : (t.regroup g).nsl = t.nsl := rfl
@[simp] theorem Thread.regroup_allot (t : Thread) (g : Nat) : (t.regroup g).allot = t.allot := rfl
@[simp] theorem Thread.regroup_rbase (t : Thread) (g : Nat) : (t.regroup g).rbase = t.rbase := rfl
@[simp] theorem Thread.regroup_resv (t : Thread) (g : Nat) : (t.regroup g).resv = t.resv := rfl
@[simp] theorem Thread.regroup_resvHeld (t : Thread) (g : Nat) : (t.regroup g).resvHeld = t.resvHeld := rfl
@[simp] theorem Thread.regroup_tcount (t : Thread) (g : Nat) : (t.regroup g).tcount = t.tcount := rfl
@[simp] theorem Thread.regroup_csaIdx (t : Thread) (g : Nat) : (t.regroup g).csaIdx = t.csaIdx := rfl
@[simp] theorem Thread.regroup_regs (t : Thread) (g : Nat) : (t.regroup g).regs = t.regs := rfl
@[simp] theorem Thread.regroup_ctl (t : Thread) (g : Nat) : (t.regroup g).ctl = t.ctl := rfl
@[simp] theorem Thread.regroup_outs (t : Thread) (g : Nat) : (t.regroup g).outs = t.outs := rfl
@[simp] theorem Thread.regroup_cntCp (t : Thread) (g : Nat) : (t.regroup g).cntCp = t.cntCp := rfl
@[simp] theorem Thread.regroup_cntMx (t : Thread) (g : Nat) : (t.regroup g).cntMx = t.cntMx := rfl
@[simp] theorem Thread.regroup_claims (t : Thread) (g : Nat) : (t.regroup g).claims = t.claims := rfl
@[simp] theorem Thread.regroup_batches (t : Thread) (g : Nat) : (t.regroup g).batches = t.batches := rfl
@[simp] theorem Thread.regroup_nextBat (t : Thread) (g : Nat) : (t.regroup g).nextBat = t.nextBat := rfl
@[simp] theorem Thread.regroup_watch (t : Thread) (g : Nat) : (t.regroup g).watch = t.watch := rfl
@[simp] theorem Thread.regroup_sleep (t : Thread) (g : Nat) : (t.regroup g).sleep = t.sleep := rfl
@[simp] theorem Thread.regroup_frs (t : Thread) (g : Nat) : (t.regroup g).frs = t.frs := rfl
@[simp] theorem Thread.regroup_missing (t : Thread) (g : Nat) : (t.regroup g).missing = t.missing := rfl
@[simp] theorem Thread.regroup_lpr (t : Thread) (g : Nat) : (t.regroup g).lpr = t.lpr := rfl
@[simp] theorem Thread.regroup_handler (t : Thread) (g : Nat) : (t.regroup g).handler = t.handler := rfl
@[simp] theorem Thread.regroup_halted (t : Thread) (g : Nat) : (t.regroup g).halted = t.halted := rfl
@[simp] theorem Thread.regroup_parked (t : Thread) (g : Nat) : (t.regroup g).parked = t.parked := rfl
@[simp] theorem Thread.regroup_preempt (t : Thread) (g : Nat) : (t.regroup g).preempt = t.preempt := rfl
@[simp] theorem Thread.regroup_restoring (t : Thread) (g : Nat) : (t.regroup g).restoring = t.restoring := rfl
@[simp] theorem Thread.regroup_saved (t : Thread) (g : Nat) : (t.regroup g).saved = t.saved := rfl
@[simp] theorem Thread.regroup_noWatch (t : Thread) (g : Nat) : (t.regroup g).noWatch = t.noWatch := rfl
@[simp] theorem Thread.regroup_apDone (t : Thread) (g : Nat) : (t.regroup g).apDone = t.apDone := rfl
@[simp] theorem Thread.regroup_memb (t : Thread) (g : Nat) : (t.regroup g).memb = t.memb := rfl
@[simp] theorem Thread.regroup_act (t : Thread) (g : Nat) : (t.regroup g).act = t.act := rfl
@[simp] theorem Thread.regroup_actSince (t : Thread) (g : Nat) : (t.regroup g).actSince = t.actSince := rfl
@[simp] theorem Thread.regroup_age (t : Thread) (g : Nat) : (t.regroup g).age = t.age := rfl
@[simp] theorem Thread.regroup_rdy (t : Thread) (g : Nat) : (t.regroup g).rdy = t.rdy := rfl
@[simp] theorem Thread.regroup_readySince (t : Thread) (g : Nat) : (t.regroup g).readySince = t.readySince := rfl
@[simp] theorem Thread.regroup_parkPc (t : Thread) (g : Nat) : (t.regroup g).parkPc = t.parkPc := rfl
@[simp] theorem Thread.regroup_steps (t : Thread) (g : Nat) : (t.regroup g).steps = t.steps := rfl

@[simp] theorem Regs.wrV_r (r : Regs) (ex : W32) (n : Nat) (act : W32) (tag : BitVec 4) (f : Nat → W32) : (r.wrV ex n act tag f).r = r.r := rfl
@[simp] theorem Regs.wrV_rpois (r : Regs) (ex : W32) (n : Nat) (act : W32) (tag : BitVec 4) (f : Nat → W32) : (r.wrV ex n act tag f).rpois = r.rpois := rfl
@[simp] theorem Regs.wrV_p (r : Regs) (ex : W32) (n : Nat) (act : W32) (tag : BitVec 4) (f : Nat → W32) : (r.wrV ex n act tag f).p = r.p := rfl
@[simp] theorem Regs.wrV_ppois (r : Regs) (ex : W32) (n : Nat) (act : W32) (tag : BitVec 4) (f : Nat → W32) : (r.wrV ex n act tag f).ppois = r.ppois := rfl
@[simp] theorem Regs.wrV_tile (r : Regs) (ex : W32) (n : Nat) (act : W32) (tag : BitVec 4) (f : Nat → W32) : (r.wrV ex n act tag f).tile = r.tile := rfl
@[simp] theorem Regs.wrV_ttag (r : Regs) (ex : W32) (n : Nat) (act : W32) (tag : BitVec 4) (f : Nat → W32) : (r.wrV ex n act tag f).ttag = r.ttag := rfl
@[simp] theorem Regs.wrV_hbank (r : Regs) (ex : W32) (n : Nat) (act : W32) (tag : BitVec 4) (f : Nat → W32) : (r.wrV ex n act tag f).hbank = r.hbank := rfl
@[simp] theorem Regs.wrV_hpois (r : Regs) (ex : W32) (n : Nat) (act : W32) (tag : BitVec 4) (f : Nat → W32) : (r.wrV ex n act tag f).hpois = r.hpois := rfl

@[simp] theorem Regs.wrR_v (r : Regs) (n : Nat) (x : Word) : (r.wrR n x).v = r.v := rfl
@[simp] theorem Regs.wrR_vtag (r : Regs) (n : Nat) (x : Word) : (r.wrR n x).vtag = r.vtag := rfl
@[simp] theorem Regs.wrR_r (r : Regs) (n : Nat) (x : Word) : (r.wrR n x).r = r.r.set n x := rfl
@[simp] theorem Regs.wrR_rpois (r : Regs) (n : Nat) (x : Word) : (r.wrR n x).rpois = setBit r.rpois n false := rfl
@[simp] theorem Regs.wrR_p (r : Regs) (n : Nat) (x : Word) : (r.wrR n x).p = r.p := rfl
@[simp] theorem Regs.wrR_ppois (r : Regs) (n : Nat) (x : Word) : (r.wrR n x).ppois = r.ppois := rfl
@[simp] theorem Regs.wrR_tile (r : Regs) (n : Nat) (x : Word) : (r.wrR n x).tile = r.tile := rfl
@[simp] theorem Regs.wrR_ttag (r : Regs) (n : Nat) (x : Word) : (r.wrR n x).ttag = r.ttag := rfl
@[simp] theorem Regs.wrR_hbank (r : Regs) (n : Nat) (x : Word) : (r.wrR n x).hbank = r.hbank := rfl
@[simp] theorem Regs.wrR_hpois (r : Regs) (n : Nat) (x : Word) : (r.wrR n x).hpois = r.hpois := rfl

@[simp] theorem Regs.psnR_v (r : Regs) (n : Nat) : (r.psnR n).v = r.v := rfl
@[simp] theorem Regs.psnR_vtag (r : Regs) (n : Nat) : (r.psnR n).vtag = r.vtag := rfl
@[simp] theorem Regs.psnR_r (r : Regs) (n : Nat) : (r.psnR n).r = r.r := rfl
@[simp] theorem Regs.psnR_rpois (r : Regs) (n : Nat) : (r.psnR n).rpois = setBit r.rpois n true := rfl
@[simp] theorem Regs.psnR_p (r : Regs) (n : Nat) : (r.psnR n).p = r.p := rfl
@[simp] theorem Regs.psnR_ppois (r : Regs) (n : Nat) : (r.psnR n).ppois = r.ppois := rfl
@[simp] theorem Regs.psnR_tile (r : Regs) (n : Nat) : (r.psnR n).tile = r.tile := rfl
@[simp] theorem Regs.psnR_ttag (r : Regs) (n : Nat) : (r.psnR n).ttag = r.ttag := rfl
@[simp] theorem Regs.psnR_hbank (r : Regs) (n : Nat) : (r.psnR n).hbank = r.hbank := rfl
@[simp] theorem Regs.psnR_hpois (r : Regs) (n : Nat) : (r.psnR n).hpois = r.hpois := rfl

@[simp] theorem Regs.wrT_v (r : Regs) (t : Nat) (tag : BitVec 4) (f : Nat → W32) : (r.wrT t tag f).v = r.v := by simp only [Regs.wrT]
@[simp] theorem Regs.wrT_vtag (r : Regs) (t : Nat) (tag : BitVec 4) (f : Nat → W32) : (r.wrT t tag f).vtag = r.vtag := by simp only [Regs.wrT]
@[simp] theorem Regs.wrT_r (r : Regs) (t : Nat) (tag : BitVec 4) (f : Nat → W32) : (r.wrT t tag f).r = r.r := by simp only [Regs.wrT]
@[simp] theorem Regs.wrT_rpois (r : Regs) (t : Nat) (tag : BitVec 4) (f : Nat → W32) : (r.wrT t tag f).rpois = r.rpois := by simp only [Regs.wrT]
@[simp] theorem Regs.wrT_p (r : Regs) (t : Nat) (tag : BitVec 4) (f : Nat → W32) : (r.wrT t tag f).p = r.p := by simp only [Regs.wrT]
@[simp] theorem Regs.wrT_ppois (r : Regs) (t : Nat) (tag : BitVec 4) (f : Nat → W32) : (r.wrT t tag f).ppois = r.ppois := by simp only [Regs.wrT]
@[simp] theorem Regs.wrT_ttag (r : Regs) (t : Nat) (tag : BitVec 4) (f : Nat → W32) : (r.wrT t tag f).ttag = r.ttag.set t tag := by simp only [Regs.wrT]
@[simp] theorem Regs.wrT_hbank (r : Regs) (t : Nat) (tag : BitVec 4) (f : Nat → W32) : (r.wrT t tag f).hbank = r.hbank := by simp only [Regs.wrT]
@[simp] theorem Regs.wrT_hpois (r : Regs) (t : Nat) (tag : BitVec 4) (f : Nat → W32) : (r.wrT t tag f).hpois = r.hpois := by simp only [Regs.wrT]

@[simp] theorem Regs.psnT_v (r : Regs) (t : Nat) : (r.psnT t).v = r.v := rfl
@[simp] theorem Regs.psnT_vtag (r : Regs) (t : Nat) : (r.psnT t).vtag = r.vtag := rfl
@[simp] theorem Regs.psnT_r (r : Regs) (t : Nat) : (r.psnT t).r = r.r := rfl
@[simp] theorem Regs.psnT_rpois (r : Regs) (t : Nat) : (r.psnT t).rpois = r.rpois := rfl
@[simp] theorem Regs.psnT_p (r : Regs) (t : Nat) : (r.psnT t).p = r.p := rfl
@[simp] theorem Regs.psnT_ppois (r : Regs) (t : Nat) : (r.psnT t).ppois = r.ppois := rfl
@[simp] theorem Regs.psnT_tile (r : Regs) (t : Nat) : (r.psnT t).tile = r.tile := rfl
@[simp] theorem Regs.psnT_ttag (r : Regs) (t : Nat) : (r.psnT t).ttag = r.ttag.set t tPSN := rfl
@[simp] theorem Regs.psnT_hbank (r : Regs) (t : Nat) : (r.psnT t).hbank = r.hbank := rfl
@[simp] theorem Regs.psnT_hpois (r : Regs) (t : Nat) : (r.psnT t).hpois = r.hpois := rfl

end Sys2Proof.Machine
end

