-- ==== Sys2Proof/Laws/Regs.lean ====
section
/-! SUPPORT. What reading a register gives after a write: vector registers with tags, s and x registers, predicates, poison. -/

namespace Sys2Proof.Machine

/-! ### Lanes -/

theorem mem_rangeFrom {a n k : Nat} : k ∈ rangeFrom a n ↔ a ≤ k ∧ k < a + n := by
  induction n generalizing a with
  | zero => simp [rangeFrom]
  | succ n ih => simp only [rangeFrom, List.mem_cons, ih]; omega

theorem mem_lanesOf {m : W32} {l : Nat} : l ∈ lanesOf m ↔ l < 32 ∧ laneIn m l = true := by
  simp [lanesOf, mem_rangeFrom]

theorem laneIn_lt {m : W32} {l : Nat} (h : laneIn m l = true) : l < 32 := by
  by_contra hn; simp [laneIn, BitVec.getLsbD_of_ge m l (by omega)] at h

theorem getLsbD_laneBit (l k : Nat) : laneIn (laneBit l) k = (decide (k < 32) && decide (l = k)) := by
  simp only [laneIn, laneBit, BitVec.getLsbD_ofNat, Nat.testBit_two_pow]

theorem laneIn_maskOf (f : Nat → Bool) (k : Nat) : laneIn (maskOf f) k = (decide (k < 32) && f k) := by
  have gen : ∀ (ls : List Nat) (m : W32),
      laneIn (ls.foldl (fun m l => if f l then m ||| laneBit l else m) m) k = (laneIn m k || (decide (k < 32) && f k && decide (k ∈ ls))) := by
    intro ls
    induction ls with
    | nil => simp
    | cons l ls ih =>
      intro m
      rw [List.foldl_cons, ih]
      by_cases hf : f l = true
      · have hb := getLsbD_laneBit l k
        simp only [laneIn] at hb ⊢
        rw [if_pos hf, BitVec.getLsbD_or, hb]
        by_cases hk : l = k
        · subst hk
          by_cases h : l < 32
          · simp [hf, h]
          · simp [h, BitVec.getLsbD_of_ge m l (by omega)]
        · have : k ≠ l := fun h => hk h.symm
          simp [hk, this]
      · rw [if_neg hf]
        by_cases hk : k = l
        · subst hk; simp [hf]
        · simp [hk]
  rw [maskOf, gen]
  by_cases h : k < 32 <;> simp [laneIn, mem_rangeFrom, h]

/-! ### Bits of poison -/

theorem getLsbD_setBit {w : Nat} (x : BitVec w) (n k : Nat) (b : Bool) :
    (setBit x n b).getLsbD k = if k = n then (decide (k < w) && b) else x.getLsbD k := by
  have ht : (BitVec.ofNat w (2 ^ n)).getLsbD k = (decide (k < w) && decide (n = k)) := by
    simp only [BitVec.getLsbD_ofNat, Nat.testBit_two_pow]
  cases b
  · simp only [setBit, if_neg Bool.false_ne_true, BitVec.getLsbD_and, BitVec.getLsbD_not, ht]
    by_cases hk : k = n
    · subst hk; by_cases h : k < w <;> simp [h]
    · have : n ≠ k := fun h => hk h.symm
      simp only [hk, this, if_false, decide_false, Bool.and_false, Bool.not_false, Bool.and_true]
      by_cases h : k < w
      · simp [h]
      · simp [h, BitVec.getLsbD_of_ge x k (by omega)]
  · simp only [setBit, if_true, BitVec.getLsbD_or, ht]
    by_cases hk : k = n
    · subst hk
      by_cases h : k < w
      · simp [h]
      · simp [h, BitVec.getLsbD_of_ge x k (by omega)]
    · have : n ≠ k := fun h => hk h.symm
      simp [hk, this]

/-! ### Vector registers -/

theorem get_foldl_set {w : Nat} (f : Nat → BitVec w) (b k : Nat) (ls : List Nat) (m : SMap w) :
    (ls.foldl (fun m l => m.set (b + l) (f l)) m).get k = if b ≤ k ∧ k - b ∈ ls then f (k - b) else m.get k := by
  induction ls generalizing m with
  | nil => simp
  | cons l ls ih =>
    rw [List.foldl_cons, ih, SMap.get_set]
    by_cases h : b ≤ k ∧ k - b ∈ ls
    · rw [if_pos h, if_pos ⟨h.1, List.mem_cons_of_mem _ h.2⟩]
    · rw [if_neg h]
      by_cases hk : k = b + l
      · subst hk; rw [if_pos rfl, if_pos ⟨by omega, by simp⟩]; congr 1; omega
      · rw [if_neg hk, if_neg]
        rintro ⟨h1, h2⟩
        rcases List.mem_cons.1 h2 with h2 | h2
        · omega
        · exact h ⟨h1, h2⟩

theorem Regs.rdV_wrV (r : Regs) (ex : W32) (n : Nat) (act : W32) (t : BitVec 4) (f : Nat → W32) (m l : Nat) (hl : l < 32) :
    (r.wrV ex n act t f).rdV m l = if m = n ∧ laneIn act l = true then f l else r.rdV m l := by
  simp only [Regs.rdV, Regs.wrV, get_foldl_set, mem_lanesOf]
  by_cases h : m = n
  · subst h
    have h1 : 32 * m + l - 32 * m = l := by omega
    rw [h1]; simp [hl]
  · rw [if_neg (by rintro ⟨h1, h2, -⟩; omega), if_neg (by simp [h])]

theorem Regs.tag_wrV (r : Regs) (ex : W32) (n : Nat) (act : W32) (t : BitVec 4) (f : Nat → W32) (m : Nat) :
    (r.wrV ex n act t f).tag m = if m = n then newTag (r.tag n) t act ex else r.tag m := by
  simp only [Regs.tag, Regs.wrV, SMap.get_set]

theorem Regs.tag_psnV (r : Regs) (n : Nat) (act : W32) (h : act ≠ 0) (m : Nat) :
    (r.psnV n act).tag m = if m = n then tPSN else r.tag m := by
  simp only [Regs.tag, Regs.psnV, if_neg h, SMap.get_set]

@[simp] theorem Regs.rdV_psnV (r : Regs) (n : Nat) (act : W32) (m l : Nat) : (r.psnV n act).rdV m l = r.rdV m l := by
  simp only [Regs.rdV, Regs.psnV]; split <;> rfl

/-! ### s and x registers -/

theorem Regs.rdR_wrR (r : Regs) (n m : Nat) (x : Word) : (r.wrR n x).rdR m = if m = n then x else r.rdR m := by
  simp only [Regs.rdR, Regs.wrR, SMap.get_set]

theorem Regs.rpois_wrR (r : Regs) (n m : Nat) (x : Word) :
    (r.wrR n x).rpois.getLsbD m = if m = n then false else r.rpois.getLsbD m := by
  simp only [Regs.wrR, getLsbD_setBit, Bool.and_false]

@[simp] theorem Regs.rdR_psnR (r : Regs) (n m : Nat) : (r.psnR n).rdR m = r.rdR m := rfl

theorem Regs.rpois_psnR (r : Regs) (n m : Nat) :
    (r.psnR n).rpois.getLsbD m = if m = n then decide (m < 64) else r.rpois.getLsbD m := by
  simp only [Regs.psnR, getLsbD_setBit, Bool.and_true]

/-! ### Predicates -/

theorem Regs.rdP_wrP (r : Regs) (ex : W32) (n : Nat) (act : W32) (f : Nat → Bool) (m l : Nat) (hl : l < 32) :
    (r.wrP ex n act f).rdP m l = if m = n ∧ n ≠ 0 ∧ laneIn act l = true then f l else r.rdP m l := by
  unfold Regs.wrP
  by_cases h0 : n = 0 ∨ act = 0
  · rw [if_pos h0, if_neg]
    rintro ⟨-, h2, h3⟩
    rcases h0 with h0 | h0
    · exact h2 h0
    · subst h0; simp [laneIn] at h3
  · rw [if_neg h0]
    simp only [Regs.rdP, SMap.get_set]
    by_cases hm : m = n
    · subst hm
      have hf := laneIn_maskOf f l
      simp only [laneIn] at hf
      simp only [if_true, laneIn, BitVec.getLsbD_or, BitVec.getLsbD_and, BitVec.getLsbD_not, hf, hl, decide_true, Bool.true_and]
      have : (m == 0) = false := by simp; tauto
      have h1 : m ≠ 0 := by tauto
      simp only [this, Bool.false_or, true_and, h1, ne_eq, not_false_eq_true]
      cases hb : act.getLsbD l <;> simp
    · simp [hm]

theorem Regs.pPoison_wrP (r : Regs) (ex : W32) (n : Nat) (act : W32) (f : Nat → Bool) (h : act ≠ 0) (m : Nat) :
    (r.wrP ex n act f).pPoison m = if m = n ∧ act = ex then false else r.pPoison m := by
  unfold Regs.wrP
  by_cases hn : n = 0
  · rw [if_pos (.inl hn)]; subst hn
    by_cases hm : m = 0
    · subst hm; simp [Regs.pPoison]
    · simp [hm]
  · rw [if_neg (by tauto)]
    by_cases he : act = ex
    · simp only [Regs.pPoison, if_pos he, getLsbD_setBit, Bool.and_false, and_iff_left he]
      by_cases hm : m = n <;> simp [hm]
    · simp [Regs.pPoison, he]

theorem Regs.p_wrP (r : Regs) (ex : W32) (n : Nat) (act : W32) (f : Nat → Bool) (m : Nat) (h : n ≠ m) :
    (r.wrP ex n act f).p.get m = r.p.get m ∧ (r.wrP ex n act f).ppois.getLsbD m = r.ppois.getLsbD m := by
  unfold Regs.wrP
  split
  · exact ⟨rfl, rfl⟩
  · refine ⟨by simp only [SMap.get_set, if_neg (Ne.symm h)], ?_⟩
    dsimp only
    split
    · rw [getLsbD_setBit, if_neg (fun hm => h hm.symm)]
    · rfl

@[simp] theorem Regs.rdP_psnP (r : Regs) (n : Nat) (act : W32) (m l : Nat) : (r.psnP n act).rdP m l = r.rdP m l := by
  unfold Regs.psnP; split <;> rfl

theorem Regs.ppois_psnP (r : Regs) (n : Nat) (act : W32) (h : act ≠ 0) (m : Nat) :
    (r.psnP n act).ppois.getLsbD m = if m = n ∧ n ≠ 0 then decide (m < 16) else r.ppois.getLsbD m := by
  unfold Regs.psnP
  by_cases hn : n = 0
  · rw [if_pos (.inl hn), if_neg (by tauto)]
  · rw [if_neg (by tauto)]; simp only [getLsbD_setBit, Bool.and_true]
    by_cases hm : m = n <;> simp [hm, hn]

end Sys2Proof.Machine
end

