-- ==== Sys2Proof/Laws/Unit.lean ====
section
/-! SUPPORT. How an issue unit comes out, once for each outcome of its body (R138, R395, R400). -/

namespace Sys2Proof.Machine

theorem passed_eq (s : State) (len : Nat) (gm : BitVec 8) (lm : W32) : s.complete len .seq gm lm false = s.passed len := rfl

theorem passedSet_eq (s : State) (len : Nat) (gm : BitVec 8) (lm : W32) : s.complete len .set gm lm false = s.passedSet := rfl

/-- Under `Clear` the two early parks do not happen and STEP is off. -/
theorem State.unit_of_clear (s : State) (len : Nat) (free : Bool) (g : Gd) (body : W32 → M Next) (hc : s.Clear free g) :
    s.unit len free g body =
      match (body (s.lanes g)).run s with
      | .ok (nx, s') => s'.complete len nx (s.cur.gslices s.curGrp) (s.lanes g) false
      | .error e => s.stops e (s.lanes g) := by
  obtain ⟨h1, h2, h3⟩ := hc
  unfold State.unit
  have e1 : (!free && !s.cur.frs.isEmpty && !s.cur.handler) = false := by
    rcases h1 with h | h | h <;> simp [h]
  have e2 : (s.cur.mask s.curGrp != 0 && s.cur.regs.pPoison g.prd.toNat) = false := by
    rcases h2 with h | h <;> simp [h]
  have e3 : (s.cur.ctl.dbgctl.getLsbD 63 && !s.cur.handler) = false := by
    rcases h3 with h | h <;> simp only [h, Bool.false_and, Bool.not_true, Bool.and_false]
  simp only [e1, e2, e3, Bool.false_eq_true, if_false]
  rfl

theorem State.unit_next {s s' : State} {len : Nat} {free : Bool} {g : Gd} {body : W32 → M Next} (hc : s.Clear free g)
    (hb : (body (s.lanes g)).run s = .ok (.seq, s')) : s.unit len free g body = s'.passed len := by
  rw [State.unit_of_clear _ _ _ _ _ hc, hb]; rfl

theorem State.unit_set {s s' : State} {len : Nat} {free : Bool} {g : Gd} {body : W32 → M Next} (hc : s.Clear free g)
    (hb : (body (s.lanes g)).run s = .ok (.set, s')) : s.unit len free g body = s'.passedSet := by
  rw [State.unit_of_clear _ _ _ _ _ hc, hb]; rfl

theorem State.unit_stop {s s' : State} {len : Nat} {free : Bool} {g : Gd} {body : W32 → M Next} {e : Exc} (hc : s.Clear free g)
    (hb : (body (s.lanes g)).run s = .error ⟨e, s'⟩) : s.unit len free g body = s.stops ⟨e, s'⟩ (s.lanes g) := by
  rw [State.unit_of_clear _ _ _ _ _ hc, hb]

/-- With a poisoned guard and a lane to guard, a unit that may issue parks (R138). -/
theorem State.unit_poisoned_guard {s : State} {len : Nat} {free : Bool} {g : Gd} {body : W32 → M Next}
    (hf : free = true ∨ s.cur.frs = [] ∨ s.cur.handler = true) (hm : s.cur.mask s.curGrp ≠ 0)
    (hp : s.cur.regs.pPoison g.prd.toNat = true) :
    s.unit len free g body = s.stopped (.park 0) (s.cur.mask s.curGrp) (s.cur.pcOf s.curGrp) (s.cur.gslices s.curGrp) := by
  unfold State.unit
  have e1 : (!free && !s.cur.frs.isEmpty && !s.cur.handler) = false := by rcases hf with h | h | h <;> simp [h]
  have e2 : (s.cur.mask s.curGrp != 0) = true := by simpa using hm
  simp only [e1, e2, hp, Bool.false_eq_true, if_false, Bool.and_self, if_true]

/-- An open fault record holds a unit that may not issue under one (R400). -/
theorem State.unit_record {s : State} {len : Nat} {g : Gd} {body : W32 → M Next} (hf : s.cur.frs ≠ []) (hh : s.cur.handler = false) :
    s.unit len false g body = s.stopped (.park 0) (s.cur.mask s.curGrp) (s.cur.pcOf s.curGrp) (s.cur.gslices s.curGrp) := by
  unfold State.unit
  have e1 : s.cur.frs.isEmpty = false := by cases h : s.cur.frs with | nil => exact absurd h hf | cons => rfl
  simp only [e1, hh, Bool.not_false, Bool.and_self, if_true]

/-- A unit that stops before it has changed anything. -/
theorem State.stops_self (s : State) (e : Exc) (m : W32) (h : e ≠ .waits) :
    s.stops ⟨e, s⟩ m = s.stopped e m (s.cur.pcOf s.curGrp) (s.cur.gslices s.curGrp) := by
  cases e <;> first | rfl | exact absurd rfl h

theorem State.unitSeq_next {s s' : State} {len : Nat} {free : Bool} {g : Gd} {body : W32 → M Unit} (hc : s.Clear free g) (ha : s.lanes g ≠ 0)
    (hb : (body (s.lanes g)).run s = .ok ((), s')) : s.unitSeq len free g body = s'.passed len := by
  refine State.unit_next hc ?_
  simp only [if_neg ha]
  change (do body (s.lanes g); pure Next.seq : M Next).run s = _
  rw [StateT.run_bind, hb]; rfl

/-- A unit with no active lane passes (R138). -/
theorem State.unitSeq_idle {s : State} {len : Nat} {free : Bool} {g : Gd} {body : W32 → M Unit} (hc : s.Clear free g) (ha : s.lanes g = 0) :
    s.unitSeq len free g body = s.passed len := by
  refine State.unit_next hc ?_
  simp only [if_pos ha]; rfl

theorem State.unitSeq_stop {s s' : State} {len : Nat} {free : Bool} {g : Gd} {body : W32 → M Unit} {e : Exc} (hc : s.Clear free g)
    (ha : s.lanes g ≠ 0) (hb : (body (s.lanes g)).run s = .error ⟨e, s'⟩) : s.unitSeq len free g body = s.stops ⟨e, s'⟩ (s.lanes g) := by
  refine State.unit_stop hc ?_
  simp only [if_neg ha]
  change (do body (s.lanes g); pure Next.seq : M Next).run s = _
  rw [StateT.run_bind, hb]; rfl

end Sys2Proof.Machine
end

