-- ==== Sys2Proof/Laws/Alu.lean ====
section
/-! SUPPORT. What the one path of register instructions does (R92 to R97, R138): computes and writes, spreads poison, or traps on a tag. -/

namespace Sys2Proof.Machine

/-! ### Values -/

/-- The result of destination `i` in a lane. -/
def Op.res (o : Op) (s : State) (act : W32) (i l : Nat) : Nat := (o.fn act (fun l => o.srcs.map fun p => p.1.val s l) l).1.getD i 0

/-- The flags that a lane raises. -/
def Op.raise (o : Op) (s : State) (act : W32) (l : Nat) : BitVec 5 := (o.fn act (fun l => o.srcs.map fun p => p.1.val s l) l).2

/-- What an operation writes, destination by destination. -/
def Op.puts (o : Op) (s : State) (act : W32) : List Put :=
  o.dsts.zipIdx.map fun x => ⟨x.1, o.tag (o.srcs.map fun p => p.1.tags s.cur.regs), o.res s act x.2⟩

theorem find_map_pair {β : Type} (f : Nat → β) (ls : List Nat) (l : Nat) (h : l ∈ ls) :
    (ls.map fun k => (k, f k)).find? (fun x => x.1 == l) = some (l, f l) := by
  induction ls with
  | nil => simp at h
  | cons k ks ih =>
    by_cases hk : k = l
    · subst hk; simp
    · have : l ∈ ks := by simpa [show ¬ l = k from fun h => hk h.symm] using h
      simp [hk, ih this]

theorem lowLane_mem {m : W32} (h : m ≠ 0) : lowLane m ∈ lanesOf m := by
  have gen : ∀ n i, (∃ k, i ≤ k ∧ k < i + n ∧ bitN m.toNat k = true) → bitN m.toNat (i + ctzN m.toNat i n) = true ∧ ctzN m.toNat i n < n := by
    intro n
    induction n with
    | zero => rintro i ⟨k, h1, h2, -⟩; omega
    | succ n ih =>
      rintro i ⟨k, h1, h2, h3⟩
      unfold ctzN
      by_cases hb : bitN m.toNat i = true
      · rw [if_pos hb]; exact ⟨hb, by omega⟩
      · rw [if_neg hb]
        have : k ≠ i := fun h => hb (h ▸ h3)
        have := ih (i + 1) ⟨k, by omega, by omega, h3⟩
        refine ⟨?_, by omega⟩
        rw [← this.1]; congr 1; omega
  have bits : ∀ k, bitN m.toNat k = laneIn m k := by
    intro k
    simp only [bitN, laneIn, BitVec.getLsbD, Nat.testBit, Nat.shiftRight_eq_div_pow, Nat.and_comm 1, Nat.and_one_is_mod]
    have := Nat.mod_two_eq_zero_or_one (m.toNat / 2 ^ k)
    rcases this with h | h <;> simp [h]
  obtain ⟨k, hk⟩ : ∃ k, laneIn m k = true := by
    by_contra hn
    apply h
    apply BitVec.eq_of_getLsbD_eq
    intro i hi
    have : laneIn m i ≠ true := fun h => hn ⟨i, h⟩
    simpa [laneIn] using this
  have := gen 32 0 ⟨k, by omega, by have := laneIn_lt hk; omega, by rw [bits]; exact hk⟩
  rw [mem_lanesOf]
  simp only [Nat.zero_add] at this
  exact ⟨this.2, by rw [← bits]; exact this.1⟩

theorem computing_eq (o : Op) (act : W32) : computing o.dsts act = if o.uniform then [lowLane act] else lanesOf act := rfl

theorem compute_at (o : Op) (s : State) (act : W32) (i l : Nat) (hl : l ∈ computing o.dsts act) :
    (o.compute s act).at i l = o.res s act i l := by
  unfold Eff.at Op.compute
  have e : ∀ ls : List Nat, (ls.map fun l => (l, o.fn act (fun l => o.srcs.map fun p => p.1.val s l) l)).map (fun x => (x.1, x.2.1))
      = ls.map fun l => (l, (o.fn act (fun l => o.srcs.map fun p => p.1.val s l) l).1) := by
    intro ls; simp [List.map_map, Function.comp_def]
  simp only [e]
  rw [find_map_pair _ _ l (by rw [computing_eq] at hl; exact hl)]
  rfl

theorem compute_flags (o : Op) (s : State) (act : W32) :
    (o.compute s act).flags = (computing o.dsts act).foldl (fun f l => f ||| o.raise s act l) 0 := by
  rw [computing_eq]
  unfold Op.compute Op.raise
  simp only [List.foldl_map]

theorem lowLane_computing {ds : List Dst} {act : W32} (h : act ≠ 0) : lowLane act ∈ computing ds act := by
  unfold computing; split
  · simp
  · exact lowLane_mem h

/-! ### Writing one destination -/

theorem write_v (e : Eff) (exist act : W32) (hp : e.pois = false) (i n k : Nat) (r : Regs) :
    let r' := e.write exist act r i (.v n k)
    (∀ m l, l < 32 → r'.rdV m l =
      if n ≤ m ∧ m < n + k ∧ laneIn act l = true then BitVec.ofNat 32 (e.at i l / 2 ^ (32 * (m - n))) else r.rdV m l) ∧
    (∀ m, r'.tag m = if n ≤ m ∧ m < n + k then newTag (r.tag m) (e.tag (m - n)) act exist else r.tag m) ∧
    r'.r = r.r ∧ r'.rpois = r.rpois ∧ r'.p = r.p ∧ r'.ppois = r.ppois ∧ r'.tile = r.tile ∧ r'.ttag = r.ttag ∧ r'.hbank = r.hbank ∧
      r'.hpois = r.hpois := by
  have gen : ∀ (k a : Nat) (r : Regs),
      let r' := (rangeFrom a k).foldl (fun r j => r.wrV exist (n + j) act (e.tag j) fun l => BitVec.ofNat 32 (e.at i l / 2 ^ (32 * j))) r
      (∀ m l, l < 32 → r'.rdV m l =
        if n + a ≤ m ∧ m < n + a + k ∧ laneIn act l = true then BitVec.ofNat 32 (e.at i l / 2 ^ (32 * (m - n))) else r.rdV m l) ∧
      (∀ m, r'.tag m = if n + a ≤ m ∧ m < n + a + k then newTag (r.tag m) (e.tag (m - n)) act exist else r.tag m) ∧
      r'.r = r.r ∧ r'.rpois = r.rpois ∧ r'.p = r.p ∧ r'.ppois = r.ppois ∧ r'.tile = r.tile ∧ r'.ttag = r.ttag ∧ r'.hbank = r.hbank ∧
        r'.hpois = r.hpois := by
    intro k
    induction k with
    | zero =>
      intro a r
      refine ⟨fun m l _ => ?_, fun m => ?_, rfl, rfl, rfl, rfl, rfl, rfl, rfl, rfl⟩
      · rw [if_neg (by omega)]; rfl
      · rw [if_neg (by omega)]; rfl
    | succ k ih =>
      intro a r
      obtain ⟨h1, h2, h3⟩ := ih (a + 1) (r.wrV exist (n + a) act (e.tag a) fun l => BitVec.ofNat 32 (e.at i l / 2 ^ (32 * a)))
      refine ⟨fun m l hl => ?_, fun m => ?_, h3⟩
      · refine (h1 m l hl).trans ?_
        rw [Regs.rdV_wrV _ _ _ _ _ _ _ _ hl]
        by_cases hm : m = n + a
        · subst hm
          have : n + a - n = a := by omega
          rw [if_neg (by omega), this]
          by_cases hx : laneIn act l = true
          · rw [if_pos ⟨rfl, hx⟩, if_pos ⟨by omega, by omega, hx⟩]
          · rw [if_neg (by simp [hx]), if_neg (by simp [hx])]
        · rw [if_neg (c := m = n + a ∧ _) (by simp [hm])]
          by_cases hc : n + (a + 1) ≤ m ∧ m < n + (a + 1) + k ∧ laneIn act l = true
          · rw [if_pos hc, if_pos ⟨by omega, by omega, hc.2.2⟩]
          · rw [if_neg hc, if_neg]; rintro ⟨a1, a2, a3⟩; exact hc ⟨by omega, by omega, a3⟩
      · refine (h2 m).trans ?_
        rw [Regs.tag_wrV]
        by_cases hm : m = n + a
        · subst hm
          have : n + a - n = a := by omega
          rw [if_neg (by omega), if_pos rfl, if_pos (by omega), this]
        · rw [if_neg hm]
          by_cases hc : n + (a + 1) ≤ m ∧ m < n + (a + 1) + k
          · rw [if_pos hc, if_pos (by omega)]
          · rw [if_neg hc, if_neg (by omega)]
  have := gen k 0 r
  simp only [Nat.add_zero] at this
  simpa only [Eff.write, hp, Bool.false_eq_true, if_false] using this

theorem write_wrote (e : Eff) (exist act : W32) (h : act ≠ 0) (hp : e.pois = false) (i : Nat) (d : Dst) (r : Regs) :
    r.Wrote (e.write exist act r i d) exist act ⟨d, e.tag, e.at i⟩ ∧ r.Kept (e.write exist act r i d) [d] := by
  cases d with
  | v n k =>
    obtain ⟨h1, h2, h3, h4, h5, h6, h7, h8, h9, h10⟩ := write_v e exist act hp i n k r
    refine ⟨fun j hj => ⟨fun l hl => ?_, ?_⟩, ⟨fun m hm => ⟨?_, fun l hl => ?_⟩, fun m _ => ⟨?_, ?_⟩, fun m _ => ⟨?_, ?_⟩, h7, h8, h9, h10⟩⟩
    · rw [h1 _ _ hl, Nat.add_sub_cancel_left]
      by_cases hx : laneIn act l = true
      · rw [if_pos ⟨by omega, by omega, hx⟩, if_pos hx]
      · rw [if_neg (by simp [hx]), if_neg hx]
    · rw [h2, if_pos (by omega), Nat.add_sub_cancel_left]
    · rw [h2, if_neg]; simpa [Dst.hasV] using hm
    · rw [h1 _ _ hl, if_neg]; intro hc; simp [Dst.hasV] at hm; omega
    · simp only [Regs.rdR, h3]
    · rw [h4]
    · rw [h5]
    · rw [h6]
  | r n =>
    have e1 : e.write exist act r i (.r n) = r.wrR n (BitVec.ofNat 64 (e.at i (lowLane act))) := by simp [Eff.write, hp]
    rw [e1]
    refine ⟨⟨?_, ?_⟩, ⟨fun m _ => ⟨rfl, fun l _ => rfl⟩, fun m hm => ?_, fun m _ => ⟨rfl, rfl⟩, rfl, rfl, rfl, rfl⟩⟩
    · simp only [Regs.rdR_wrR, if_pos]
    · simp only [Regs.rpois_wrR, if_pos]
    · have hm : ¬ m = n := by simp [Dst.hasR] at hm; exact fun h => hm h.symm
      simp only [Regs.rdR_wrR, Regs.rpois_wrR, if_neg hm, and_self]
  | p n =>
    have e1 : e.write exist act r i (.p n) = r.wrP exist n act fun l => e.at i l != 0 := by simp [Eff.write, hp]
    rw [e1]
    refine ⟨⟨fun l hl => ?_, ?_⟩, ⟨fun m _ => ⟨?_, fun l _ => ?_⟩, fun m _ => ⟨?_, ?_⟩, fun m hm => ?_, ?_, ?_, ?_, ?_⟩⟩
    · rw [Regs.rdP_wrP _ _ _ _ _ _ _ hl]; simp
    · rw [Regs.pPoison_wrP _ _ _ _ _ h]; simp
    · unfold Regs.wrP; split <;> rfl
    · unfold Regs.wrP; split <;> rfl
    · unfold Regs.wrP; split <;> rfl
    · unfold Regs.wrP; split <;> rfl
    · exact Regs.p_wrP _ _ _ _ _ _ (by simpa [Dst.hasP] using hm)
    all_goals unfold Regs.wrP; split <;> rfl

/-! ### Writing all of them -/

theorem kept_trans {r r1 r2 : Regs} {ds es : List Dst} (h : r.Kept r1 ds) (k : r1.Kept r2 es) : r.Kept r2 (ds ++ es) := by
  obtain ⟨a1, a2, a3, a4, a5, a6, a7⟩ := h
  obtain ⟨b1, b2, b3, b4, b5, b6, b7⟩ := k
  refine ⟨fun n hn => ?_, fun n hn => ?_, fun n hn => ?_, b4.trans a4, b5.trans a5, b6.trans a6, b7.trans a7⟩ <;>
    rw [List.any_append, Bool.or_eq_false_iff] at hn
  · exact ⟨(b1 n hn.2).1.trans (a1 n hn.1).1, fun l hl => ((b1 n hn.2).2 l hl).trans ((a1 n hn.1).2 l hl)⟩
  · exact ⟨(b2 n hn.2).1.trans (a2 n hn.1).1, (b2 n hn.2).2.trans (a2 n hn.1).2⟩
  · exact ⟨(b3 n hn.2).1.trans (a3 n hn.1).1, (b3 n hn.2).2.trans (a3 n hn.1).2⟩

/-- A destination that nothing of a list overlaps reads the same before and after that list is written. -/
theorem kept_apart {r r1 : Regs} {ds : List Dst} (h : r.Kept r1 ds) (d : Dst) (ha : (ds.all fun x => d.apart x) = true) :
    match d with
    | .v n k => ∀ j, j < k → r1.tag (n + j) = r.tag (n + j) ∧ ∀ l, l < 32 → r1.rdV (n + j) l = r.rdV (n + j) l
    | .r n => r1.rdR n = r.rdR n ∧ r1.rpois.getLsbD n = r.rpois.getLsbD n
    | .p n => r1.p.get n = r.p.get n ∧ r1.ppois.getLsbD n = r.ppois.getLsbD n := by
  rw [List.all_eq_true] at ha
  cases d with
  | v n k =>
    intro j hj
    refine h.1 (n + j) ?_
    rw [List.any_eq_false]; intro x hx hc
    have := ha x hx
    cases x <;> simp [Dst.apart, Dst.hasV] at this hc
    omega
  | r n =>
    refine h.2.1 n ?_
    rw [List.any_eq_false]; intro x hx hc
    have := ha x hx
    cases x <;> simp [Dst.apart, Dst.hasR] at this hc
    exact this hc.symm
  | p n =>
    refine h.2.2.1 n ?_
    rw [List.any_eq_false]; intro x hx hc
    have := ha x hx
    cases x <;> simp [Dst.apart, Dst.hasP] at this hc
    exact this hc.symm

theorem wrote_after {r r1 r2 : Regs} {exist act : W32} {w : Put} {ds : List Dst} (h : r.Wrote r1 exist act w) (k : r1.Kept r2 ds)
    (ha : (ds.all fun x => w.dst.apart x) = true) : r.Wrote r2 exist act w := by
  have e := kept_apart k w.dst ha
  unfold Regs.Wrote at h ⊢
  rcases w with ⟨d, t, v⟩
  cases d with
  | v n m => intro j hj; exact ⟨fun l hl => ((e j hj).2 l hl).trans ((h j hj).1 l hl), (e j hj).1.trans (h j hj).2⟩
  | r n => exact ⟨e.1.trans h.1, e.2.trans h.2⟩
  | p n =>
    have e1 : r2.pPoison n = r1.pPoison n := by simp only [Regs.pPoison]; rw [e.2]
    have e2 : ∀ l, r2.rdP n l = r1.rdP n l := by intro l; simp only [Regs.rdP]; rw [e.1]
    exact ⟨fun l hl => (e2 l).trans (h.1 l hl), e1.trans h.2⟩

theorem wrote_before {r r1 r2 : Regs} {exist act : W32} {w : Put} {ds : List Dst} (k : r.Kept r1 ds) (h : r1.Wrote r2 exist act w)
    (ha : (ds.all fun x => w.dst.apart x) = true) : r.Wrote r2 exist act w := by
  have e := kept_apart k w.dst ha
  unfold Regs.Wrote at h ⊢
  rcases w with ⟨d, t, v⟩
  cases d with
  | v n m =>
    intro j hj
    refine ⟨fun l hl => ?_, ?_⟩
    · rw [← (e j hj).2 l hl]; exact (h j hj).1 l hl
    · rw [← (e j hj).1]; exact (h j hj).2
  | r n => exact h
  | p n =>
    have e1 : r1.pPoison n = r.pPoison n := by simp only [Regs.pPoison]; rw [e.2]
    have e2 : ∀ l, r1.rdP n l = r.rdP n l := by intro l; simp only [Regs.rdP]; rw [e.1]
    refine ⟨fun l hl => ?_, ?_⟩
    · rw [← e2]; exact h.1 l hl
    · rw [← e1]; exact h.2

theorem Dst.apart_comm (a b : Dst) : a.apart b = b.apart a := by
  cases a <;> cases b <;> simp [Dst.apart, Bool.or_comm, bne_comm]

theorem writes_wrote (e : Eff) (exist act : W32) (h : act ≠ 0) (hp : e.pois = false) (ds : List Dst) (i : Nat) (r : Regs)
    (ha : ds.Pairwise fun a b => a.apart b = true) :
    (∀ x ∈ ds.zipIdx i, r.Wrote (e.writes exist act ds i r) exist act ⟨x.1, e.tag, e.at x.2⟩) ∧ r.Kept (e.writes exist act ds i r) ds := by
  induction ds generalizing i r with
  | nil => exact ⟨by simp, ⟨fun n _ => ⟨rfl, fun l _ => rfl⟩, fun n _ => ⟨rfl, rfl⟩, fun n _ => ⟨rfl, rfl⟩, rfl, rfl, rfl, rfl⟩⟩
  | cons d ds ih =>
    rw [List.pairwise_cons] at ha
    obtain ⟨w1, k1⟩ := write_wrote e exist act h hp i d r
    obtain ⟨w2, k2⟩ := ih (i + 1) (e.write exist act r i d) ha.2
    refine ⟨fun x hx => ?_, kept_trans k1 k2⟩
    rw [List.zipIdx_cons, List.mem_cons] at hx
    rcases hx with hx | hx
    · subst hx
      exact wrote_after w1 k2 (by rw [List.all_eq_true]; exact fun y hy => ha.1 y hy)
    · refine wrote_before k1 (w2 x hx) ?_
      have hm : x.1 ∈ ds := List.fst_mem_of_mem_zipIdx hx
      simp only [List.all_cons, List.all_nil, Bool.and_true]
      rw [Dst.apart_comm]; exact ha.1 _ hm

/-- Only the values in the written lanes count. -/
theorem wrote_congr {r r' : Regs} {exist act : W32} {d : Dst} {t u : Nat → BitVec 4} {v w : Nat → Nat} (h : r.Wrote r' exist act ⟨d, t, v⟩)
    (ht : ∀ j, t j = u j) (hl : v (lowLane act) = w (lowLane act)) (hv : (∃ n, d = .r n) ∨ ∀ l, l < 32 → laneIn act l = true → v l = w l) :
    r.Wrote r' exist act ⟨d, u, w⟩ := by
  have htu : t = u := funext ht
  subst htu
  unfold Regs.Wrote at h ⊢
  cases d with
  | v n k =>
    obtain ⟨n, hn⟩ | hv := hv
    · cases hn
    intro j hj
    refine ⟨fun l hl => ?_, (h j hj).2⟩
    rw [(h j hj).1 l hl]
    split
    · rename_i hx; simp only [hv l (laneIn_lt hx) hx]
    · rfl
  | r n => exact ⟨by simp only [← hl]; exact h.1, h.2⟩
  | p n =>
    obtain ⟨n, hn⟩ | hv := hv
    · cases hn
    refine ⟨fun l hl => ?_, h.2⟩
    rw [h.1 l hl]
    split
    · rename_i hx; simp only [hv l hl (by simp at hx; exact hx.2)]
    · rfl

/-! ### The path -/

/-- Sources that can be read give the computed values. -/
theorem Op.eval_takes {o : Op} {s s1 : State} {act : W32} (h : s.Takes s1 o.srcs o.okAll) (hl : o.late = none) :
    (o.eval act).run s = .ok (o.compute s1 act, s1) := by
  obtain ⟨h1, h2, h3, h4⟩ := h
  have h3' : eachM readNiche (List.filterMap (fun p => p.1.niche?) o.srcs) s = .ok ((), s1) := h3
  have h5 : (s1.cur.ctl.tagchk && !o.tagsOk s1.cur.regs) = false := by
    rcases h4 with h | h
    · simp [h]
    · simp only [Op.tagsOk, h, Bool.not_true, Bool.and_false]
  have h1' : ((List.filterMap (fun p => p.1.niche?) o.srcs).any s.nicheBad) = false := h1
  simp only [Op.eval, StateT.run, bind, StateT.bind, getS, stopIf, h1', Except.bind, Op.poisoned, h2, Bool.false_eq_true, if_false, h3', h5, hl]
  rfl

/-- A register instruction on lanes that act and sources that can be read. -/
theorem runAlu_next {len : Nat} {g : Gd} {o : Op} {s s1 : State} (hc : s.Clear true g) (ha : s.lanes g ≠ 0) (h : s.Takes s1 o.srcs o.okAll)
    (hl : o.late = none) :
    runAlu len g o s = (s1.onCur fun t => (o.compute s1 (s.lanes g)).apply (s.lanes g) t).passed len := by
  refine State.unitSeq_next hc ha ?_
  have h0 := Op.eval_takes (act := s.lanes g) h hl
  simp only [StateT.run, bind, StateT.bind, modS, Except.bind] at h0 ⊢
  rw [h0]

/-- Its effect, in the terms of claims. -/
theorem runAlu_did {len : Nat} {g : Gd} {o : Op} {s s1 : State} (hc : s.Clear true g) (ha : s.lanes g ≠ 0) (h : s.Takes s1 o.srcs o.okAll)
    (hl : o.late = none) (hd : o.dsts.Pairwise fun a b => a.apart b = true) :
    s1.Did (runAlu len g o s) len (s.lanes g) (o.puts s1 (s.lanes g)) (o.raise s1 (s.lanes g)) := by
  rw [runAlu_next hc ha h hl]
  have hm : (o.puts s1 (s.lanes g)).map Put.dst = o.dsts := by
    simp [Op.puts, List.map_map, Function.comp_def]
  obtain ⟨w, k⟩ := writes_wrote (o.compute s1 (s.lanes g)) s1.cur.exist (s.lanes g) ha rfl o.dsts 0 s1.cur.regs hd
  unfold State.Did
  rw [hm]
  refine ⟨fun x hx => ?_, k, ?_⟩
  · obtain ⟨y, hy, rfl⟩ := List.mem_map.1 hx
    refine wrote_congr (w y hy) (fun j => rfl) (compute_at o s1 _ _ _ (lowLane_computing ha)) ?_
    by_cases hu : o.uniform = true
    · left
      have hm : y.1 ∈ o.dsts := List.fst_mem_of_mem_zipIdx hy
      have := List.all_eq_true.1 hu _ hm
      cases hd1 : y.1 with
      | v n k => rw [hd1] at this; cases this
      | r n => exact ⟨n, rfl⟩
      | p n => rw [hd1] at this; cases this
    · right
      intro l hl hx
      refine compute_at o s1 _ _ _ ?_
      rw [computing_eq, if_neg hu, mem_lanesOf]
      exact ⟨hl, hx⟩
  · rw [← compute_flags]; rfl

/-- With no lane the instruction only passes. -/
theorem runAlu_idle {len : Nat} {g : Gd} {o : Op} {s : State} (hc : s.Clear true g) (ha : s.lanes g = 0) : runAlu len g o s = s.passed len :=
  State.unitSeq_idle hc ha

/-- A poisoned source poisons the destinations and raises no flag (R96). -/
theorem runAlu_poison {len : Nat} {g : Gd} {o : Op} {s : State} (hc : s.Clear true g) (ha : s.lanes g ≠ 0)
    (hn : (nichesOf o.srcs).any s.nicheBad = false) (hp : (o.srcs.any fun p => p.1.poisoned s.cur.regs) = true) :
    runAlu len g o s = (s.onCur fun t => o.poisonEff.apply (s.lanes g) t).passed len := by
  refine State.unitSeq_next hc ha ?_
  have h1' : ((List.filterMap (fun p => p.1.niche?) o.srcs).any s.nicheBad) = false := hn
  simp only [Op.eval, StateT.run, bind, StateT.bind, getS, stopIf, h1', Except.bind, Op.poisoned, hp, Bool.false_eq_true, if_false, if_true, modS]
  rfl

/-- A tag that a source does not accept traps FMT_TAG with nothing written (R93). -/
theorem runAlu_tag {len : Nat} {g : Gd} {o : Op} {s s1 : State} (hc : s.Clear true g) (ha : s.lanes g ≠ 0)
    (hn : (nichesOf o.srcs).any s.nicheBad = false) (hp : (o.srcs.any fun p => p.1.poisoned s.cur.regs) = false)
    (hr : (eachM readNiche (nichesOf o.srcs)).run s = .ok ((), s1)) (ht : s1.cur.ctl.tagchk = true) (hb : o.tagsOk s1.cur.regs = false) :
    runAlu len g o s = s.stops ⟨.trap cFMT 0 0, s1⟩ (s.lanes g) := by
  refine State.unitSeq_stop hc ha ?_
  have h1' : ((List.filterMap (fun p => p.1.niche?) o.srcs).any s.nicheBad) = false := hn
  have h3' : eachM readNiche (List.filterMap (fun p => p.1.niche?) o.srcs) s = .ok ((), s1) := hr
  simp only [Op.eval, StateT.run, bind, StateT.bind, getS, stopIf, h1', Except.bind, Op.poisoned, hp, Bool.false_eq_true, if_false, h3', ht, hb,
    Bool.not_false, Bool.and_self, if_true]

/-- Every register instruction runs its operation. -/
theorem exec_alu {s : State} {i : Instr} {len : Nat} {g : Gd} {o : Op} (h : aluForm s i = some (len, g, o)) :
    exec i s = .next (runAlu len g o s) := by
  cases i <;> first
    | (obtain ⟨rfl, rfl, rfl⟩ : _ ∧ _ ∧ _ := (by simpa only [aluForm, Option.some.injEq, Prod.mk.injEq] using h); rfl)
    | exact nomatch (show (none : Option (Nat × Gd × Op)) = some _ from h)

/-- What a register instruction with a form gives. -/
theorem exec_gives {s s1 : State} {i : Instr} {len : Nat} {g : Gd} {o : Op} (h : aluForm s i = some (len, g, o)) (ha : s.Acts true g)
    (ht : s.Takes s1 o.srcs o.okAll) (hl : o.late = none) (hd : o.dsts.Pairwise fun a b => a.apart b = true) :
    s.Gives s1 i len g (o.puts s1 (s.lanes g)) (o.raise s1 (s.lanes g)) :=
  ⟨_, exec_alu h, runAlu_did ha.1 ha.2 ht hl hd⟩

end Sys2Proof.Machine
end

