-- ==== Sys2Proof/Laws/Encoding.lean ====
section
/-! SUPPORT. Fields of concatenations, operands read back from the fields they were written to, and the reading of a full word by opcode. -/

namespace Sys2Proof

theorem extract_append_low {a b : Nat} (x : BitVec a) (y : BitVec b) (lo len : Nat) (h : lo + len ≤ b) :
    (x ++ y).extractLsb' lo len = y.extractLsb' lo len := by
  apply BitVec.eq_of_getLsbD_eq; intro i hi
  simp only [BitVec.getLsbD_extractLsb', BitVec.getLsbD_append]
  rw [if_pos (by omega)]

theorem extract_append_high {a b : Nat} (x : BitVec a) (y : BitVec b) (lo len : Nat) (h : b ≤ lo) :
    (x ++ y).extractLsb' lo len = x.extractLsb' (lo - b) len := by
  apply BitVec.eq_of_getLsbD_eq; intro i hi
  simp only [BitVec.getLsbD_extractLsb', BitVec.getLsbD_append]
  rw [if_neg (by omega)]; congr 2; omega

theorem getLsbD_append_low {a b : Nat} (x : BitVec a) (y : BitVec b) (i : Nat) (h : i < b) : (x ++ y).getLsbD i = y.getLsbD i := by
  rw [BitVec.getLsbD_append, if_pos h]

theorem getLsbD_append_high {a b : Nat} (x : BitVec a) (y : BitVec b) (i : Nat) (h : b ≤ i) :
    (x ++ y).getLsbD i = x.getLsbD (i - b) := by
  rw [BitVec.getLsbD_append, if_neg (by omega)]

theorem extract_whole {a : Nat} (x : BitVec a) (k : Nat) (h : k = 0) : x.extractLsb' k a = x := by
  subst h; apply BitVec.eq_of_getLsbD_eq; intro i hi; simp

theorem bit_getLsbD (b : Bool) (k : Nat) (h : k = 0) : (bit b).getLsbD k = b := by subst h; cases b <;> rfl

theorem imm_halves (v : BitVec 20) : (v.extractLsb' 10 10 ++ v.extractLsb' 0 10 : BitVec (10 + 10)) = v := by
  apply BitVec.eq_of_getLsbD_eq; intro i hi
  simp only [BitVec.getLsbD_append, BitVec.getLsbD_extractLsb']
  split
  · simp; omega
  · rw [show 10 + (i - 10) = i by omega]; simp; omega

/-! ### Operands read back -/

theorem src_of_fields (s : Src) (p : Pre) (f : Fld) (sc : BitVec 10) (h1 : f.sb = s.sb) (h2 : f.sc = s.sc sc) (h3 : f.shape = s.shape)
    (h4 : p = s.pre) : f.src p = s := by
  cases s <;> simp_all [Fld.src, Src.sb, Src.sc, Src.shape, Src.pre]
  exact imm_halves _

theorem imm_of_fields (s : Imm) (p : Pre) (f : Fld) (h1 : f.sb = s.src.sb) (h2 : f.sc = s.src.sc 0) (h4 : p = s.src.pre) :
    f.imm p = s := by
  cases s
  · simp_all [Fld.imm, Src.sb, Src.sc, Imm.src, Src.pre]; exact imm_halves _
  · simp_all [Fld.imm, Imm.src, Src.pre]

theorem scOf_of_fields (s : Src) (f : Fld) (sc : BitVec 10) (h2 : f.sc = s.sc sc) (h3 : f.shape = s.shape)
    (h : notImm s = true ∨ sc = 0) : f.scOf = sc := by
  cases s <;> simp_all [Fld.scOf, Src.sc, Src.shape, notImm]

theorem sc_of_notImm (s : Src) (sc : BitVec 10) (h : notImm s = true) : s.sc sc = sc := by
  cases s <;> simp_all [Src.sc, notImm]

theorem moff_of_fields (o : MOff) (b : Bpm) (f : Fld) (c : DCtx) (h1 : f.sb = o.sb) (h2 : f.sc.getLsbD 3 = o.ix) (h : moffOk c o b = true) :
    f.moff (o.pre b) = o := by
  cases o <;> cases b <;> simp_all [Fld.moff, MOff.sb, MOff.ix, MOff.pre, Pre.bpmOf, moffOk]

theorem bpm_of_moff (o : MOff) (b : Bpm) (c : DCtx) (h : moffOk c o b = true) : (o.pre b).bpmOf = b := by
  cases o <;> cases b <;> simp_all [MOff.pre, Pre.bpmOf, moffOk]

theorem uoff_of_fields (o : MOff) (b : Bpm) (f : Fld) (h1 : f.sb = o.sb) (h : uoffOk o b = true) : f.uoff (o.pre b) = o := by
  cases o <;> cases b <;> simp_all [Fld.uoff, MOff.sb, MOff.pre, Pre.bpmOf, uoffOk]

theorem bpm_of_uoff (o : MOff) (b : Bpm) (h : uoffOk o b = true) : (o.pre b).bpmOf = b := by
  cases o <;> cases b <;> simp_all [MOff.pre, Pre.bpmOf, uoffOk]

/-! ### Full words by opcode -/

theorem parse_00 (pre : Pre) (f : Fld) (e : f.opc = 0x00) : parseF pre f =
    (some (.nop f.gd)) := by
  unfold parseF; rw [e]; rfl
theorem parse_01 (pre : Pre) (f : Fld) (e : f.opc = 0x01) : parseF pre f =
    (some (.bra f.gd (f.md.extractLsb' 0 2) f.sa (f.imm pre))) := by
  unfold parseF; rw [e]; rfl
theorem parse_02 (pre : Pre) (f : Fld) (e : f.opc = 0x02) : parseF pre f =
    (some (.bri f.gd (f.shape == 1) f.sb)) := by
  unfold parseF; rw [e]; rfl
theorem parse_03 (pre : Pre) (f : Fld) (e : f.opc = 0x03) : parseF pre f =
    (some (.call f.dst (f.src pre))) := by
  unfold parseF; rw [e]; rfl
theorem parse_04 (pre : Pre) (f : Fld) (e : f.opc = 0x04) : parseF pre f =
    (some (.ret f.sa)) := by
  unfold parseF; rw [e]; rfl
theorem parse_05 (pre : Pre) (f : Fld) (e : f.opc = 0x05) : parseF pre f =
    (some (.exit f.gd)) := by
  unfold parseF; rw [e]; rfl
theorem parse_06 (pre : Pre) (f : Fld) (e : f.opc = 0x06) : parseF pre f =
    (some (.mark (f.md.extractLsb' 0 2) (f.imm pre))) := by
  unfold parseF; rw [e]; rfl
theorem parse_07 (pre : Pre) (f : Fld) (e : f.opc = 0x07) : parseF pre f =
    (some .merge) := by
  unfold parseF; rw [e]; rfl
theorem parse_08 (pre : Pre) (f : Fld) (e : f.opc = 0x08) : parseF pre f =
    (some (.brk f.gd)) := by
  unfold parseF; rw [e]; rfl
theorem parse_09 (pre : Pre) (f : Fld) (e : f.opc = 0x09) : parseF pre f =
    (some (.cont f.gd)) := by
  unfold parseF; rw [e]; rfl
theorem parse_0a (pre : Pre) (f : Fld) (e : f.opc = 0x0A) : parseF pre f =
    (some .regang) := by
  unfold parseF; rw [e]; rfl
theorem parse_0b (pre : Pre) (f : Fld) (e : f.opc = 0x0B) : parseF pre f =
    (some (.join f.gd f.dst (f.src pre))) := by
  unfold parseF; rw [e]; rfl
theorem parse_0c (pre : Pre) (f : Fld) (e : f.opc = 0x0C) : parseF pre f =
    (some (.leave f.gd (f.src pre))) := by
  unfold parseF; rw [e]; rfl
theorem parse_0d (pre : Pre) (f : Fld) (e : f.opc = 0x0D) : parseF pre f =
    (some (.bar f.gd f.dst (f.src pre) (f.md.getLsbD 7) (f.md.extractLsb' 4 3) (f.md.extractLsb' 2 2) f.scOf)) := by
  unfold parseF; rw [e]; rfl
theorem parse_0e (pre : Pre) (f : Fld) (e : f.opc = 0x0E) : parseF pre f =
    (some (.elect f.gd f.dst)) := by
  unfold parseF; rw [e]; rfl
theorem parse_0f (pre : Pre) (f : Fld) (e : f.opc = 0x0F) : parseF pre f =
    (some (if f.md.getLsbD 0 then .trapBkpt f.gd (f.imm pre) else .trapUser f.gd (f.imm pre))) := by
  unfold parseF; rw [e]; rfl
theorem parse_10 (pre : Pre) (f : Fld) (e : f.opc = 0x10) : parseF pre f =
    (some (.rett f.sa (f.md.getLsbD 0))) := by
  unfold parseF; rw [e]; rfl
theorem parse_11 (pre : Pre) (f : Fld) (e : f.opc = 0x11) : parseF pre f =
    (some (.svc f.gd f.dst f.sa (f.src pre) f.scOf)) := by
  unfold parseF; rw [e]; rfl
theorem parse_12 (pre : Pre) (f : Fld) (e : f.opc = 0x12) : parseF pre f =
    (some (.spawn f.dst f.sa (f.src pre))) := by
  unfold parseF; rw [e]; rfl
theorem parse_13 (pre : Pre) (f : Fld) (e : f.opc = 0x13) : parseF pre f =
    (some (.mwatch f.sa)) := by
  unfold parseF; rw [e]; rfl
theorem parse_14 (pre : Pre) (f : Fld) (e : f.opc = 0x14) : parseF pre f =
    (some (.msleep f.dst (f.src pre))) := by
  unfold parseF; rw [e]; rfl
theorem parse_15 (pre : Pre) (f : Fld) (e : f.opc = 0x15) : parseF pre f =
    (some (.pause (f.src pre))) := by
  unfold parseF; rw [e]; rfl
theorem parse_16 (pre : Pre) (f : Fld) (e : f.opc = 0x16) : parseF pre f =
    (some (.csrr f.dst (f.imm pre))) := by
  unfold parseF; rw [e]; rfl
theorem parse_17 (pre : Pre) (f : Fld) (e : f.opc = 0x17) : parseF pre f =
    (some (.csrw f.sa (f.imm pre))) := by
  unfold parseF; rw [e]; rfl
theorem parse_18 (pre : Pre) (f : Fld) (e : f.opc = 0x18) : parseF pre f =
    (some (.nw f.dst f.sa (f.src pre) (f.md.getLsbD 1) (f.md.getLsbD 0))) := by
  unfold parseF; rw [e]; rfl
theorem parse_19 (pre : Pre) (f : Fld) (e : f.opc = 0x19) : parseF pre f =
    (some (if f.md.getLsbD 0 then .nrTake f.dst f.sa else .nrPeek f.dst f.sa)) := by
  unfold parseF; rw [e]; rfl
theorem parse_1a (pre : Pre) (f : Fld) (e : f.opc = 0x1A) : parseF pre f =
    (some (.nred f.gd f.dst f.sa (f.md.extractLsb' 5 3) (f.md.extractLsb' 2 3))) := by
  unfold parseF; rw [e]; rfl
theorem parse_1b (pre : Pre) (f : Fld) (e : f.opc = 0x1B) : parseF pre f =
    (if 6 ≤ (f.md.extractLsb' 3 3).toNat || 5 ≤ (f.md.extractLsb' 0 3).toNat then none
    else if f.md.extractLsb' 6 2 = 0 then some (.nctlGather f.dst (f.src pre) (f.md.extractLsb' 3 3) (f.md.extractLsb' 0 3))
    else if f.md.extractLsb' 6 2 = 1 then some (.nctlBcast f.dst (f.src pre))
    else if f.md.extractLsb' 6 2 = 2 then some (.nctlEmpty f.dst (f.src pre)) else none) := by
  unfold parseF; rw [e]; rfl
theorem parse_1c (pre : Pre) (f : Fld) (e : f.opc = 0x1C) : parseF pre f =
    (some (.hsr f.dst (f.src pre))) := by
  unfold parseF; rw [e]; rfl
theorem parse_1d (pre : Pre) (f : Fld) (e : f.opc = 0x1D) : parseF pre f =
    (some (.hsw f.sa (f.src pre))) := by
  unfold parseF; rw [e]; rfl
theorem parse_20 (pre : Pre) (f : Fld) (e : f.opc = 0x20) : parseF pre f =
    (some (.iadd f.hd f.dst f.sa (f.src pre) (f.md.extractLsb' 5 2) (f.md.extractLsb' 3 2) (f.md.extractLsb' 0 3))) := by
  unfold parseF; rw [e]; rfl
theorem parse_21 (pre : Pre) (f : Fld) (e : f.opc = 0x21) : parseF pre f =
    (some (.isub f.hd f.dst f.sa (f.src pre) (f.md.extractLsb' 5 2) (f.md.extractLsb' 3 2) (f.md.extractLsb' 0 3))) := by
  unfold parseF; rw [e]; rfl
theorem parse_22 (pre : Pre) (f : Fld) (e : f.opc = 0x22) : parseF pre f =
    (some (.imul f.hd f.dst f.sa (f.src pre) (f.md.extractLsb' 5 2) (f.md.extractLsb' 3 2))) := by
  unfold parseF; rw [e]; rfl
theorem parse_23 (pre : Pre) (f : Fld) (e : f.opc = 0x23) : parseF pre f =
    (some (.imad f.hd f.dst f.sa (f.src pre) f.sc (f.md.extractLsb' 5 2) (f.md.extractLsb' 3 2))) := by
  unfold parseF; rw [e]; rfl
theorem parse_24 (pre : Pre) (f : Fld) (e : f.opc = 0x24) : parseF pre f =
    (some (.idiv f.hd f.dst f.sa (f.src pre) (f.md.extractLsb' 5 2) (f.md.getLsbD 4))) := by
  unfold parseF; rw [e]; rfl
theorem parse_25 (pre : Pre) (f : Fld) (e : f.opc = 0x25) : parseF pre f =
    (some (.imin f.hd f.dst f.sa (f.src pre) (f.md.extractLsb' 5 2))) := by
  unfold parseF; rw [e]; rfl
theorem parse_26 (pre : Pre) (f : Fld) (e : f.opc = 0x26) : parseF pre f =
    (some (.imax f.hd f.dst f.sa (f.src pre) (f.md.extractLsb' 5 2))) := by
  unfold parseF; rw [e]; rfl
theorem parse_27 (pre : Pre) (f : Fld) (e : f.opc = 0x27) : parseF pre f =
    (some (.iabs f.hd f.dst f.sa (f.md.extractLsb' 5 2) (f.md.getLsbD 4))) := by
  unfold parseF; rw [e]; rfl
theorem parse_28 (pre : Pre) (f : Fld) (e : f.opc = 0x28) : parseF pre f =
    (some (.ineg f.hd f.dst f.sa (f.md.extractLsb' 5 2) (f.md.getLsbD 4))) := by
  unfold parseF; rw [e]; rfl
theorem parse_29 (pre : Pre) (f : Fld) (e : f.opc = 0x29) : parseF pre f =
    (some (.icmp f.hd f.dst f.sa (f.src pre) (f.md.extractLsb' 5 2) (f.md.extractLsb' 2 3))) := by
  unfold parseF; rw [e]; rfl
theorem parse_2a (pre : Pre) (f : Fld) (e : f.opc = 0x2A) : parseF pre f =
    (some (.idp4 f.hd f.dst f.sa (f.src pre) f.sc (f.md.extractLsb' 5 2) (f.md.getLsbD 4))) := by
  unfold parseF; rw [e]; rfl
theorem parse_2b (pre : Pre) (f : Fld) (e : f.opc = 0x2B) : parseF pre f =
    (some (.lea f.hd f.dst f.sa (f.src pre) (f.md.extractLsb' 5 2) (f.md.extractLsb' 0 5))) := by
  unfold parseF; rw [e]; rfl
theorem parse_2c (pre : Pre) (f : Fld) (e : f.opc = 0x2C) : parseF pre f =
    (some (.and f.hd f.dst f.sa (f.src pre) (f.md.extractLsb' 5 2))) := by
  unfold parseF; rw [e]; rfl
theorem parse_2d (pre : Pre) (f : Fld) (e : f.opc = 0x2D) : parseF pre f =
    (some (.or f.hd f.dst f.sa (f.src pre) (f.md.extractLsb' 5 2))) := by
  unfold parseF; rw [e]; rfl
theorem parse_2e (pre : Pre) (f : Fld) (e : f.opc = 0x2E) : parseF pre f =
    (some (.xor f.hd f.dst f.sa (f.src pre) (f.md.extractLsb' 5 2))) := by
  unfold parseF; rw [e]; rfl
theorem parse_2f (pre : Pre) (f : Fld) (e : f.opc = 0x2F) : parseF pre f =
    (some (.not f.hd f.dst f.sa (f.md.extractLsb' 5 2))) := by
  unfold parseF; rw [e]; rfl
theorem parse_30 (pre : Pre) (f : Fld) (e : f.opc = 0x30) : parseF pre f =
    (some (.shl f.hd f.dst f.sa (f.src pre) (f.md.extractLsb' 5 2))) := by
  unfold parseF; rw [e]; rfl
theorem parse_31 (pre : Pre) (f : Fld) (e : f.opc = 0x31) : parseF pre f =
    (some (.shr f.hd f.dst f.sa (f.src pre) (f.md.extractLsb' 5 2) (f.md.getLsbD 4))) := by
  unfold parseF; rw [e]; rfl
theorem parse_32 (pre : Pre) (f : Fld) (e : f.opc = 0x32) : parseF pre f =
    (some (.rot f.hd f.dst f.sa (f.src pre) (f.md.extractLsb' 5 2))) := by
  unfold parseF; rw [e]; rfl
theorem parse_33 (pre : Pre) (f : Fld) (e : f.opc = 0x33) : parseF pre f =
    (some (.bfe f.hd f.dst f.sa (f.src pre) f.scOf (f.md.extractLsb' 5 2) (f.md.getLsbD 4))) := by
  unfold parseF; rw [e]; rfl
theorem parse_34 (pre : Pre) (f : Fld) (e : f.opc = 0x34) : parseF pre f =
    (some (.bfi f.hd f.dst f.sa (f.src pre) f.scOf (f.md.extractLsb' 5 2))) := by
  unfold parseF; rw [e]; rfl
theorem parse_35 (pre : Pre) (f : Fld) (e : f.opc = 0x35) : parseF pre f =
    (some (.bfrev f.hd f.dst f.sa (f.md.extractLsb' 5 2))) := by
  unfold parseF; rw [e]; rfl
theorem parse_36 (pre : Pre) (f : Fld) (e : f.opc = 0x36) : parseF pre f =
    (some (.bcnt f.hd f.dst f.sa (f.md.extractLsb' 5 2) (f.md.extractLsb' 3 2))) := by
  unfold parseF; rw [e]; rfl
theorem parse_37 (pre : Pre) (f : Fld) (e : f.opc = 0x37) : parseF pre f =
    (some (.sad f.hd f.dst f.sa (f.src pre) f.sc (f.md.extractLsb' 5 2) (f.md.getLsbD 4))) := by
  unfold parseF; rw [e]; rfl
theorem parse_38 (pre : Pre) (f : Fld) (e : f.opc = 0x38) : parseF pre f =
    (some (.mov f.hd f.dst (f.src pre) (f.md.extractLsb' 5 2))) := by
  unfold parseF; rw [e]; rfl
theorem parse_39 (pre : Pre) (f : Fld) (e : f.opc = 0x39) : parseF pre f =
    (some (.movi f.hd f.dst (f.imm pre) (f.md.extractLsb' 4 3))) := by
  unfold parseF; rw [e]; rfl
theorem parse_3a (pre : Pre) (f : Fld) (e : f.opc = 0x3A) : parseF pre f =
    (if f.md.getLsbD 7 then none else some (.sel f.gd f.dst f.sa (f.src pre) f.sc)) := by
  unfold parseF; rw [e]; rfl
theorem parse_3b (pre : Pre) (f : Fld) (e : f.opc = 0x3B) : parseF pre f =
    (if f.md.getLsbD 7 then none else some (.movx f.gd f.dst f.sa (f.md.extractLsb' 0 4))) := by
  unfold parseF; rw [e]; rfl
theorem parse_3c (pre : Pre) (f : Fld) (e : f.opc = 0x3C) : parseF pre f =
    (if f.md.getLsbD 7 then none else some (.plog f.gd f.dst f.sa f.sb (f.md.extractLsb' 0 4))) := by
  unfold parseF; rw [e]; rfl
theorem parse_3d (pre : Pre) (f : Fld) (e : f.opc = 0x3D) : parseF pre f =
    (if f.md.getLsbD 7 then none else some (.pmov f.gd f.dst f.sa (f.md.extractLsb' 0 2))) := by
  unfold parseF; rw [e]; rfl
theorem parse_3e (pre : Pre) (f : Fld) (e : f.opc = 0x3E) : parseF pre f =
    (if f.md.getLsbD 7 then none else some (.sreg f.gd f.dst (f.md.extractLsb' 0 4))) := by
  unfold parseF; rw [e]; rfl
theorem parse_40 (pre : Pre) (f : Fld) (e : f.opc = 0x40) : parseF pre f =
    (some (.fadd f.hd f.dst f.sa (f.src pre) (f.md.getLsbD 6) (f.md.extractLsb' 3 3))) := by
  unfold parseF; rw [e]; rfl
theorem parse_41 (pre : Pre) (f : Fld) (e : f.opc = 0x41) : parseF pre f =
    (some (.fsub f.hd f.dst f.sa (f.src pre) (f.md.getLsbD 6) (f.md.extractLsb' 3 3))) := by
  unfold parseF; rw [e]; rfl
theorem parse_42 (pre : Pre) (f : Fld) (e : f.opc = 0x42) : parseF pre f =
    (some (.fmul f.hd f.dst f.sa (f.src pre) (f.md.getLsbD 6) (f.md.extractLsb' 3 3))) := by
  unfold parseF; rw [e]; rfl
theorem parse_43 (pre : Pre) (f : Fld) (e : f.opc = 0x43) : parseF pre f =
    (some (.fma f.hd f.dst f.sa (f.src pre) f.sc (f.md.getLsbD 6) (f.md.extractLsb' 3 3))) := by
  unfold parseF; rw [e]; rfl
theorem parse_44 (pre : Pre) (f : Fld) (e : f.opc = 0x44) : parseF pre f =
    (if rndOk (f.md.extractLsb' 3 3) then some (.fmin f.hd f.dst f.sa (f.src pre) (f.md.getLsbD 6)) else none) := by
  unfold parseF; rw [e]; rfl
theorem parse_45 (pre : Pre) (f : Fld) (e : f.opc = 0x45) : parseF pre f =
    (if rndOk (f.md.extractLsb' 3 3) then some (.fmax f.hd f.dst f.sa (f.src pre) (f.md.getLsbD 6)) else none) := by
  unfold parseF; rw [e]; rfl
theorem parse_46 (pre : Pre) (f : Fld) (e : f.opc = 0x46) : parseF pre f =
    (if rndOk (f.md.extractLsb' 3 3) then some (.fcmp f.hd f.dst f.sa (f.src pre) (f.md.getLsbD 6) (f.md.extractLsb' 0 3)) else none) := by
  unfold parseF; rw [e]; rfl
theorem parse_47 (pre : Pre) (f : Fld) (e : f.opc = 0x47) : parseF pre f =
    (some (.frcp f.hd f.dst f.sa (f.md.getLsbD 6) (f.md.extractLsb' 3 3))) := by
  unfold parseF; rw [e]; rfl
theorem parse_48 (pre : Pre) (f : Fld) (e : f.opc = 0x48) : parseF pre f =
    (if rndOk (f.md.extractLsb' 3 3) then some (.frsq f.hd f.dst f.sa (f.md.getLsbD 6)) else none) := by
  unfold parseF; rw [e]; rfl
theorem parse_49 (pre : Pre) (f : Fld) (e : f.opc = 0x49) : parseF pre f =
    (some (.fsqrt f.hd f.dst f.sa (f.md.getLsbD 6) (f.md.extractLsb' 3 3))) := by
  unfold parseF; rw [e]; rfl
theorem parse_4a (pre : Pre) (f : Fld) (e : f.opc = 0x4A) : parseF pre f =
    (if rndOk (f.md.extractLsb' 3 3) then some (.fexp2 f.hd f.dst f.sa (f.md.getLsbD 6)) else none) := by
  unfold parseF; rw [e]; rfl
theorem parse_4b (pre : Pre) (f : Fld) (e : f.opc = 0x4B) : parseF pre f =
    (if rndOk (f.md.extractLsb' 3 3) then some (.flog2 f.hd f.dst f.sa (f.md.getLsbD 6)) else none) := by
  unfold parseF; rw [e]; rfl
theorem parse_4c (pre : Pre) (f : Fld) (e : f.opc = 0x4C) : parseF pre f =
    (if rndOk (f.md.extractLsb' 3 3) then some (.fsin f.hd f.dst f.sa (f.md.getLsbD 6)) else none) := by
  unfold parseF; rw [e]; rfl
theorem parse_4d (pre : Pre) (f : Fld) (e : f.opc = 0x4D) : parseF pre f =
    (if rndOk (f.md.extractLsb' 3 3) then some (.fcos f.hd f.dst f.sa (f.md.getLsbD 6)) else none) := by
  unfold parseF; rw [e]; rfl
theorem parse_4e (pre : Pre) (f : Fld) (e : f.opc = 0x4E) : parseF pre f =
    (some (.fdiv f.hd f.dst f.sa (f.src pre) (f.md.getLsbD 6) (f.md.extractLsb' 3 3))) := by
  unfold parseF; rw [e]; rfl
theorem parse_4f (pre : Pre) (f : Fld) (e : f.opc = 0x4F) : parseF pre f =
    (some (.frnd f.hd f.dst f.sa (f.md.getLsbD 6) (f.md.extractLsb' 3 3))) := by
  unfold parseF; rw [e]; rfl
theorem parse_50 (pre : Pre) (f : Fld) (e : f.opc = 0x50) : parseF pre f =
    (if rndOk (f.md.extractLsb' 3 3) then some (.fclass f.hd f.dst f.sa (f.md.getLsbD 6)) else none) := by
  unfold parseF; rw [e]; rfl
theorem parse_51 (pre : Pre) (f : Fld) (e : f.opc = 0x51) : parseF pre f =
    (some (.fscale f.hd f.dst f.sa (f.src pre) (f.md.getLsbD 6) (f.md.extractLsb' 3 3))) := by
  unfold parseF; rw [e]; rfl
theorem parse_52 (pre : Pre) (f : Fld) (e : f.opc = 0x52) : parseF pre f =
    (some (.ffrac f.hd f.dst f.sa (f.md.getLsbD 6) (f.md.extractLsb' 3 3))) := by
  unfold parseF; rw [e]; rfl
theorem parse_53 (pre : Pre) (f : Fld) (e : f.opc = 0x53) : parseF pre f =
    (if (f.md.getLsbD 6) then some (.fdot2 f.hd f.dst f.sa (f.src pre) f.sc (f.md.extractLsb' 3 3)) else none) := by
  unfold parseF; rw [e]; rfl
theorem parse_58 (pre : Pre) (f : Fld) (e : f.opc = 0x58) : parseF pre f =
    (some (.cvt f.hd f.dst f.sa (f.md.extractLsb' 3 4) (f.md.extractLsb' 0 3))) := by
  unfold parseF; rw [e]; rfl
theorem parse_59 (pre : Pre) (f : Fld) (e : f.opc = 0x59) : parseF pre f =
    (some (.pack f.hd f.dst f.sa (f.src pre) (f.md.extractLsb' 4 3) (f.md.extractLsb' 0 3))) := by
  unfold parseF; rw [e]; rfl
theorem parse_5a (pre : Pre) (f : Fld) (e : f.opc = 0x5A) : parseF pre f =
    (some (.unpk f.hd f.dst f.sa (f.md.extractLsb' 4 3) (f.md.extractLsb' 0 2))) := by
  unfold parseF; rw [e]; rfl
theorem parse_5c (pre : Pre) (f : Fld) (e : f.opc = 0x5C) : parseF pre f =
    (some (.vote f.gd f.dst f.sa (f.md.extractLsb' 0 2))) := by
  unfold parseF; rw [e]; rfl
theorem parse_5d (pre : Pre) (f : Fld) (e : f.opc = 0x5D) : parseF pre f =
    (some (.shfl f.gd f.dst f.sa (f.src pre) (f.md.extractLsb' 2 3) (f.md.extractLsb' 0 2))) := by
  unfold parseF; rw [e]; rfl
theorem parse_5e (pre : Pre) (f : Fld) (e : f.opc = 0x5E) : parseF pre f =
    (some (.prmt f.gd f.dst f.sa (f.src pre) f.scOf)) := by
  unfold parseF; rw [e]; rfl
theorem parse_5f (pre : Pre) (f : Fld) (e : f.opc = 0x5F) : parseF pre f =
    (some (.redg f.gd f.dst f.sa (f.md.extractLsb' 5 3) (f.md.extractLsb' 3 2) (f.md.extractLsb' 0 3))) := by
  unfold parseF; rw [e]; rfl
theorem parse_60 (pre : Pre) (f : Fld) (e : f.opc = 0x60) : parseF pre f =
    (some (.scan f.gd f.dst f.sa (f.md.extractLsb' 5 3) (f.md.extractLsb' 3 2) (f.md.extractLsb' 0 3) (f.sc.getLsbD 0))) := by
  unfold parseF; rw [e]; rfl
theorem parse_61 (pre : Pre) (f : Fld) (e : f.opc = 0x61) : parseF pre f =
    (some (.matchv f.gd f.dst f.sa (f.md.getLsbD 0))) := by
  unfold parseF; rw [e]; rfl
theorem parse_64 (pre : Pre) (f : Fld) (e : f.opc = 0x64) : parseF pre f =
    (some (.ld f.gd f.dst f.sa (f.moff pre) (f.sc.extractLsb' 7 3) (f.sc.extractLsb' 4 3) (f.sc.getLsbD 0) (f.md.extractLsb' 5 3) (f.md.extractLsb' 0 5) pre.bpmOf)) := by
  unfold parseF; rw [e]; rfl
theorem parse_65 (pre : Pre) (f : Fld) (e : f.opc = 0x65) : parseF pre f =
    (some (.st f.gd f.dst f.sa (f.moff pre) (f.sc.extractLsb' 7 3) (f.sc.extractLsb' 4 3) (f.sc.extractLsb' 0 3) (f.md.extractLsb' 5 3) (f.md.extractLsb' 0 5) pre.bpmOf)) := by
  unfold parseF; rw [e]; rfl
theorem parse_66 (pre : Pre) (f : Fld) (e : f.opc = 0x66) : parseF pre f =
    (some (.sld f.dst f.sa (f.uoff pre) (f.sc.extractLsb' 7 3) (f.sc.extractLsb' 4 3) (f.sc.getLsbD 0) (f.md.extractLsb' 5 3) (f.md.extractLsb' 0 5) pre.bpmOf)) := by
  unfold parseF; rw [e]; rfl
theorem parse_67 (pre : Pre) (f : Fld) (e : f.opc = 0x67) : parseF pre f =
    (some (.sst f.dst f.sa (f.uoff pre) (f.sc.extractLsb' 7 3) (f.sc.extractLsb' 4 3) (f.md.extractLsb' 5 3) (f.md.extractLsb' 0 5) pre.bpmOf)) := by
  unfold parseF; rw [e]; rfl
theorem parse_68 (pre : Pre) (f : Fld) (e : f.opc = 0x68) : parseF pre f =
    (some (.atom f.gd f.dst f.sa (f.moff pre) (f.sc.extractLsb' 7 3) (f.sc.extractLsb' 4 3) (f.md.extractLsb' 5 3) (f.md.extractLsb' 0 5) pre.bpmOf)) := by
  unfold parseF; rw [e]; rfl
theorem parse_69 (pre : Pre) (f : Fld) (e : f.opc = 0x69) : parseF pre f =
    (some (.satom f.dst f.sa (f.uoff pre) (f.sc.extractLsb' 7 3) (f.sc.extractLsb' 4 3) (f.md.extractLsb' 5 3) (f.md.extractLsb' 0 5) pre.bpmOf)) := by
  unfold parseF; rw [e]; rfl
theorem parse_6a (pre : Pre) (f : Fld) (e : f.opc = 0x6A) : parseF pre f =
    (some (.srel f.dst f.sa (f.uoff pre) (f.sc.extractLsb' 7 3) (f.md.getLsbD 7) (f.md.extractLsb' 5 2) (f.md.getLsbD 4))) := by
  unfold parseF; rw [e]; rfl
theorem parse_6b (pre : Pre) (f : Fld) (e : f.opc = 0x6B) : parseF pre f =
    (some (.sacq f.dst f.sa (f.uoff pre) (f.sc.extractLsb' 7 3) (f.md.getLsbD 7) (f.md.getLsbD 4))) := by
  unfold parseF; rw [e]; rfl
theorem parse_6c (pre : Pre) (f : Fld) (e : f.opc = 0x6C) : parseF pre f =
    (some (.fence (f.sc.extractLsb' 7 3) (f.md.extractLsb' 5 3))) := by
  unfold parseF; rw [e]; rfl
theorem parse_6d (pre : Pre) (f : Fld) (e : f.opc = 0x6D) : parseF pre f =
    (some (.wait (f.dst.extractLsb' 0 6) (f.sa.extractLsb' 0 6) (f.sb.extractLsb' 0 6) (f.sc.extractLsb' 0 6))) := by
  unfold parseF; rw [e]; rfl
theorem parse_6e (pre : Pre) (f : Fld) (e : f.opc = 0x6E) : parseF pre f =
    (some (.prf f.gd f.sa (f.moff pre) (f.sc.getLsbD 0))) := by
  unfold parseF; rw [e]; rfl
theorem parse_6f (pre : Pre) (f : Fld) (e : f.opc = 0x6F) : parseF pre f =
    (if f.md.extractLsb' 0 2 = 0 then some (.cmoWb f.gd f.sa (f.moff pre) (f.sc.extractLsb' 7 3))
    else if f.md.extractLsb' 0 2 = 1 then some (.cmoWbinv f.gd f.sa (f.moff pre) (f.sc.extractLsb' 7 3))
    else if f.md.extractLsb' 0 2 = 2 then some (.cmoIinv f.gd f.sa (f.moff pre) (f.sc.extractLsb' 7 3)) else none) := by
  unfold parseF; rw [e]; rfl
theorem parse_70 (pre : Pre) (f : Fld) (e : f.opc = 0x70) : parseF pre f =
    (some (.dcf f.sa f.sb (f.sc.extractLsb' 7 3))) := by
  unfold parseF; rw [e]; rfl
theorem parse_71 (pre : Pre) (f : Fld) (e : f.opc = 0x71) : parseF pre f =
    (some (.pclr f.dst f.sa f.sb)) := by
  unfold parseF; rw [e]; rfl
theorem parse_72 (pre : Pre) (f : Fld) (e : f.opc = 0x72) : parseF pre f =
    (if f.md.extractLsb' 0 3 = 0 then some (.cbarWait f.dst f.sa f.sb (f.sc.extractLsb' 7 3))
    else if f.md.extractLsb' 0 3 = 1 then some (.cbarTest f.dst f.sa f.sb (f.sc.extractLsb' 7 3))
    else if f.md.extractLsb' 0 3 = 2 then some (.cbarArm f.sa f.sb (f.sc.extractLsb' 7 3))
    else if f.md.extractLsb' 0 3 = 3 then some (.cbarArrive f.sa f.sb (f.sc.extractLsb' 7 3)) else none) := by
  unfold parseF; rw [e]; rfl
theorem parse_73 (pre : Pre) (f : Fld) (e : f.opc = 0x73) : parseF pre f =
    (some (.cpq f.sa f.sb (f.md.extractLsb' 0 3))) := by
  unfold parseF; rw [e]; rfl
theorem parse_74 (pre : Pre) (f : Fld) (e : f.opc = 0x74) : parseF pre f =
    (some (.tcfg f.dst (f.src pre) (f.md.getLsbD 0))) := by
  unfold parseF; rw [e]; rfl
theorem parse_75 (pre : Pre) (f : Fld) (e : f.opc = 0x75) : parseF pre f =
    (some .trel) := by
  unfold parseF; rw [e]; rfl
theorem parse_76 (pre : Pre) (f : Fld) (e : f.opc = 0x76) : parseF pre f =
    (some (.tzero f.dst (f.md.extractLsb' 0 6))) := by
  unfold parseF; rw [e]; rfl
theorem parse_77 (pre : Pre) (f : Fld) (e : f.opc = 0x77) : parseF pre f =
    (some (.mma f.dst f.sa f.sb (f.sc.extractLsb' 7 3) (f.sc.getLsbD 6) (f.sc.getLsbD 5) (f.sc.extractLsb' 0 5) (f.md.extractLsb' 6 2) (f.md.getLsbD 5) (f.md.extractLsb' 0 5))) := by
  unfold parseF; rw [e]; rfl
theorem parse_78 (pre : Pre) (f : Fld) (e : f.opc = 0x78) : parseF pre f =
    (some (.tld f.dst f.sa (f.uoff pre) (f.sc.extractLsb' 7 3) (f.sc.extractLsb' 0 6) (f.md.getLsbD 5) (f.md.extractLsb' 0 5))) := by
  unfold parseF; rw [e]; rfl
theorem parse_79 (pre : Pre) (f : Fld) (e : f.opc = 0x79) : parseF pre f =
    (some (.tst f.dst f.sa (f.uoff pre) (f.sc.extractLsb' 7 3) (f.sc.extractLsb' 0 6) (f.md.extractLsb' 5 3) (f.md.extractLsb' 0 5))) := by
  unfold parseF; rw [e]; rfl
theorem parse_7a (pre : Pre) (f : Fld) (e : f.opc = 0x7A) : parseF pre f =
    (if f.md.extractLsb' 0 2 = 0 then some (.tmovTov f.dst f.sa)
    else if f.md.extractLsb' 0 2 = 1 then some (.tmovFromv f.dst f.sa)
    else if f.md.extractLsb' 0 2 = 2 then some (.tmovTot f.dst f.sa) else none) := by
  unfold parseF; rw [e]; rfl
theorem parse_7b (pre : Pre) (f : Fld) (e : f.opc = 0x7B) : parseF pre f =
    (some (.mbat f.dst)) := by
  unfold parseF; rw [e]; rfl
theorem parse_7c (pre : Pre) (f : Fld) (e : f.opc = 0x7C) : parseF pre f =
    (some (.mwait f.dst (f.md.getLsbD 0) (f.src pre))) := by
  unfold parseF; rw [e]; rfl
theorem parse_7d (pre : Pre) (f : Fld) (e : f.opc = 0x7D) : parseF pre f =
    (some (.tscl f.dst f.sa (f.src pre) f.sc (f.md.getLsbD 7) (f.md.extractLsb' 3 3))) := by
  unfold parseF; rw [e]; rfl

end Sys2Proof
end

