-- ==== Sys2Proof/Laws/PerInstr.lean ====
section
/-! SUPPORT. The family F: what an instruction encodes is read back as that instruction, one lemma for each constructor. -/

namespace Sys2Proof

set_option Elab.async false
set_option linter.unusedSimpArgs false
set_option linter.unusedVariables false
set_option linter.unreachableTactic false
set_option linter.unusedTactic false

/-- The fields of a full word that encodes the instruction read as it, and the slots of a pair word make it again. -/
def Laws.F.Statement (i : Instr) : Prop :=
  (∀ c pre f, encF i = some (pre, f) → codesOk c i = true → encOk c i = true → parseF pre f = some i) ∧
  ∀ a b, pairSlots i = some (a, b) → mkPair a b = i

theorem Laws.F.nop (g : Gd) : Laws.F.Statement (.nop g) := by
  refine ⟨fun c pre f hf hc ho => ?_, fun _ _ h => nomatch (show (none : Option (Slot × Slot)) = some _ from h)⟩
  change some (_, _) = some (_, _) at hf
  obtain ⟨rfl, rfl⟩ := Prod.mk.inj (Option.some.inj hf)
  rw [parse_00 _ _ rfl]
  first
  | done
  | simp (disch := decide) only [encH, encG, encW, Fld.hd, Fld.gd, ftRnd, scopeSc, extract_append_low, extract_append_high, getLsbD_append_low, getLsbD_append_high, Nat.reduceSub, extract_whole, bit_getLsbD]; done
  | simp (disch := decide) only [encH, encG, encW, Fld.hd, Fld.gd, ftRnd, scopeSc, extract_append_low, extract_append_high, getLsbD_append_low, getLsbD_append_high, Nat.reduceSub, extract_whole, bit_getLsbD]; first | rfl | (simp; done)

theorem Laws.F.bra (g : Gd) (ck : BitVec 2) (sa : BitVec 10) (off : Imm) : Laws.F.Statement (.bra g ck sa off) := by
  refine ⟨fun c pre f hf hc ho => ?_, fun _ _ h => nomatch (show (none : Option (Slot × Slot)) = some _ from h)⟩
  change some (_, _) = some (_, _) at hf
  obtain ⟨rfl, rfl⟩ := Prod.mk.inj (Option.some.inj hf)
  rw [parse_01 _ _ rfl]
  rw [imm_of_fields off _ _ rfl rfl rfl]
  first
  | done
  | simp (disch := decide) only [encH, encG, encW, Fld.hd, Fld.gd, ftRnd, scopeSc, extract_append_low, extract_append_high, getLsbD_append_low, getLsbD_append_high, Nat.reduceSub, extract_whole, bit_getLsbD]; done
  | simp (disch := decide) only [encH, encG, encW, Fld.hd, Fld.gd, ftRnd, scopeSc, extract_append_low, extract_append_high, getLsbD_append_low, getLsbD_append_high, Nat.reduceSub, extract_whole, bit_getLsbD]; first | rfl | (simp; done)

theorem Laws.F.bri (g : Gd) (uni : Bool) (sb : BitVec 10) : Laws.F.Statement (.bri g uni sb) := by
  refine ⟨fun c pre f hf hc ho => ?_, fun _ _ h => nomatch (show (none : Option (Slot × Slot)) = some _ from h)⟩
  change some (_, _) = some (_, _) at hf
  obtain ⟨rfl, rfl⟩ := Prod.mk.inj (Option.some.inj hf)
  rw [parse_02 _ _ rfl]
  first
  | done
  | simp (disch := decide) only [encH, encG, encW, Fld.hd, Fld.gd, ftRnd, scopeSc, extract_append_low, extract_append_high, getLsbD_append_low, getLsbD_append_high, Nat.reduceSub, extract_whole, bit_getLsbD]; done
  | simp (disch := decide) only [encH, encG, encW, Fld.hd, Fld.gd, ftRnd, scopeSc, extract_append_low, extract_append_high, getLsbD_append_low, getLsbD_append_high, Nat.reduceSub, extract_whole, bit_getLsbD]; cases uni <;> rfl

theorem Laws.F.call (dst : BitVec 10) (sb : Src) : Laws.F.Statement (.call dst sb) := by
  refine ⟨fun c pre f hf hc ho => ?_, fun _ _ h => nomatch (show (none : Option (Slot × Slot)) = some _ from h)⟩
  change some (_, _) = some (_, _) at hf
  obtain ⟨rfl, rfl⟩ := Prod.mk.inj (Option.some.inj hf)
  rw [parse_03 _ _ rfl]
  rw [src_of_fields sb _ _ 0 rfl rfl rfl rfl]
  first
  | done
  | simp (disch := decide) only [encH, encG, encW, Fld.hd, Fld.gd, ftRnd, scopeSc, extract_append_low, extract_append_high, getLsbD_append_low, getLsbD_append_high, Nat.reduceSub, extract_whole, bit_getLsbD]; done
  | simp (disch := decide) only [encH, encG, encW, Fld.hd, Fld.gd, ftRnd, scopeSc, extract_append_low, extract_append_high, getLsbD_append_low, getLsbD_append_high, Nat.reduceSub, extract_whole, bit_getLsbD]; first | rfl | (simp; done)

theorem Laws.F.ret (sa : BitVec 10) : Laws.F.Statement (.ret sa) := by
  refine ⟨fun c pre f hf hc ho => ?_, fun _ _ h => nomatch (show (none : Option (Slot × Slot)) = some _ from h)⟩
  change some (_, _) = some (_, _) at hf
  obtain ⟨rfl, rfl⟩ := Prod.mk.inj (Option.some.inj hf)
  rw [parse_04 _ _ rfl]
  first
  | done
  | simp (disch := decide) only [encH, encG, encW, Fld.hd, Fld.gd, ftRnd, scopeSc, extract_append_low, extract_append_high, getLsbD_append_low, getLsbD_append_high, Nat.reduceSub, extract_whole, bit_getLsbD]; done
  | simp (disch := decide) only [encH, encG, encW, Fld.hd, Fld.gd, ftRnd, scopeSc, extract_append_low, extract_append_high, getLsbD_append_low, getLsbD_append_high, Nat.reduceSub, extract_whole, bit_getLsbD]; first | rfl | (simp; done)

theorem Laws.F.exit (g : Gd) : Laws.F.Statement (.exit g) := by
  refine ⟨fun c pre f hf hc ho => ?_, fun _ _ h => nomatch (show (none : Option (Slot × Slot)) = some _ from h)⟩
  change some (_, _) = some (_, _) at hf
  obtain ⟨rfl, rfl⟩ := Prod.mk.inj (Option.some.inj hf)
  rw [parse_05 _ _ rfl]
  first
  | done
  | simp (disch := decide) only [encH, encG, encW, Fld.hd, Fld.gd, ftRnd, scopeSc, extract_append_low, extract_append_high, getLsbD_append_low, getLsbD_append_high, Nat.reduceSub, extract_whole, bit_getLsbD]; done
  | simp (disch := decide) only [encH, encG, encW, Fld.hd, Fld.gd, ftRnd, scopeSc, extract_append_low, extract_append_high, getLsbD_append_low, getLsbD_append_high, Nat.reduceSub, extract_whole, bit_getLsbD]; first | rfl | (simp; done)

theorem Laws.F.mark (kind : BitVec 2) (off : Imm) : Laws.F.Statement (.mark kind off) := by
  refine ⟨fun c pre f hf hc ho => ?_, fun _ _ h => nomatch (show (none : Option (Slot × Slot)) = some _ from h)⟩
  change some (_, _) = some (_, _) at hf
  obtain ⟨rfl, rfl⟩ := Prod.mk.inj (Option.some.inj hf)
  rw [parse_06 _ _ rfl]
  rw [imm_of_fields off _ _ rfl rfl rfl]
  first
  | done
  | simp (disch := decide) only [encH, encG, encW, Fld.hd, Fld.gd, ftRnd, scopeSc, extract_append_low, extract_append_high, getLsbD_append_low, getLsbD_append_high, Nat.reduceSub, extract_whole, bit_getLsbD]; done
  | simp (disch := decide) only [encH, encG, encW, Fld.hd, Fld.gd, ftRnd, scopeSc, extract_append_low, extract_append_high, getLsbD_append_low, getLsbD_append_high, Nat.reduceSub, extract_whole, bit_getLsbD]; first | rfl | (simp; done)

theorem Laws.F.merge : Laws.F.Statement (.merge) := by
  refine ⟨fun c pre f hf hc ho => ?_, fun _ _ h => nomatch (show (none : Option (Slot × Slot)) = some _ from h)⟩
  change some (_, _) = some (_, _) at hf
  obtain ⟨rfl, rfl⟩ := Prod.mk.inj (Option.some.inj hf)
  rw [parse_07 _ _ rfl]
  first
  | done
  | simp (disch := decide) only [encH, encG, encW, Fld.hd, Fld.gd, ftRnd, scopeSc, extract_append_low, extract_append_high, getLsbD_append_low, getLsbD_append_high, Nat.reduceSub, extract_whole, bit_getLsbD]; done
  | simp (disch := decide) only [encH, encG, encW, Fld.hd, Fld.gd, ftRnd, scopeSc, extract_append_low, extract_append_high, getLsbD_append_low, getLsbD_append_high, Nat.reduceSub, extract_whole, bit_getLsbD]; first | rfl | (simp; done)

theorem Laws.F.brk (g : Gd) : Laws.F.Statement (.brk g) := by
  refine ⟨fun c pre f hf hc ho => ?_, fun _ _ h => nomatch (show (none : Option (Slot × Slot)) = some _ from h)⟩
  change some (_, _) = some (_, _) at hf
  obtain ⟨rfl, rfl⟩ := Prod.mk.inj (Option.some.inj hf)
  rw [parse_08 _ _ rfl]
  first
  | done
  | simp (disch := decide) only [encH, encG, encW, Fld.hd, Fld.gd, ftRnd, scopeSc, extract_append_low, extract_append_high, getLsbD_append_low, getLsbD_append_high, Nat.reduceSub, extract_whole, bit_getLsbD]; done
  | simp (disch := decide) only [encH, encG, encW, Fld.hd, Fld.gd, ftRnd, scopeSc, extract_append_low, extract_append_high, getLsbD_append_low, getLsbD_append_high, Nat.reduceSub, extract_whole, bit_getLsbD]; first | rfl | (simp; done)

theorem Laws.F.cont (g : Gd) : Laws.F.Statement (.cont g) := by
  refine ⟨fun c pre f hf hc ho => ?_, fun _ _ h => nomatch (show (none : Option (Slot × Slot)) = some _ from h)⟩
  change some (_, _) = some (_, _) at hf
  obtain ⟨rfl, rfl⟩ := Prod.mk.inj (Option.some.inj hf)
  rw [parse_09 _ _ rfl]
  first
  | done
  | simp (disch := decide) only [encH, encG, encW, Fld.hd, Fld.gd, ftRnd, scopeSc, extract_append_low, extract_append_high, getLsbD_append_low, getLsbD_append_high, Nat.reduceSub, extract_whole, bit_getLsbD]; done
  | simp (disch := decide) only [encH, encG, encW, Fld.hd, Fld.gd, ftRnd, scopeSc, extract_append_low, extract_append_high, getLsbD_append_low, getLsbD_append_high, Nat.reduceSub, extract_whole, bit_getLsbD]; first | rfl | (simp; done)

theorem Laws.F.regang : Laws.F.Statement (.regang) := by
  refine ⟨fun c pre f hf hc ho => ?_, fun _ _ h => nomatch (show (none : Option (Slot × Slot)) = some _ from h)⟩
  change some (_, _) = some (_, _) at hf
  obtain ⟨rfl, rfl⟩ := Prod.mk.inj (Option.some.inj hf)
  rw [parse_0a _ _ rfl]
  first
  | done
  | simp (disch := decide) only [encH, encG, encW, Fld.hd, Fld.gd, ftRnd, scopeSc, extract_append_low, extract_append_high, getLsbD_append_low, getLsbD_append_high, Nat.reduceSub, extract_whole, bit_getLsbD]; done
  | simp (disch := decide) only [encH, encG, encW, Fld.hd, Fld.gd, ftRnd, scopeSc, extract_append_low, extract_append_high, getLsbD_append_low, getLsbD_append_high, Nat.reduceSub, extract_whole, bit_getLsbD]; first | rfl | (simp; done)

theorem Laws.F.join (g : Gd) (dst : BitVec 10) (sb : Src) : Laws.F.Statement (.join g dst sb) := by
  refine ⟨fun c pre f hf hc ho => ?_, fun _ _ h => nomatch (show (none : Option (Slot × Slot)) = some _ from h)⟩
  change some (_, _) = some (_, _) at hf
  obtain ⟨rfl, rfl⟩ := Prod.mk.inj (Option.some.inj hf)
  rw [parse_0b _ _ rfl]
  rw [src_of_fields sb _ _ 0 rfl rfl rfl rfl]
  first
  | done
  | simp (disch := decide) only [encH, encG, encW, Fld.hd, Fld.gd, ftRnd, scopeSc, extract_append_low, extract_append_high, getLsbD_append_low, getLsbD_append_high, Nat.reduceSub, extract_whole, bit_getLsbD]; done
  | simp (disch := decide) only [encH, encG, encW, Fld.hd, Fld.gd, ftRnd, scopeSc, extract_append_low, extract_append_high, getLsbD_append_low, getLsbD_append_high, Nat.reduceSub, extract_whole, bit_getLsbD]; first | rfl | (simp; done)

theorem Laws.F.leave (g : Gd) (sb : Src) : Laws.F.Statement (.leave g sb) := by
  refine ⟨fun c pre f hf hc ho => ?_, fun _ _ h => nomatch (show (none : Option (Slot × Slot)) = some _ from h)⟩
  change some (_, _) = some (_, _) at hf
  obtain ⟨rfl, rfl⟩ := Prod.mk.inj (Option.some.inj hf)
  rw [parse_0c _ _ rfl]
  rw [src_of_fields sb _ _ 0 rfl rfl rfl rfl]
  first
  | done
  | simp (disch := decide) only [encH, encG, encW, Fld.hd, Fld.gd, ftRnd, scopeSc, extract_append_low, extract_append_high, getLsbD_append_low, getLsbD_append_high, Nat.reduceSub, extract_whole, bit_getLsbD]; done
  | simp (disch := decide) only [encH, encG, encW, Fld.hd, Fld.gd, ftRnd, scopeSc, extract_append_low, extract_append_high, getLsbD_append_low, getLsbD_append_high, Nat.reduceSub, extract_whole, bit_getLsbD]; first | rfl | (simp; done)

theorem Laws.F.bar (g : Gd) (dst : BitVec 10) (sb : Src) (red : Bool) (rop : BitVec 3) (rty : BitVec 2) (sc : BitVec 10) : Laws.F.Statement (.bar g dst sb red rop rty sc) := by
  refine ⟨fun c pre f hf hc ho => ?_, fun _ _ h => nomatch (show (none : Option (Slot × Slot)) = some _ from h)⟩
  change some (_, _) = some (_, _) at hf
  obtain ⟨rfl, rfl⟩ := Prod.mk.inj (Option.some.inj hf)
  rw [parse_0d _ _ rfl]
  have ho : (gOk c g && sI c sb && (if red then notImm sb && vGrp c dst 1 && vGrp c sc 1 else dst == 0 && rop == 0 && rty == 0 && sc == 0)) = true := ho
  have hs : notImm sb = true ∨ sc = 0 := by cases red <;> simp_all
  rw [src_of_fields sb _ _ sc rfl rfl rfl rfl, scOf_of_fields sb _ sc rfl rfl hs]
  first
  | done
  | simp (disch := decide) only [encH, encG, encW, Fld.hd, Fld.gd, ftRnd, scopeSc, extract_append_low, extract_append_high, getLsbD_append_low, getLsbD_append_high, Nat.reduceSub, extract_whole, bit_getLsbD]; done
  | simp (disch := decide) only [encH, encG, encW, Fld.hd, Fld.gd, ftRnd, scopeSc, extract_append_low, extract_append_high, getLsbD_append_low, getLsbD_append_high, Nat.reduceSub, extract_whole, bit_getLsbD]; first | rfl | (simp; done)

theorem Laws.F.elect (g : Gd) (dst : BitVec 10) : Laws.F.Statement (.elect g dst) := by
  refine ⟨fun c pre f hf hc ho => ?_, fun _ _ h => nomatch (show (none : Option (Slot × Slot)) = some _ from h)⟩
  change some (_, _) = some (_, _) at hf
  obtain ⟨rfl, rfl⟩ := Prod.mk.inj (Option.some.inj hf)
  rw [parse_0e _ _ rfl]
  first
  | done
  | simp (disch := decide) only [encH, encG, encW, Fld.hd, Fld.gd, ftRnd, scopeSc, extract_append_low, extract_append_high, getLsbD_append_low, getLsbD_append_high, Nat.reduceSub, extract_whole, bit_getLsbD]; done
  | simp (disch := decide) only [encH, encG, encW, Fld.hd, Fld.gd, ftRnd, scopeSc, extract_append_low, extract_append_high, getLsbD_append_low, getLsbD_append_high, Nat.reduceSub, extract_whole, bit_getLsbD]; first | rfl | (simp; done)

theorem Laws.F.trapUser (g : Gd) (imm : Imm) : Laws.F.Statement (.trapUser g imm) := by
  refine ⟨fun c pre f hf hc ho => ?_, fun _ _ h => nomatch (show (none : Option (Slot × Slot)) = some _ from h)⟩
  change some (_, _) = some (_, _) at hf
  obtain ⟨rfl, rfl⟩ := Prod.mk.inj (Option.some.inj hf)
  rw [parse_0f _ _ rfl]
  rw [imm_of_fields imm _ _ rfl rfl rfl]
  first
  | done
  | simp (disch := decide) only [encH, encG, encW, Fld.hd, Fld.gd, ftRnd, scopeSc, extract_append_low, extract_append_high, getLsbD_append_low, getLsbD_append_high, Nat.reduceSub, extract_whole, bit_getLsbD]; done
  | simp (disch := decide) only [encH, encG, encW, Fld.hd, Fld.gd, ftRnd, scopeSc, extract_append_low, extract_append_high, getLsbD_append_low, getLsbD_append_high, Nat.reduceSub, extract_whole, bit_getLsbD]; first | rfl | (simp; done)

theorem Laws.F.trapBkpt (g : Gd) (imm : Imm) : Laws.F.Statement (.trapBkpt g imm) := by
  refine ⟨fun c pre f hf hc ho => ?_, fun _ _ h => nomatch (show (none : Option (Slot × Slot)) = some _ from h)⟩
  change some (_, _) = some (_, _) at hf
  obtain ⟨rfl, rfl⟩ := Prod.mk.inj (Option.some.inj hf)
  rw [parse_0f _ _ rfl]
  rw [imm_of_fields imm _ _ rfl rfl rfl]
  first
  | done
  | simp (disch := decide) only [encH, encG, encW, Fld.hd, Fld.gd, ftRnd, scopeSc, extract_append_low, extract_append_high, getLsbD_append_low, getLsbD_append_high, Nat.reduceSub, extract_whole, bit_getLsbD]; done
  | simp (disch := decide) only [encH, encG, encW, Fld.hd, Fld.gd, ftRnd, scopeSc, extract_append_low, extract_append_high, getLsbD_append_low, getLsbD_append_high, Nat.reduceSub, extract_whole, bit_getLsbD]; first | rfl | (simp; done)

theorem Laws.F.rett (sa : BitVec 10) (skip : Bool) : Laws.F.Statement (.rett sa skip) := by
  refine ⟨fun c pre f hf hc ho => ?_, fun _ _ h => nomatch (show (none : Option (Slot × Slot)) = some _ from h)⟩
  change some (_, _) = some (_, _) at hf
  obtain ⟨rfl, rfl⟩ := Prod.mk.inj (Option.some.inj hf)
  rw [parse_10 _ _ rfl]
  first
  | done
  | simp (disch := decide) only [encH, encG, encW, Fld.hd, Fld.gd, ftRnd, scopeSc, extract_append_low, extract_append_high, getLsbD_append_low, getLsbD_append_high, Nat.reduceSub, extract_whole, bit_getLsbD]; done
  | simp (disch := decide) only [encH, encG, encW, Fld.hd, Fld.gd, ftRnd, scopeSc, extract_append_low, extract_append_high, getLsbD_append_low, getLsbD_append_high, Nat.reduceSub, extract_whole, bit_getLsbD]; first | rfl | (simp; done)

theorem Laws.F.svc (g : Gd) (dst : BitVec 10) (sa : BitVec 10) (sb : Src) (sc : BitVec 10) : Laws.F.Statement (.svc g dst sa sb sc) := by
  refine ⟨fun c pre f hf hc ho => ?_, fun _ _ h => nomatch (show (none : Option (Slot × Slot)) = some _ from h)⟩
  change some (_, _) = some (_, _) at hf
  obtain ⟨rfl, rfl⟩ := Prod.mk.inj (Option.some.inj hf)
  rw [parse_11 _ _ rfl]
  have ho : (gOk c g && r6 dst && rM c sa 2 && notImm sb && sI c sb && r6 sc) = true := ho
  have hs : notImm sb = true ∨ sc = 0 := by cases sb <;> simp_all [notImm]
  rw [src_of_fields sb _ _ sc rfl rfl rfl rfl, scOf_of_fields sb _ sc rfl rfl hs]
  first
  | done
  | simp (disch := decide) only [encH, encG, encW, Fld.hd, Fld.gd, ftRnd, scopeSc, extract_append_low, extract_append_high, getLsbD_append_low, getLsbD_append_high, Nat.reduceSub, extract_whole, bit_getLsbD]; done
  | simp (disch := decide) only [encH, encG, encW, Fld.hd, Fld.gd, ftRnd, scopeSc, extract_append_low, extract_append_high, getLsbD_append_low, getLsbD_append_high, Nat.reduceSub, extract_whole, bit_getLsbD]; first | rfl | (simp; done)

theorem Laws.F.spawn (dst : BitVec 10) (sa : BitVec 10) (sb : Src) : Laws.F.Statement (.spawn dst sa sb) := by
  refine ⟨fun c pre f hf hc ho => ?_, fun _ _ h => nomatch (show (none : Option (Slot × Slot)) = some _ from h)⟩
  change some (_, _) = some (_, _) at hf
  obtain ⟨rfl, rfl⟩ := Prod.mk.inj (Option.some.inj hf)
  rw [parse_12 _ _ rfl]
  rw [src_of_fields sb _ _ 0 rfl rfl rfl rfl]
  first
  | done
  | simp (disch := decide) only [encH, encG, encW, Fld.hd, Fld.gd, ftRnd, scopeSc, extract_append_low, extract_append_high, getLsbD_append_low, getLsbD_append_high, Nat.reduceSub, extract_whole, bit_getLsbD]; done
  | simp (disch := decide) only [encH, encG, encW, Fld.hd, Fld.gd, ftRnd, scopeSc, extract_append_low, extract_append_high, getLsbD_append_low, getLsbD_append_high, Nat.reduceSub, extract_whole, bit_getLsbD]; first | rfl | (simp; done)

theorem Laws.F.mwatch (sa : BitVec 10) : Laws.F.Statement (.mwatch sa) := by
  refine ⟨fun c pre f hf hc ho => ?_, fun _ _ h => nomatch (show (none : Option (Slot × Slot)) = some _ from h)⟩
  change some (_, _) = some (_, _) at hf
  obtain ⟨rfl, rfl⟩ := Prod.mk.inj (Option.some.inj hf)
  rw [parse_13 _ _ rfl]
  first
  | done
  | simp (disch := decide) only [encH, encG, encW, Fld.hd, Fld.gd, ftRnd, scopeSc, extract_append_low, extract_append_high, getLsbD_append_low, getLsbD_append_high, Nat.reduceSub, extract_whole, bit_getLsbD]; done
  | simp (disch := decide) only [encH, encG, encW, Fld.hd, Fld.gd, ftRnd, scopeSc, extract_append_low, extract_append_high, getLsbD_append_low, getLsbD_append_high, Nat.reduceSub, extract_whole, bit_getLsbD]; first | rfl | (simp; done)

theorem Laws.F.msleep (dst : BitVec 10) (sb : Src) : Laws.F.Statement (.msleep dst sb) := by
  refine ⟨fun c pre f hf hc ho => ?_, fun _ _ h => nomatch (show (none : Option (Slot × Slot)) = some _ from h)⟩
  change some (_, _) = some (_, _) at hf
  obtain ⟨rfl, rfl⟩ := Prod.mk.inj (Option.some.inj hf)
  rw [parse_14 _ _ rfl]
  rw [src_of_fields sb _ _ 0 rfl rfl rfl rfl]
  first
  | done
  | simp (disch := decide) only [encH, encG, encW, Fld.hd, Fld.gd, ftRnd, scopeSc, extract_append_low, extract_append_high, getLsbD_append_low, getLsbD_append_high, Nat.reduceSub, extract_whole, bit_getLsbD]; done
  | simp (disch := decide) only [encH, encG, encW, Fld.hd, Fld.gd, ftRnd, scopeSc, extract_append_low, extract_append_high, getLsbD_append_low, getLsbD_append_high, Nat.reduceSub, extract_whole, bit_getLsbD]; first | rfl | (simp; done)

theorem Laws.F.pause (sb : Src) : Laws.F.Statement (.pause sb) := by
  refine ⟨fun c pre f hf hc ho => ?_, fun _ _ h => nomatch (show (none : Option (Slot × Slot)) = some _ from h)⟩
  change some (_, _) = some (_, _) at hf
  obtain ⟨rfl, rfl⟩ := Prod.mk.inj (Option.some.inj hf)
  rw [parse_15 _ _ rfl]
  rw [src_of_fields sb _ _ 0 rfl rfl rfl rfl]
  first
  | done
  | simp (disch := decide) only [encH, encG, encW, Fld.hd, Fld.gd, ftRnd, scopeSc, extract_append_low, extract_append_high, getLsbD_append_low, getLsbD_append_high, Nat.reduceSub, extract_whole, bit_getLsbD]; done
  | simp (disch := decide) only [encH, encG, encW, Fld.hd, Fld.gd, ftRnd, scopeSc, extract_append_low, extract_append_high, getLsbD_append_low, getLsbD_append_high, Nat.reduceSub, extract_whole, bit_getLsbD]; first | rfl | (simp; done)

theorem Laws.F.csrr (dst : BitVec 10) (num : Imm) : Laws.F.Statement (.csrr dst num) := by
  refine ⟨fun c pre f hf hc ho => ?_, fun _ _ h => nomatch (show (none : Option (Slot × Slot)) = some _ from h)⟩
  change some (_, _) = some (_, _) at hf
  obtain ⟨rfl, rfl⟩ := Prod.mk.inj (Option.some.inj hf)
  rw [parse_16 _ _ rfl]
  rw [imm_of_fields num _ _ rfl rfl rfl]
  first
  | done
  | simp (disch := decide) only [encH, encG, encW, Fld.hd, Fld.gd, ftRnd, scopeSc, extract_append_low, extract_append_high, getLsbD_append_low, getLsbD_append_high, Nat.reduceSub, extract_whole, bit_getLsbD]; done
  | simp (disch := decide) only [encH, encG, encW, Fld.hd, Fld.gd, ftRnd, scopeSc, extract_append_low, extract_append_high, getLsbD_append_low, getLsbD_append_high, Nat.reduceSub, extract_whole, bit_getLsbD]; first | rfl | (simp; done)

theorem Laws.F.csrw (sa : BitVec 10) (num : Imm) : Laws.F.Statement (.csrw sa num) := by
  refine ⟨fun c pre f hf hc ho => ?_, fun _ _ h => nomatch (show (none : Option (Slot × Slot)) = some _ from h)⟩
  change some (_, _) = some (_, _) at hf
  obtain ⟨rfl, rfl⟩ := Prod.mk.inj (Option.some.inj hf)
  rw [parse_17 _ _ rfl]
  rw [imm_of_fields num _ _ rfl rfl rfl]
  first
  | done
  | simp (disch := decide) only [encH, encG, encW, Fld.hd, Fld.gd, ftRnd, scopeSc, extract_append_low, extract_append_high, getLsbD_append_low, getLsbD_append_high, Nat.reduceSub, extract_whole, bit_getLsbD]; done
  | simp (disch := decide) only [encH, encG, encW, Fld.hd, Fld.gd, ftRnd, scopeSc, extract_append_low, extract_append_high, getLsbD_append_low, getLsbD_append_high, Nat.reduceSub, extract_whole, bit_getLsbD]; first | rfl | (simp; done)

theorem Laws.F.nw (dst : BitVec 10) (sa : BitVec 10) (sb : Src) (w : Bool) (vs : Bool) : Laws.F.Statement (.nw dst sa sb w vs) := by
  refine ⟨fun c pre f hf hc ho => ?_, fun _ _ h => nomatch (show (none : Option (Slot × Slot)) = some _ from h)⟩
  change some (_, _) = some (_, _) at hf
  obtain ⟨rfl, rfl⟩ := Prod.mk.inj (Option.some.inj hf)
  rw [parse_18 _ _ rfl]
  rw [src_of_fields sb _ _ 0 rfl rfl rfl rfl]
  first
  | done
  | simp (disch := decide) only [encH, encG, encW, Fld.hd, Fld.gd, ftRnd, scopeSc, extract_append_low, extract_append_high, getLsbD_append_low, getLsbD_append_high, Nat.reduceSub, extract_whole, bit_getLsbD]; done
  | simp (disch := decide) only [encH, encG, encW, Fld.hd, Fld.gd, ftRnd, scopeSc, extract_append_low, extract_append_high, getLsbD_append_low, getLsbD_append_high, Nat.reduceSub, extract_whole, bit_getLsbD]; first | rfl | (simp; done)

theorem Laws.F.nrPeek (dst : BitVec 10) (sa : BitVec 10) : Laws.F.Statement (.nrPeek dst sa) := by
  refine ⟨fun c pre f hf hc ho => ?_, fun _ _ h => nomatch (show (none : Option (Slot × Slot)) = some _ from h)⟩
  change some (_, _) = some (_, _) at hf
  obtain ⟨rfl, rfl⟩ := Prod.mk.inj (Option.some.inj hf)
  rw [parse_19 _ _ rfl]
  first
  | done
  | simp (disch := decide) only [encH, encG, encW, Fld.hd, Fld.gd, ftRnd, scopeSc, extract_append_low, extract_append_high, getLsbD_append_low, getLsbD_append_high, Nat.reduceSub, extract_whole, bit_getLsbD]; done
  | simp (disch := decide) only [encH, encG, encW, Fld.hd, Fld.gd, ftRnd, scopeSc, extract_append_low, extract_append_high, getLsbD_append_low, getLsbD_append_high, Nat.reduceSub, extract_whole, bit_getLsbD]; first | rfl | (simp; done)

theorem Laws.F.nrTake (dst : BitVec 10) (sa : BitVec 10) : Laws.F.Statement (.nrTake dst sa) := by
  refine ⟨fun c pre f hf hc ho => ?_, fun _ _ h => nomatch (show (none : Option (Slot × Slot)) = some _ from h)⟩
  change some (_, _) = some (_, _) at hf
  obtain ⟨rfl, rfl⟩ := Prod.mk.inj (Option.some.inj hf)
  rw [parse_19 _ _ rfl]
  first
  | done
  | simp (disch := decide) only [encH, encG, encW, Fld.hd, Fld.gd, ftRnd, scopeSc, extract_append_low, extract_append_high, getLsbD_append_low, getLsbD_append_high, Nat.reduceSub, extract_whole, bit_getLsbD]; done
  | simp (disch := decide) only [encH, encG, encW, Fld.hd, Fld.gd, ftRnd, scopeSc, extract_append_low, extract_append_high, getLsbD_append_low, getLsbD_append_high, Nat.reduceSub, extract_whole, bit_getLsbD]; first | rfl | (simp; done)

theorem Laws.F.nred (g : Gd) (dst : BitVec 10) (sa : BitVec 10) (gop : BitVec 3) (gty : BitVec 3) : Laws.F.Statement (.nred g dst sa gop gty) := by
  refine ⟨fun c pre f hf hc ho => ?_, fun _ _ h => nomatch (show (none : Option (Slot × Slot)) = some _ from h)⟩
  change some (_, _) = some (_, _) at hf
  obtain ⟨rfl, rfl⟩ := Prod.mk.inj (Option.some.inj hf)
  rw [parse_1a _ _ rfl]
  first
  | done
  | simp (disch := decide) only [encH, encG, encW, Fld.hd, Fld.gd, ftRnd, scopeSc, extract_append_low, extract_append_high, getLsbD_append_low, getLsbD_append_high, Nat.reduceSub, extract_whole, bit_getLsbD]; done
  | simp (disch := decide) only [encH, encG, encW, Fld.hd, Fld.gd, ftRnd, scopeSc, extract_append_low, extract_append_high, getLsbD_append_low, getLsbD_append_high, Nat.reduceSub, extract_whole, bit_getLsbD]; first | rfl | (simp; done)

theorem Laws.F.nctlGather (dst : BitVec 10) (sb : Src) (gop : BitVec 3) (gty : BitVec 3) : Laws.F.Statement (.nctlGather dst sb gop gty) := by
  refine ⟨fun c pre f hf hc ho => ?_, fun _ _ h => nomatch (show (none : Option (Slot × Slot)) = some _ from h)⟩
  change some (_, _) = some (_, _) at hf
  obtain ⟨rfl, rfl⟩ := Prod.mk.inj (Option.some.inj hf)
  rw [parse_1b _ _ rfl]
  rw [src_of_fields sb _ _ 0 rfl rfl rfl rfl]
  have hd : (gty.toNat < 5 && redOk gop.toNat (gty == 4)) = true := hc
  have ⟨h2, h1⟩ : gty.toNat < 5 ∧ gop.toNat < 6 := by
    simp [redOk] at hd; omega
  first
  | done
  | simp (disch := decide) only [encH, encG, encW, Fld.hd, Fld.gd, ftRnd, scopeSc, extract_append_low, extract_append_high, getLsbD_append_low, getLsbD_append_high, Nat.reduceSub, extract_whole, bit_getLsbD]; done
  | simp (disch := decide) only [encH, encG, encW, Fld.hd, Fld.gd, ftRnd, scopeSc, extract_append_low, extract_append_high, getLsbD_append_low, getLsbD_append_high, Nat.reduceSub, extract_whole, bit_getLsbD]; simp [Nat.not_le.2 h1, Nat.not_le.2 h2]

theorem Laws.F.nctlBcast (dst : BitVec 10) (sb : Src) : Laws.F.Statement (.nctlBcast dst sb) := by
  refine ⟨fun c pre f hf hc ho => ?_, fun _ _ h => nomatch (show (none : Option (Slot × Slot)) = some _ from h)⟩
  change some (_, _) = some (_, _) at hf
  obtain ⟨rfl, rfl⟩ := Prod.mk.inj (Option.some.inj hf)
  rw [parse_1b _ _ rfl]
  rw [src_of_fields sb _ _ 0 rfl rfl rfl rfl]
  first
  | done
  | simp (disch := decide) only [encH, encG, encW, Fld.hd, Fld.gd, ftRnd, scopeSc, extract_append_low, extract_append_high, getLsbD_append_low, getLsbD_append_high, Nat.reduceSub, extract_whole, bit_getLsbD]; done
  | simp (disch := decide) only [encH, encG, encW, Fld.hd, Fld.gd, ftRnd, scopeSc, extract_append_low, extract_append_high, getLsbD_append_low, getLsbD_append_high, Nat.reduceSub, extract_whole, bit_getLsbD]; first | rfl | (simp; done)

theorem Laws.F.nctlEmpty (dst : BitVec 10) (sb : Src) : Laws.F.Statement (.nctlEmpty dst sb) := by
  refine ⟨fun c pre f hf hc ho => ?_, fun _ _ h => nomatch (show (none : Option (Slot × Slot)) = some _ from h)⟩
  change some (_, _) = some (_, _) at hf
  obtain ⟨rfl, rfl⟩ := Prod.mk.inj (Option.some.inj hf)
  rw [parse_1b _ _ rfl]
  rw [src_of_fields sb _ _ 0 rfl rfl rfl rfl]
  first
  | done
  | simp (disch := decide) only [encH, encG, encW, Fld.hd, Fld.gd, ftRnd, scopeSc, extract_append_low, extract_append_high, getLsbD_append_low, getLsbD_append_high, Nat.reduceSub, extract_whole, bit_getLsbD]; done
  | simp (disch := decide) only [encH, encG, encW, Fld.hd, Fld.gd, ftRnd, scopeSc, extract_append_low, extract_append_high, getLsbD_append_low, getLsbD_append_high, Nat.reduceSub, extract_whole, bit_getLsbD]; first | rfl | (simp; done)

theorem Laws.F.hsr (dst : BitVec 10) (sb : Src) : Laws.F.Statement (.hsr dst sb) := by
  refine ⟨fun c pre f hf hc ho => ?_, fun _ _ h => nomatch (show (none : Option (Slot × Slot)) = some _ from h)⟩
  change some (_, _) = some (_, _) at hf
  obtain ⟨rfl, rfl⟩ := Prod.mk.inj (Option.some.inj hf)
  rw [parse_1c _ _ rfl]
  rw [src_of_fields sb _ _ 0 rfl rfl rfl rfl]
  first
  | done
  | simp (disch := decide) only [encH, encG, encW, Fld.hd, Fld.gd, ftRnd, scopeSc, extract_append_low, extract_append_high, getLsbD_append_low, getLsbD_append_high, Nat.reduceSub, extract_whole, bit_getLsbD]; done
  | simp (disch := decide) only [encH, encG, encW, Fld.hd, Fld.gd, ftRnd, scopeSc, extract_append_low, extract_append_high, getLsbD_append_low, getLsbD_append_high, Nat.reduceSub, extract_whole, bit_getLsbD]; first | rfl | (simp; done)

theorem Laws.F.hsw (sa : BitVec 10) (sb : Src) : Laws.F.Statement (.hsw sa sb) := by
  refine ⟨fun c pre f hf hc ho => ?_, fun _ _ h => nomatch (show (none : Option (Slot × Slot)) = some _ from h)⟩
  change some (_, _) = some (_, _) at hf
  obtain ⟨rfl, rfl⟩ := Prod.mk.inj (Option.some.inj hf)
  rw [parse_1d _ _ rfl]
  rw [src_of_fields sb _ _ 0 rfl rfl rfl rfl]
  first
  | done
  | simp (disch := decide) only [encH, encG, encW, Fld.hd, Fld.gd, ftRnd, scopeSc, extract_append_low, extract_append_high, getLsbD_append_low, getLsbD_append_high, Nat.reduceSub, extract_whole, bit_getLsbD]; done
  | simp (disch := decide) only [encH, encG, encW, Fld.hd, Fld.gd, ftRnd, scopeSc, extract_append_low, extract_append_high, getLsbD_append_low, getLsbD_append_high, Nat.reduceSub, extract_whole, bit_getLsbD]; first | rfl | (simp; done)

theorem Laws.F.iadd (h : Hd) (dst : BitVec 10) (sa : BitVec 10) (sb : Src) (it : BitVec 2) (cy : BitVec 2) (cp : BitVec 3) : Laws.F.Statement (.iadd h dst sa sb it cy cp) := by
  refine ⟨fun c pre f hf hc ho => ?_, fun _ _ h => nomatch (show (none : Option (Slot × Slot)) = some _ from h)⟩
  change some (_, _) = some (_, _) at hf
  obtain ⟨rfl, rfl⟩ := Prod.mk.inj (Option.some.inj hf)
  rw [parse_20 _ _ rfl]
  rw [src_of_fields sb _ _ 0 rfl rfl rfl rfl]
  first
  | done
  | simp (disch := decide) only [encH, encG, encW, Fld.hd, Fld.gd, ftRnd, scopeSc, extract_append_low, extract_append_high, getLsbD_append_low, getLsbD_append_high, Nat.reduceSub, extract_whole, bit_getLsbD]; done
  | simp (disch := decide) only [encH, encG, encW, Fld.hd, Fld.gd, ftRnd, scopeSc, extract_append_low, extract_append_high, getLsbD_append_low, getLsbD_append_high, Nat.reduceSub, extract_whole, bit_getLsbD]; first | rfl | (simp; done)

theorem Laws.F.isub (h : Hd) (dst : BitVec 10) (sa : BitVec 10) (sb : Src) (it : BitVec 2) (cy : BitVec 2) (cp : BitVec 3) : Laws.F.Statement (.isub h dst sa sb it cy cp) := by
  refine ⟨fun c pre f hf hc ho => ?_, fun _ _ h => nomatch (show (none : Option (Slot × Slot)) = some _ from h)⟩
  change some (_, _) = some (_, _) at hf
  obtain ⟨rfl, rfl⟩ := Prod.mk.inj (Option.some.inj hf)
  rw [parse_21 _ _ rfl]
  rw [src_of_fields sb _ _ 0 rfl rfl rfl rfl]
  first
  | done
  | simp (disch := decide) only [encH, encG, encW, Fld.hd, Fld.gd, ftRnd, scopeSc, extract_append_low, extract_append_high, getLsbD_append_low, getLsbD_append_high, Nat.reduceSub, extract_whole, bit_getLsbD]; done
  | simp (disch := decide) only [encH, encG, encW, Fld.hd, Fld.gd, ftRnd, scopeSc, extract_append_low, extract_append_high, getLsbD_append_low, getLsbD_append_high, Nat.reduceSub, extract_whole, bit_getLsbD]; first | rfl | (simp; done)

theorem Laws.F.imul (h : Hd) (dst : BitVec 10) (sa : BitVec 10) (sb : Src) (it : BitVec 2) (hw : BitVec 2) : Laws.F.Statement (.imul h dst sa sb it hw) := by
  refine ⟨fun c pre f hf hc ho => ?_, fun _ _ h => nomatch (show (none : Option (Slot × Slot)) = some _ from h)⟩
  change some (_, _) = some (_, _) at hf
  obtain ⟨rfl, rfl⟩ := Prod.mk.inj (Option.some.inj hf)
  rw [parse_22 _ _ rfl]
  rw [src_of_fields sb _ _ 0 rfl rfl rfl rfl]
  first
  | done
  | simp (disch := decide) only [encH, encG, encW, Fld.hd, Fld.gd, ftRnd, scopeSc, extract_append_low, extract_append_high, getLsbD_append_low, getLsbD_append_high, Nat.reduceSub, extract_whole, bit_getLsbD]; done
  | simp (disch := decide) only [encH, encG, encW, Fld.hd, Fld.gd, ftRnd, scopeSc, extract_append_low, extract_append_high, getLsbD_append_low, getLsbD_append_high, Nat.reduceSub, extract_whole, bit_getLsbD]; first | rfl | (simp; done)

theorem Laws.F.imad (h : Hd) (dst : BitVec 10) (sa : BitVec 10) (sb : Src) (sc : BitVec 10) (it : BitVec 2) (hw : BitVec 2) : Laws.F.Statement (.imad h dst sa sb sc it hw) := by
  refine ⟨fun c pre f hf hc ho => ?_, fun _ _ h => nomatch (show (none : Option (Slot × Slot)) = some _ from h)⟩
  change some (_, _) = some (_, _) at hf
  obtain ⟨rfl, rfl⟩ := Prod.mk.inj (Option.some.inj hf)
  rw [parse_23 _ _ rfl]
  have ho : (hOk c h && rH c h dst (if hw == 2 then 2 else 1) && rH c h sa && sH c h sb && notImm sb && rH c h sc (if hw == 2 then 2 else 1)) = true := ho
  have hs : notImm sb = true := by cases sb <;> simp_all [notImm]
  have hq := sc_of_notImm sb sc hs
  rw [src_of_fields sb _ _ sc rfl rfl rfl rfl]
  first
  | done
  | simp (disch := decide) only [encH, encG, encW, Fld.hd, Fld.gd, ftRnd, scopeSc, extract_append_low, extract_append_high, getLsbD_append_low, getLsbD_append_high, Nat.reduceSub, extract_whole, bit_getLsbD]; done
  | simp (disch := decide) only [encH, encG, encW, Fld.hd, Fld.gd, ftRnd, scopeSc, extract_append_low, extract_append_high, getLsbD_append_low, getLsbD_append_high, Nat.reduceSub, extract_whole, bit_getLsbD]; first | (rw [hq]; done) | (simp [hq]; done)

theorem Laws.F.idiv (h : Hd) (dst : BitVec 10) (sa : BitVec 10) (sb : Src) (it : BitVec 2) (rem : Bool) : Laws.F.Statement (.idiv h dst sa sb it rem) := by
  refine ⟨fun c pre f hf hc ho => ?_, fun _ _ h => nomatch (show (none : Option (Slot × Slot)) = some _ from h)⟩
  change some (_, _) = some (_, _) at hf
  obtain ⟨rfl, rfl⟩ := Prod.mk.inj (Option.some.inj hf)
  rw [parse_24 _ _ rfl]
  rw [src_of_fields sb _ _ 0 rfl rfl rfl rfl]
  first
  | done
  | simp (disch := decide) only [encH, encG, encW, Fld.hd, Fld.gd, ftRnd, scopeSc, extract_append_low, extract_append_high, getLsbD_append_low, getLsbD_append_high, Nat.reduceSub, extract_whole, bit_getLsbD]; done
  | simp (disch := decide) only [encH, encG, encW, Fld.hd, Fld.gd, ftRnd, scopeSc, extract_append_low, extract_append_high, getLsbD_append_low, getLsbD_append_high, Nat.reduceSub, extract_whole, bit_getLsbD]; first | rfl | (simp; done)

theorem Laws.F.imin (h : Hd) (dst : BitVec 10) (sa : BitVec 10) (sb : Src) (it : BitVec 2) : Laws.F.Statement (.imin h dst sa sb it) := by
  refine ⟨fun c pre f hf hc ho => ?_, fun _ _ h => nomatch (show (none : Option (Slot × Slot)) = some _ from h)⟩
  change some (_, _) = some (_, _) at hf
  obtain ⟨rfl, rfl⟩ := Prod.mk.inj (Option.some.inj hf)
  rw [parse_25 _ _ rfl]
  rw [src_of_fields sb _ _ 0 rfl rfl rfl rfl]
  first
  | done
  | simp (disch := decide) only [encH, encG, encW, Fld.hd, Fld.gd, ftRnd, scopeSc, extract_append_low, extract_append_high, getLsbD_append_low, getLsbD_append_high, Nat.reduceSub, extract_whole, bit_getLsbD]; done
  | simp (disch := decide) only [encH, encG, encW, Fld.hd, Fld.gd, ftRnd, scopeSc, extract_append_low, extract_append_high, getLsbD_append_low, getLsbD_append_high, Nat.reduceSub, extract_whole, bit_getLsbD]; first | rfl | (simp; done)

theorem Laws.F.imax (h : Hd) (dst : BitVec 10) (sa : BitVec 10) (sb : Src) (it : BitVec 2) : Laws.F.Statement (.imax h dst sa sb it) := by
  refine ⟨fun c pre f hf hc ho => ?_, fun _ _ h => nomatch (show (none : Option (Slot × Slot)) = some _ from h)⟩
  change some (_, _) = some (_, _) at hf
  obtain ⟨rfl, rfl⟩ := Prod.mk.inj (Option.some.inj hf)
  rw [parse_26 _ _ rfl]
  rw [src_of_fields sb _ _ 0 rfl rfl rfl rfl]
  first
  | done
  | simp (disch := decide) only [encH, encG, encW, Fld.hd, Fld.gd, ftRnd, scopeSc, extract_append_low, extract_append_high, getLsbD_append_low, getLsbD_append_high, Nat.reduceSub, extract_whole, bit_getLsbD]; done
  | simp (disch := decide) only [encH, encG, encW, Fld.hd, Fld.gd, ftRnd, scopeSc, extract_append_low, extract_append_high, getLsbD_append_low, getLsbD_append_high, Nat.reduceSub, extract_whole, bit_getLsbD]; first | rfl | (simp; done)

theorem Laws.F.iabs (h : Hd) (dst : BitVec 10) (sa : BitVec 10) (it : BitVec 2) (sat : Bool) : Laws.F.Statement (.iabs h dst sa it sat) := by
  refine ⟨fun c pre f hf hc ho => ?_, fun _ _ h => nomatch (show (none : Option (Slot × Slot)) = some _ from h)⟩
  change some (_, _) = some (_, _) at hf
  obtain ⟨rfl, rfl⟩ := Prod.mk.inj (Option.some.inj hf)
  rw [parse_27 _ _ rfl]
  first
  | done
  | simp (disch := decide) only [encH, encG, encW, Fld.hd, Fld.gd, ftRnd, scopeSc, extract_append_low, extract_append_high, getLsbD_append_low, getLsbD_append_high, Nat.reduceSub, extract_whole, bit_getLsbD]; done
  | simp (disch := decide) only [encH, encG, encW, Fld.hd, Fld.gd, ftRnd, scopeSc, extract_append_low, extract_append_high, getLsbD_append_low, getLsbD_append_high, Nat.reduceSub, extract_whole, bit_getLsbD]; first | rfl | (simp; done)

theorem Laws.F.ineg (h : Hd) (dst : BitVec 10) (sa : BitVec 10) (it : BitVec 2) (sat : Bool) : Laws.F.Statement (.ineg h dst sa it sat) := by
  refine ⟨fun c pre f hf hc ho => ?_, fun _ _ h => nomatch (show (none : Option (Slot × Slot)) = some _ from h)⟩
  change some (_, _) = some (_, _) at hf
  obtain ⟨rfl, rfl⟩ := Prod.mk.inj (Option.some.inj hf)
  rw [parse_28 _ _ rfl]
  first
  | done
  | simp (disch := decide) only [encH, encG, encW, Fld.hd, Fld.gd, ftRnd, scopeSc, extract_append_low, extract_append_high, getLsbD_append_low, getLsbD_append_high, Nat.reduceSub, extract_whole, bit_getLsbD]; done
  | simp (disch := decide) only [encH, encG, encW, Fld.hd, Fld.gd, ftRnd, scopeSc, extract_append_low, extract_append_high, getLsbD_append_low, getLsbD_append_high, Nat.reduceSub, extract_whole, bit_getLsbD]; first | rfl | (simp; done)

theorem Laws.F.icmp (h : Hd) (dst : BitVec 10) (sa : BitVec 10) (sb : Src) (it : BitVec 2) (cmp : BitVec 3) : Laws.F.Statement (.icmp h dst sa sb it cmp) := by
  refine ⟨fun c pre f hf hc ho => ?_, fun _ _ h => nomatch (show (none : Option (Slot × Slot)) = some _ from h)⟩
  change some (_, _) = some (_, _) at hf
  obtain ⟨rfl, rfl⟩ := Prod.mk.inj (Option.some.inj hf)
  rw [parse_29 _ _ rfl]
  rw [src_of_fields sb _ _ 0 rfl rfl rfl rfl]
  first
  | done
  | simp (disch := decide) only [encH, encG, encW, Fld.hd, Fld.gd, ftRnd, scopeSc, extract_append_low, extract_append_high, getLsbD_append_low, getLsbD_append_high, Nat.reduceSub, extract_whole, bit_getLsbD]; done
  | simp (disch := decide) only [encH, encG, encW, Fld.hd, Fld.gd, ftRnd, scopeSc, extract_append_low, extract_append_high, getLsbD_append_low, getLsbD_append_high, Nat.reduceSub, extract_whole, bit_getLsbD]; first | rfl | (simp; done)

theorem Laws.F.idp4 (h : Hd) (dst : BitVec 10) (sa : BitVec 10) (sb : Src) (sc : BitVec 10) (pk : BitVec 2) (sat : Bool) : Laws.F.Statement (.idp4 h dst sa sb sc pk sat) := by
  refine ⟨fun c pre f hf hc ho => ?_, fun _ _ h => nomatch (show (none : Option (Slot × Slot)) = some _ from h)⟩
  change some (_, _) = some (_, _) at hf
  obtain ⟨rfl, rfl⟩ := Prod.mk.inj (Option.some.inj hf)
  rw [parse_2a _ _ rfl]
  have ho : (hOk c h && rH c h dst && rH c h sa && sH c h sb && notImm sb && rH c h sc) = true := ho
  have hs : notImm sb = true := by cases sb <;> simp_all [notImm]
  have hq := sc_of_notImm sb sc hs
  rw [src_of_fields sb _ _ sc rfl rfl rfl rfl]
  first
  | done
  | simp (disch := decide) only [encH, encG, encW, Fld.hd, Fld.gd, ftRnd, scopeSc, extract_append_low, extract_append_high, getLsbD_append_low, getLsbD_append_high, Nat.reduceSub, extract_whole, bit_getLsbD]; done
  | simp (disch := decide) only [encH, encG, encW, Fld.hd, Fld.gd, ftRnd, scopeSc, extract_append_low, extract_append_high, getLsbD_append_low, getLsbD_append_high, Nat.reduceSub, extract_whole, bit_getLsbD]; first | (rw [hq]; done) | (simp [hq]; done)

theorem Laws.F.lea (h : Hd) (dst : BitVec 10) (sa : BitVec 10) (sb : Src) (w : BitVec 2) (sh : BitVec 5) : Laws.F.Statement (.lea h dst sa sb w sh) := by
  refine ⟨fun c pre f hf hc ho => ?_, fun _ _ h => nomatch (show (none : Option (Slot × Slot)) = some _ from h)⟩
  change some (_, _) = some (_, _) at hf
  obtain ⟨rfl, rfl⟩ := Prod.mk.inj (Option.some.inj hf)
  rw [parse_2b _ _ rfl]
  rw [src_of_fields sb _ _ 0 rfl rfl rfl rfl]
  first
  | done
  | simp (disch := decide) only [encH, encG, encW, Fld.hd, Fld.gd, ftRnd, scopeSc, extract_append_low, extract_append_high, getLsbD_append_low, getLsbD_append_high, Nat.reduceSub, extract_whole, bit_getLsbD]; done
  | simp (disch := decide) only [encH, encG, encW, Fld.hd, Fld.gd, ftRnd, scopeSc, extract_append_low, extract_append_high, getLsbD_append_low, getLsbD_append_high, Nat.reduceSub, extract_whole, bit_getLsbD]; first | rfl | (simp; done)

theorem Laws.F.and (h : Hd) (dst : BitVec 10) (sa : BitVec 10) (sb : Src) (w : BitVec 2) : Laws.F.Statement (.and h dst sa sb w) := by
  refine ⟨fun c pre f hf hc ho => ?_, fun _ _ h => nomatch (show (none : Option (Slot × Slot)) = some _ from h)⟩
  change some (_, _) = some (_, _) at hf
  obtain ⟨rfl, rfl⟩ := Prod.mk.inj (Option.some.inj hf)
  rw [parse_2c _ _ rfl]
  rw [src_of_fields sb _ _ 0 rfl rfl rfl rfl]
  first
  | done
  | simp (disch := decide) only [encH, encG, encW, Fld.hd, Fld.gd, ftRnd, scopeSc, extract_append_low, extract_append_high, getLsbD_append_low, getLsbD_append_high, Nat.reduceSub, extract_whole, bit_getLsbD]; done
  | simp (disch := decide) only [encH, encG, encW, Fld.hd, Fld.gd, ftRnd, scopeSc, extract_append_low, extract_append_high, getLsbD_append_low, getLsbD_append_high, Nat.reduceSub, extract_whole, bit_getLsbD]; first | rfl | (simp; done)

theorem Laws.F.or (h : Hd) (dst : BitVec 10) (sa : BitVec 10) (sb : Src) (w : BitVec 2) : Laws.F.Statement (.or h dst sa sb w) := by
  refine ⟨fun c pre f hf hc ho => ?_, fun _ _ h => nomatch (show (none : Option (Slot × Slot)) = some _ from h)⟩
  change some (_, _) = some (_, _) at hf
  obtain ⟨rfl, rfl⟩ := Prod.mk.inj (Option.some.inj hf)
  rw [parse_2d _ _ rfl]
  rw [src_of_fields sb _ _ 0 rfl rfl rfl rfl]
  first
  | done
  | simp (disch := decide) only [encH, encG, encW, Fld.hd, Fld.gd, ftRnd, scopeSc, extract_append_low, extract_append_high, getLsbD_append_low, getLsbD_append_high, Nat.reduceSub, extract_whole, bit_getLsbD]; done
  | simp (disch := decide) only [encH, encG, encW, Fld.hd, Fld.gd, ftRnd, scopeSc, extract_append_low, extract_append_high, getLsbD_append_low, getLsbD_append_high, Nat.reduceSub, extract_whole, bit_getLsbD]; first | rfl | (simp; done)

theorem Laws.F.xor (h : Hd) (dst : BitVec 10) (sa : BitVec 10) (sb : Src) (w : BitVec 2) : Laws.F.Statement (.xor h dst sa sb w) := by
  refine ⟨fun c pre f hf hc ho => ?_, fun _ _ h => nomatch (show (none : Option (Slot × Slot)) = some _ from h)⟩
  change some (_, _) = some (_, _) at hf
  obtain ⟨rfl, rfl⟩ := Prod.mk.inj (Option.some.inj hf)
  rw [parse_2e _ _ rfl]
  rw [src_of_fields sb _ _ 0 rfl rfl rfl rfl]
  first
  | done
  | simp (disch := decide) only [encH, encG, encW, Fld.hd, Fld.gd, ftRnd, scopeSc, extract_append_low, extract_append_high, getLsbD_append_low, getLsbD_append_high, Nat.reduceSub, extract_whole, bit_getLsbD]; done
  | simp (disch := decide) only [encH, encG, encW, Fld.hd, Fld.gd, ftRnd, scopeSc, extract_append_low, extract_append_high, getLsbD_append_low, getLsbD_append_high, Nat.reduceSub, extract_whole, bit_getLsbD]; first | rfl | (simp; done)

theorem Laws.F.not (h : Hd) (dst : BitVec 10) (sa : BitVec 10) (w : BitVec 2) : Laws.F.Statement (.not h dst sa w) := by
  refine ⟨fun c pre f hf hc ho => ?_, fun _ _ h => nomatch (show (none : Option (Slot × Slot)) = some _ from h)⟩
  change some (_, _) = some (_, _) at hf
  obtain ⟨rfl, rfl⟩ := Prod.mk.inj (Option.some.inj hf)
  rw [parse_2f _ _ rfl]
  first
  | done
  | simp (disch := decide) only [encH, encG, encW, Fld.hd, Fld.gd, ftRnd, scopeSc, extract_append_low, extract_append_high, getLsbD_append_low, getLsbD_append_high, Nat.reduceSub, extract_whole, bit_getLsbD]; done
  | simp (disch := decide) only [encH, encG, encW, Fld.hd, Fld.gd, ftRnd, scopeSc, extract_append_low, extract_append_high, getLsbD_append_low, getLsbD_append_high, Nat.reduceSub, extract_whole, bit_getLsbD]; first | rfl | (simp; done)

theorem Laws.F.shl (h : Hd) (dst : BitVec 10) (sa : BitVec 10) (sb : Src) (w : BitVec 2) : Laws.F.Statement (.shl h dst sa sb w) := by
  refine ⟨fun c pre f hf hc ho => ?_, fun _ _ h => nomatch (show (none : Option (Slot × Slot)) = some _ from h)⟩
  change some (_, _) = some (_, _) at hf
  obtain ⟨rfl, rfl⟩ := Prod.mk.inj (Option.some.inj hf)
  rw [parse_30 _ _ rfl]
  rw [src_of_fields sb _ _ 0 rfl rfl rfl rfl]
  first
  | done
  | simp (disch := decide) only [encH, encG, encW, Fld.hd, Fld.gd, ftRnd, scopeSc, extract_append_low, extract_append_high, getLsbD_append_low, getLsbD_append_high, Nat.reduceSub, extract_whole, bit_getLsbD]; done
  | simp (disch := decide) only [encH, encG, encW, Fld.hd, Fld.gd, ftRnd, scopeSc, extract_append_low, extract_append_high, getLsbD_append_low, getLsbD_append_high, Nat.reduceSub, extract_whole, bit_getLsbD]; first | rfl | (simp; done)

theorem Laws.F.shr (h : Hd) (dst : BitVec 10) (sa : BitVec 10) (sb : Src) (w : BitVec 2) (a : Bool) : Laws.F.Statement (.shr h dst sa sb w a) := by
  refine ⟨fun c pre f hf hc ho => ?_, fun _ _ h => nomatch (show (none : Option (Slot × Slot)) = some _ from h)⟩
  change some (_, _) = some (_, _) at hf
  obtain ⟨rfl, rfl⟩ := Prod.mk.inj (Option.some.inj hf)
  rw [parse_31 _ _ rfl]
  rw [src_of_fields sb _ _ 0 rfl rfl rfl rfl]
  first
  | done
  | simp (disch := decide) only [encH, encG, encW, Fld.hd, Fld.gd, ftRnd, scopeSc, extract_append_low, extract_append_high, getLsbD_append_low, getLsbD_append_high, Nat.reduceSub, extract_whole, bit_getLsbD]; done
  | simp (disch := decide) only [encH, encG, encW, Fld.hd, Fld.gd, ftRnd, scopeSc, extract_append_low, extract_append_high, getLsbD_append_low, getLsbD_append_high, Nat.reduceSub, extract_whole, bit_getLsbD]; first | rfl | (simp; done)

theorem Laws.F.rot (h : Hd) (dst : BitVec 10) (sa : BitVec 10) (sb : Src) (w : BitVec 2) : Laws.F.Statement (.rot h dst sa sb w) := by
  refine ⟨fun c pre f hf hc ho => ?_, fun _ _ h => nomatch (show (none : Option (Slot × Slot)) = some _ from h)⟩
  change some (_, _) = some (_, _) at hf
  obtain ⟨rfl, rfl⟩ := Prod.mk.inj (Option.some.inj hf)
  rw [parse_32 _ _ rfl]
  rw [src_of_fields sb _ _ 0 rfl rfl rfl rfl]
  first
  | done
  | simp (disch := decide) only [encH, encG, encW, Fld.hd, Fld.gd, ftRnd, scopeSc, extract_append_low, extract_append_high, getLsbD_append_low, getLsbD_append_high, Nat.reduceSub, extract_whole, bit_getLsbD]; done
  | simp (disch := decide) only [encH, encG, encW, Fld.hd, Fld.gd, ftRnd, scopeSc, extract_append_low, extract_append_high, getLsbD_append_low, getLsbD_append_high, Nat.reduceSub, extract_whole, bit_getLsbD]; first | rfl | (simp; done)

theorem Laws.F.bfe (h : Hd) (dst : BitVec 10) (sa : BitVec 10) (sb : Src) (sc : BitVec 10) (w : BitVec 2) (sx : Bool) : Laws.F.Statement (.bfe h dst sa sb sc w sx) := by
  refine ⟨fun c pre f hf hc ho => ?_, fun _ _ h => nomatch (show (none : Option (Slot × Slot)) = some _ from h)⟩
  change some (_, _) = some (_, _) at hf
  obtain ⟨rfl, rfl⟩ := Prod.mk.inj (Option.some.inj hf)
  rw [parse_33 _ _ rfl]
  have ho : (hOk c h && rH c h dst && rH c h sa && sH c h sb && imm16 sb && (if notImm sb then rH c h sc else sc == 0)) = true := ho
  have hs : notImm sb = true ∨ sc = 0 := by cases sb <;> simp_all [notImm]
  rw [src_of_fields sb _ _ sc rfl rfl rfl rfl, scOf_of_fields sb _ sc rfl rfl hs]
  first
  | done
  | simp (disch := decide) only [encH, encG, encW, Fld.hd, Fld.gd, ftRnd, scopeSc, extract_append_low, extract_append_high, getLsbD_append_low, getLsbD_append_high, Nat.reduceSub, extract_whole, bit_getLsbD]; done
  | simp (disch := decide) only [encH, encG, encW, Fld.hd, Fld.gd, ftRnd, scopeSc, extract_append_low, extract_append_high, getLsbD_append_low, getLsbD_append_high, Nat.reduceSub, extract_whole, bit_getLsbD]; first | rfl | (simp; done)

theorem Laws.F.bfi (h : Hd) (dst : BitVec 10) (sa : BitVec 10) (sb : Src) (sc : BitVec 10) (w : BitVec 2) : Laws.F.Statement (.bfi h dst sa sb sc w) := by
  refine ⟨fun c pre f hf hc ho => ?_, fun _ _ h => nomatch (show (none : Option (Slot × Slot)) = some _ from h)⟩
  change some (_, _) = some (_, _) at hf
  obtain ⟨rfl, rfl⟩ := Prod.mk.inj (Option.some.inj hf)
  rw [parse_34 _ _ rfl]
  have ho : (hOk c h && rH c h dst && rH c h sa && sH c h sb && imm16 sb && (if notImm sb then rH c h sc else sc == 0)) = true := ho
  have hs : notImm sb = true ∨ sc = 0 := by cases sb <;> simp_all [notImm]
  rw [src_of_fields sb _ _ sc rfl rfl rfl rfl, scOf_of_fields sb _ sc rfl rfl hs]
  first
  | done
  | simp (disch := decide) only [encH, encG, encW, Fld.hd, Fld.gd, ftRnd, scopeSc, extract_append_low, extract_append_high, getLsbD_append_low, getLsbD_append_high, Nat.reduceSub, extract_whole, bit_getLsbD]; done
  | simp (disch := decide) only [encH, encG, encW, Fld.hd, Fld.gd, ftRnd, scopeSc, extract_append_low, extract_append_high, getLsbD_append_low, getLsbD_append_high, Nat.reduceSub, extract_whole, bit_getLsbD]; first | rfl | (simp; done)

theorem Laws.F.bfrev (h : Hd) (dst : BitVec 10) (sa : BitVec 10) (w : BitVec 2) : Laws.F.Statement (.bfrev h dst sa w) := by
  refine ⟨fun c pre f hf hc ho => ?_, fun _ _ h => nomatch (show (none : Option (Slot × Slot)) = some _ from h)⟩
  change some (_, _) = some (_, _) at hf
  obtain ⟨rfl, rfl⟩ := Prod.mk.inj (Option.some.inj hf)
  rw [parse_35 _ _ rfl]
  first
  | done
  | simp (disch := decide) only [encH, encG, encW, Fld.hd, Fld.gd, ftRnd, scopeSc, extract_append_low, extract_append_high, getLsbD_append_low, getLsbD_append_high, Nat.reduceSub, extract_whole, bit_getLsbD]; done
  | simp (disch := decide) only [encH, encG, encW, Fld.hd, Fld.gd, ftRnd, scopeSc, extract_append_low, extract_append_high, getLsbD_append_low, getLsbD_append_high, Nat.reduceSub, extract_whole, bit_getLsbD]; first | rfl | (simp; done)

theorem Laws.F.bcnt (h : Hd) (dst : BitVec 10) (sa : BitVec 10) (w : BitVec 2) (bop : BitVec 2) : Laws.F.Statement (.bcnt h dst sa w bop) := by
  refine ⟨fun c pre f hf hc ho => ?_, fun _ _ h => nomatch (show (none : Option (Slot × Slot)) = some _ from h)⟩
  change some (_, _) = some (_, _) at hf
  obtain ⟨rfl, rfl⟩ := Prod.mk.inj (Option.some.inj hf)
  rw [parse_36 _ _ rfl]
  first
  | done
  | simp (disch := decide) only [encH, encG, encW, Fld.hd, Fld.gd, ftRnd, scopeSc, extract_append_low, extract_append_high, getLsbD_append_low, getLsbD_append_high, Nat.reduceSub, extract_whole, bit_getLsbD]; done
  | simp (disch := decide) only [encH, encG, encW, Fld.hd, Fld.gd, ftRnd, scopeSc, extract_append_low, extract_append_high, getLsbD_append_low, getLsbD_append_high, Nat.reduceSub, extract_whole, bit_getLsbD]; first | rfl | (simp; done)

theorem Laws.F.sad (h : Hd) (dst : BitVec 10) (sa : BitVec 10) (sb : Src) (sc : BitVec 10) (pk : BitVec 2) (sat : Bool) : Laws.F.Statement (.sad h dst sa sb sc pk sat) := by
  refine ⟨fun c pre f hf hc ho => ?_, fun _ _ h => nomatch (show (none : Option (Slot × Slot)) = some _ from h)⟩
  change some (_, _) = some (_, _) at hf
  obtain ⟨rfl, rfl⟩ := Prod.mk.inj (Option.some.inj hf)
  rw [parse_37 _ _ rfl]
  have ho : (hOk c h && rH c h dst && rH c h sa && sH c h sb && notImm sb && rH c h sc) = true := ho
  have hs : notImm sb = true := by cases sb <;> simp_all [notImm]
  have hq := sc_of_notImm sb sc hs
  rw [src_of_fields sb _ _ sc rfl rfl rfl rfl]
  first
  | done
  | simp (disch := decide) only [encH, encG, encW, Fld.hd, Fld.gd, ftRnd, scopeSc, extract_append_low, extract_append_high, getLsbD_append_low, getLsbD_append_high, Nat.reduceSub, extract_whole, bit_getLsbD]; done
  | simp (disch := decide) only [encH, encG, encW, Fld.hd, Fld.gd, ftRnd, scopeSc, extract_append_low, extract_append_high, getLsbD_append_low, getLsbD_append_high, Nat.reduceSub, extract_whole, bit_getLsbD]; first | (rw [hq]; done) | (simp [hq]; done)

theorem Laws.F.mov (h : Hd) (dst : BitVec 10) (sb : Src) (w : BitVec 2) : Laws.F.Statement (.mov h dst sb w) := by
  refine ⟨fun c pre f hf hc ho => ?_, fun _ _ h => nomatch (show (none : Option (Slot × Slot)) = some _ from h)⟩
  change some (_, _) = some (_, _) at hf
  obtain ⟨rfl, rfl⟩ := Prod.mk.inj (Option.some.inj hf)
  rw [parse_38 _ _ rfl]
  rw [src_of_fields sb _ _ 0 rfl rfl rfl rfl]
  first
  | done
  | simp (disch := decide) only [encH, encG, encW, Fld.hd, Fld.gd, ftRnd, scopeSc, extract_append_low, extract_append_high, getLsbD_append_low, getLsbD_append_high, Nat.reduceSub, extract_whole, bit_getLsbD]; done
  | simp (disch := decide) only [encH, encG, encW, Fld.hd, Fld.gd, ftRnd, scopeSc, extract_append_low, extract_append_high, getLsbD_append_low, getLsbD_append_high, Nat.reduceSub, extract_whole, bit_getLsbD]; first | rfl | (simp; done)

theorem Laws.F.movi (h : Hd) (dst : BitVec 10) (imm : Imm) (mt : BitVec 3) : Laws.F.Statement (.movi h dst imm mt) := by
  refine ⟨fun c pre f hf hc ho => ?_, fun _ _ h => nomatch (show (none : Option (Slot × Slot)) = some _ from h)⟩
  change some (_, _) = some (_, _) at hf
  obtain ⟨rfl, rfl⟩ := Prod.mk.inj (Option.some.inj hf)
  rw [parse_39 _ _ rfl]
  rw [imm_of_fields imm _ _ rfl rfl rfl]
  first
  | done
  | simp (disch := decide) only [encH, encG, encW, Fld.hd, Fld.gd, ftRnd, scopeSc, extract_append_low, extract_append_high, getLsbD_append_low, getLsbD_append_high, Nat.reduceSub, extract_whole, bit_getLsbD]; done
  | simp (disch := decide) only [encH, encG, encW, Fld.hd, Fld.gd, ftRnd, scopeSc, extract_append_low, extract_append_high, getLsbD_append_low, getLsbD_append_high, Nat.reduceSub, extract_whole, bit_getLsbD]; first | rfl | (simp; done)

theorem Laws.F.sel (g : Gd) (dst : BitVec 10) (sa : BitVec 10) (sb : Src) (sc : BitVec 10) : Laws.F.Statement (.sel g dst sa sb sc) := by
  refine ⟨fun c pre f hf hc ho => ?_, fun _ _ h => nomatch (show (none : Option (Slot × Slot)) = some _ from h)⟩
  change some (_, _) = some (_, _) at hf
  obtain ⟨rfl, rfl⟩ := Prod.mk.inj (Option.some.inj hf)
  rw [parse_3a _ _ rfl]
  have ho : (gOk c g && vGrp c dst 1 && vGrp c sa 1 && sH c ⟨g.prd, g.png, false⟩ sb && notImm sb && pf sc) = true := ho
  have hs : notImm sb = true := by cases sb <;> simp_all [notImm]
  have hq := sc_of_notImm sb sc hs
  rw [src_of_fields sb _ _ sc rfl rfl rfl rfl]
  first
  | done
  | simp (disch := decide) only [encH, encG, encW, Fld.hd, Fld.gd, ftRnd, scopeSc, extract_append_low, extract_append_high, getLsbD_append_low, getLsbD_append_high, Nat.reduceSub, extract_whole, bit_getLsbD]; done
  | simp (disch := decide) only [encH, encG, encW, Fld.hd, Fld.gd, ftRnd, scopeSc, extract_append_low, extract_append_high, getLsbD_append_low, getLsbD_append_high, Nat.reduceSub, extract_whole, bit_getLsbD]; first | (rw [hq]; done) | (simp [hq]; done)

theorem Laws.F.movx (g : Gd) (dst : BitVec 10) (sa : BitVec 10) (tag : BitVec 4) : Laws.F.Statement (.movx g dst sa tag) := by
  refine ⟨fun c pre f hf hc ho => ?_, fun _ _ h => nomatch (show (none : Option (Slot × Slot)) = some _ from h)⟩
  change some (_, _) = some (_, _) at hf
  obtain ⟨rfl, rfl⟩ := Prod.mk.inj (Option.some.inj hf)
  rw [parse_3b _ _ rfl]
  first
  | done
  | simp (disch := decide) only [encH, encG, encW, Fld.hd, Fld.gd, ftRnd, scopeSc, extract_append_low, extract_append_high, getLsbD_append_low, getLsbD_append_high, Nat.reduceSub, extract_whole, bit_getLsbD]; done
  | simp (disch := decide) only [encH, encG, encW, Fld.hd, Fld.gd, ftRnd, scopeSc, extract_append_low, extract_append_high, getLsbD_append_low, getLsbD_append_high, Nat.reduceSub, extract_whole, bit_getLsbD]; first | rfl | (simp; done)

theorem Laws.F.plog (g : Gd) (dst : BitVec 10) (sa : BitVec 10) (sb : BitVec 10) (lut : BitVec 4) : Laws.F.Statement (.plog g dst sa sb lut) := by
  refine ⟨fun c pre f hf hc ho => ?_, fun _ _ h => nomatch (show (none : Option (Slot × Slot)) = some _ from h)⟩
  change some (_, _) = some (_, _) at hf
  obtain ⟨rfl, rfl⟩ := Prod.mk.inj (Option.some.inj hf)
  rw [parse_3c _ _ rfl]
  first
  | done
  | simp (disch := decide) only [encH, encG, encW, Fld.hd, Fld.gd, ftRnd, scopeSc, extract_append_low, extract_append_high, getLsbD_append_low, getLsbD_append_high, Nat.reduceSub, extract_whole, bit_getLsbD]; done
  | simp (disch := decide) only [encH, encG, encW, Fld.hd, Fld.gd, ftRnd, scopeSc, extract_append_low, extract_append_high, getLsbD_append_low, getLsbD_append_high, Nat.reduceSub, extract_whole, bit_getLsbD]; first | rfl | (simp; done)

theorem Laws.F.pmov (g : Gd) (dst : BitVec 10) (sa : BitVec 10) (dir : BitVec 2) : Laws.F.Statement (.pmov g dst sa dir) := by
  refine ⟨fun c pre f hf hc ho => ?_, fun _ _ h => nomatch (show (none : Option (Slot × Slot)) = some _ from h)⟩
  change some (_, _) = some (_, _) at hf
  obtain ⟨rfl, rfl⟩ := Prod.mk.inj (Option.some.inj hf)
  rw [parse_3d _ _ rfl]
  first
  | done
  | simp (disch := decide) only [encH, encG, encW, Fld.hd, Fld.gd, ftRnd, scopeSc, extract_append_low, extract_append_high, getLsbD_append_low, getLsbD_append_high, Nat.reduceSub, extract_whole, bit_getLsbD]; done
  | simp (disch := decide) only [encH, encG, encW, Fld.hd, Fld.gd, ftRnd, scopeSc, extract_append_low, extract_append_high, getLsbD_append_low, getLsbD_append_high, Nat.reduceSub, extract_whole, bit_getLsbD]; first | rfl | (simp; done)

theorem Laws.F.sreg (g : Gd) (dst : BitVec 10) (sel : BitVec 4) : Laws.F.Statement (.sreg g dst sel) := by
  refine ⟨fun c pre f hf hc ho => ?_, fun _ _ h => nomatch (show (none : Option (Slot × Slot)) = some _ from h)⟩
  change some (_, _) = some (_, _) at hf
  obtain ⟨rfl, rfl⟩ := Prod.mk.inj (Option.some.inj hf)
  rw [parse_3e _ _ rfl]
  first
  | done
  | simp (disch := decide) only [encH, encG, encW, Fld.hd, Fld.gd, ftRnd, scopeSc, extract_append_low, extract_append_high, getLsbD_append_low, getLsbD_append_high, Nat.reduceSub, extract_whole, bit_getLsbD]; done
  | simp (disch := decide) only [encH, encG, encW, Fld.hd, Fld.gd, ftRnd, scopeSc, extract_append_low, extract_append_high, getLsbD_append_low, getLsbD_append_high, Nat.reduceSub, extract_whole, bit_getLsbD]; first | rfl | (simp; done)

theorem Laws.F.fadd (h : Hd) (dst : BitVec 10) (sa : BitVec 10) (sb : Src) (bf : Bool) (rnd : BitVec 3) : Laws.F.Statement (.fadd h dst sa sb bf rnd) := by
  refine ⟨fun c pre f hf hc ho => ?_, fun _ _ h => nomatch (show (none : Option (Slot × Slot)) = some _ from h)⟩
  change some (_, _) = some (_, _) at hf
  obtain ⟨rfl, rfl⟩ := Prod.mk.inj (Option.some.inj hf)
  rw [parse_40 _ _ rfl]
  rw [src_of_fields sb _ _ 0 rfl rfl rfl rfl]
  first
  | done
  | simp (disch := decide) only [encH, encG, encW, Fld.hd, Fld.gd, ftRnd, scopeSc, extract_append_low, extract_append_high, getLsbD_append_low, getLsbD_append_high, Nat.reduceSub, extract_whole, bit_getLsbD]; done
  | simp (disch := decide) only [encH, encG, encW, Fld.hd, Fld.gd, ftRnd, scopeSc, extract_append_low, extract_append_high, getLsbD_append_low, getLsbD_append_high, Nat.reduceSub, extract_whole, bit_getLsbD]; first | rfl | (simp; done)

theorem Laws.F.fsub (h : Hd) (dst : BitVec 10) (sa : BitVec 10) (sb : Src) (bf : Bool) (rnd : BitVec 3) : Laws.F.Statement (.fsub h dst sa sb bf rnd) := by
  refine ⟨fun c pre f hf hc ho => ?_, fun _ _ h => nomatch (show (none : Option (Slot × Slot)) = some _ from h)⟩
  change some (_, _) = some (_, _) at hf
  obtain ⟨rfl, rfl⟩ := Prod.mk.inj (Option.some.inj hf)
  rw [parse_41 _ _ rfl]
  rw [src_of_fields sb _ _ 0 rfl rfl rfl rfl]
  first
  | done
  | simp (disch := decide) only [encH, encG, encW, Fld.hd, Fld.gd, ftRnd, scopeSc, extract_append_low, extract_append_high, getLsbD_append_low, getLsbD_append_high, Nat.reduceSub, extract_whole, bit_getLsbD]; done
  | simp (disch := decide) only [encH, encG, encW, Fld.hd, Fld.gd, ftRnd, scopeSc, extract_append_low, extract_append_high, getLsbD_append_low, getLsbD_append_high, Nat.reduceSub, extract_whole, bit_getLsbD]; first | rfl | (simp; done)

theorem Laws.F.fmul (h : Hd) (dst : BitVec 10) (sa : BitVec 10) (sb : Src) (bf : Bool) (rnd : BitVec 3) : Laws.F.Statement (.fmul h dst sa sb bf rnd) := by
  refine ⟨fun c pre f hf hc ho => ?_, fun _ _ h => nomatch (show (none : Option (Slot × Slot)) = some _ from h)⟩
  change some (_, _) = some (_, _) at hf
  obtain ⟨rfl, rfl⟩ := Prod.mk.inj (Option.some.inj hf)
  rw [parse_42 _ _ rfl]
  rw [src_of_fields sb _ _ 0 rfl rfl rfl rfl]
  first
  | done
  | simp (disch := decide) only [encH, encG, encW, Fld.hd, Fld.gd, ftRnd, scopeSc, extract_append_low, extract_append_high, getLsbD_append_low, getLsbD_append_high, Nat.reduceSub, extract_whole, bit_getLsbD]; done
  | simp (disch := decide) only [encH, encG, encW, Fld.hd, Fld.gd, ftRnd, scopeSc, extract_append_low, extract_append_high, getLsbD_append_low, getLsbD_append_high, Nat.reduceSub, extract_whole, bit_getLsbD]; first | rfl | (simp; done)

theorem Laws.F.fma (h : Hd) (dst : BitVec 10) (sa : BitVec 10) (sb : Src) (sc : BitVec 10) (bf : Bool) (rnd : BitVec 3) : Laws.F.Statement (.fma h dst sa sb sc bf rnd) := by
  refine ⟨fun c pre f hf hc ho => ?_, fun _ _ h => nomatch (show (none : Option (Slot × Slot)) = some _ from h)⟩
  change some (_, _) = some (_, _) at hf
  obtain ⟨rfl, rfl⟩ := Prod.mk.inj (Option.some.inj hf)
  rw [parse_43 _ _ rfl]
  have ho : (hOk c h && rH c h dst && rH c h sa && sH c h sb && notImm sb && rH c h sc) = true := ho
  have hs : notImm sb = true := by cases sb <;> simp_all [notImm]
  have hq := sc_of_notImm sb sc hs
  rw [src_of_fields sb _ _ sc rfl rfl rfl rfl]
  first
  | done
  | simp (disch := decide) only [encH, encG, encW, Fld.hd, Fld.gd, ftRnd, scopeSc, extract_append_low, extract_append_high, getLsbD_append_low, getLsbD_append_high, Nat.reduceSub, extract_whole, bit_getLsbD]; done
  | simp (disch := decide) only [encH, encG, encW, Fld.hd, Fld.gd, ftRnd, scopeSc, extract_append_low, extract_append_high, getLsbD_append_low, getLsbD_append_high, Nat.reduceSub, extract_whole, bit_getLsbD]; first | (rw [hq]; done) | (simp [hq]; done)

theorem Laws.F.fmin (h : Hd) (dst : BitVec 10) (sa : BitVec 10) (sb : Src) (bf : Bool) : Laws.F.Statement (.fmin h dst sa sb bf) := by
  refine ⟨fun c pre f hf hc ho => ?_, fun _ _ h => nomatch (show (none : Option (Slot × Slot)) = some _ from h)⟩
  change some (_, _) = some (_, _) at hf
  obtain ⟨rfl, rfl⟩ := Prod.mk.inj (Option.some.inj hf)
  rw [parse_44 _ _ rfl]
  rw [src_of_fields sb _ _ 0 rfl rfl rfl rfl]
  first
  | done
  | simp (disch := decide) only [encH, encG, encW, Fld.hd, Fld.gd, ftRnd, scopeSc, extract_append_low, extract_append_high, getLsbD_append_low, getLsbD_append_high, Nat.reduceSub, extract_whole, bit_getLsbD]; done
  | simp (disch := decide) only [encH, encG, encW, Fld.hd, Fld.gd, ftRnd, scopeSc, extract_append_low, extract_append_high, getLsbD_append_low, getLsbD_append_high, Nat.reduceSub, extract_whole, bit_getLsbD]; first | rfl | (simp; done)

theorem Laws.F.fmax (h : Hd) (dst : BitVec 10) (sa : BitVec 10) (sb : Src) (bf : Bool) : Laws.F.Statement (.fmax h dst sa sb bf) := by
  refine ⟨fun c pre f hf hc ho => ?_, fun _ _ h => nomatch (show (none : Option (Slot × Slot)) = some _ from h)⟩
  change some (_, _) = some (_, _) at hf
  obtain ⟨rfl, rfl⟩ := Prod.mk.inj (Option.some.inj hf)
  rw [parse_45 _ _ rfl]
  rw [src_of_fields sb _ _ 0 rfl rfl rfl rfl]
  first
  | done
  | simp (disch := decide) only [encH, encG, encW, Fld.hd, Fld.gd, ftRnd, scopeSc, extract_append_low, extract_append_high, getLsbD_append_low, getLsbD_append_high, Nat.reduceSub, extract_whole, bit_getLsbD]; done
  | simp (disch := decide) only [encH, encG, encW, Fld.hd, Fld.gd, ftRnd, scopeSc, extract_append_low, extract_append_high, getLsbD_append_low, getLsbD_append_high, Nat.reduceSub, extract_whole, bit_getLsbD]; first | rfl | (simp; done)

theorem Laws.F.fcmp (h : Hd) (dst : BitVec 10) (sa : BitVec 10) (sb : Src) (bf : Bool) (cmp : BitVec 3) : Laws.F.Statement (.fcmp h dst sa sb bf cmp) := by
  refine ⟨fun c pre f hf hc ho => ?_, fun _ _ h => nomatch (show (none : Option (Slot × Slot)) = some _ from h)⟩
  change some (_, _) = some (_, _) at hf
  obtain ⟨rfl, rfl⟩ := Prod.mk.inj (Option.some.inj hf)
  rw [parse_46 _ _ rfl]
  rw [src_of_fields sb _ _ 0 rfl rfl rfl rfl]
  first
  | done
  | simp (disch := decide) only [encH, encG, encW, Fld.hd, Fld.gd, ftRnd, scopeSc, extract_append_low, extract_append_high, getLsbD_append_low, getLsbD_append_high, Nat.reduceSub, extract_whole, bit_getLsbD]; done
  | simp (disch := decide) only [encH, encG, encW, Fld.hd, Fld.gd, ftRnd, scopeSc, extract_append_low, extract_append_high, getLsbD_append_low, getLsbD_append_high, Nat.reduceSub, extract_whole, bit_getLsbD]; first | rfl | (simp; done)

theorem Laws.F.frcp (h : Hd) (dst : BitVec 10) (sa : BitVec 10) (bf : Bool) (rnd : BitVec 3) : Laws.F.Statement (.frcp h dst sa bf rnd) := by
  refine ⟨fun c pre f hf hc ho => ?_, fun _ _ h => nomatch (show (none : Option (Slot × Slot)) = some _ from h)⟩
  change some (_, _) = some (_, _) at hf
  obtain ⟨rfl, rfl⟩ := Prod.mk.inj (Option.some.inj hf)
  rw [parse_47 _ _ rfl]
  first
  | done
  | simp (disch := decide) only [encH, encG, encW, Fld.hd, Fld.gd, ftRnd, scopeSc, extract_append_low, extract_append_high, getLsbD_append_low, getLsbD_append_high, Nat.reduceSub, extract_whole, bit_getLsbD]; done
  | simp (disch := decide) only [encH, encG, encW, Fld.hd, Fld.gd, ftRnd, scopeSc, extract_append_low, extract_append_high, getLsbD_append_low, getLsbD_append_high, Nat.reduceSub, extract_whole, bit_getLsbD]; first | rfl | (simp; done)

theorem Laws.F.frsq (h : Hd) (dst : BitVec 10) (sa : BitVec 10) (bf : Bool) : Laws.F.Statement (.frsq h dst sa bf) := by
  refine ⟨fun c pre f hf hc ho => ?_, fun _ _ h => nomatch (show (none : Option (Slot × Slot)) = some _ from h)⟩
  change some (_, _) = some (_, _) at hf
  obtain ⟨rfl, rfl⟩ := Prod.mk.inj (Option.some.inj hf)
  rw [parse_48 _ _ rfl]
  first
  | done
  | simp (disch := decide) only [encH, encG, encW, Fld.hd, Fld.gd, ftRnd, scopeSc, extract_append_low, extract_append_high, getLsbD_append_low, getLsbD_append_high, Nat.reduceSub, extract_whole, bit_getLsbD]; done
  | simp (disch := decide) only [encH, encG, encW, Fld.hd, Fld.gd, ftRnd, scopeSc, extract_append_low, extract_append_high, getLsbD_append_low, getLsbD_append_high, Nat.reduceSub, extract_whole, bit_getLsbD]; first | rfl | (simp; done)

theorem Laws.F.fsqrt (h : Hd) (dst : BitVec 10) (sa : BitVec 10) (bf : Bool) (rnd : BitVec 3) : Laws.F.Statement (.fsqrt h dst sa bf rnd) := by
  refine ⟨fun c pre f hf hc ho => ?_, fun _ _ h => nomatch (show (none : Option (Slot × Slot)) = some _ from h)⟩
  change some (_, _) = some (_, _) at hf
  obtain ⟨rfl, rfl⟩ := Prod.mk.inj (Option.some.inj hf)
  rw [parse_49 _ _ rfl]
  first
  | done
  | simp (disch := decide) only [encH, encG, encW, Fld.hd, Fld.gd, ftRnd, scopeSc, extract_append_low, extract_append_high, getLsbD_append_low, getLsbD_append_high, Nat.reduceSub, extract_whole, bit_getLsbD]; done
  | simp (disch := decide) only [encH, encG, encW, Fld.hd, Fld.gd, ftRnd, scopeSc, extract_append_low, extract_append_high, getLsbD_append_low, getLsbD_append_high, Nat.reduceSub, extract_whole, bit_getLsbD]; first | rfl | (simp; done)

theorem Laws.F.fexp2 (h : Hd) (dst : BitVec 10) (sa : BitVec 10) (bf : Bool) : Laws.F.Statement (.fexp2 h dst sa bf) := by
  refine ⟨fun c pre f hf hc ho => ?_, fun _ _ h => nomatch (show (none : Option (Slot × Slot)) = some _ from h)⟩
  change some (_, _) = some (_, _) at hf
  obtain ⟨rfl, rfl⟩ := Prod.mk.inj (Option.some.inj hf)
  rw [parse_4a _ _ rfl]
  first
  | done
  | simp (disch := decide) only [encH, encG, encW, Fld.hd, Fld.gd, ftRnd, scopeSc, extract_append_low, extract_append_high, getLsbD_append_low, getLsbD_append_high, Nat.reduceSub, extract_whole, bit_getLsbD]; done
  | simp (disch := decide) only [encH, encG, encW, Fld.hd, Fld.gd, ftRnd, scopeSc, extract_append_low, extract_append_high, getLsbD_append_low, getLsbD_append_high, Nat.reduceSub, extract_whole, bit_getLsbD]; first | rfl | (simp; done)

theorem Laws.F.flog2 (h : Hd) (dst : BitVec 10) (sa : BitVec 10) (bf : Bool) : Laws.F.Statement (.flog2 h dst sa bf) := by
  refine ⟨fun c pre f hf hc ho => ?_, fun _ _ h => nomatch (show (none : Option (Slot × Slot)) = some _ from h)⟩
  change some (_, _) = some (_, _) at hf
  obtain ⟨rfl, rfl⟩ := Prod.mk.inj (Option.some.inj hf)
  rw [parse_4b _ _ rfl]
  first
  | done
  | simp (disch := decide) only [encH, encG, encW, Fld.hd, Fld.gd, ftRnd, scopeSc, extract_append_low, extract_append_high, getLsbD_append_low, getLsbD_append_high, Nat.reduceSub, extract_whole, bit_getLsbD]; done
  | simp (disch := decide) only [encH, encG, encW, Fld.hd, Fld.gd, ftRnd, scopeSc, extract_append_low, extract_append_high, getLsbD_append_low, getLsbD_append_high, Nat.reduceSub, extract_whole, bit_getLsbD]; first | rfl | (simp; done)

theorem Laws.F.fsin (h : Hd) (dst : BitVec 10) (sa : BitVec 10) (bf : Bool) : Laws.F.Statement (.fsin h dst sa bf) := by
  refine ⟨fun c pre f hf hc ho => ?_, fun _ _ h => nomatch (show (none : Option (Slot × Slot)) = some _ from h)⟩
  change some (_, _) = some (_, _) at hf
  obtain ⟨rfl, rfl⟩ := Prod.mk.inj (Option.some.inj hf)
  rw [parse_4c _ _ rfl]
  first
  | done
  | simp (disch := decide) only [encH, encG, encW, Fld.hd, Fld.gd, ftRnd, scopeSc, extract_append_low, extract_append_high, getLsbD_append_low, getLsbD_append_high, Nat.reduceSub, extract_whole, bit_getLsbD]; done
  | simp (disch := decide) only [encH, encG, encW, Fld.hd, Fld.gd, ftRnd, scopeSc, extract_append_low, extract_append_high, getLsbD_append_low, getLsbD_append_high, Nat.reduceSub, extract_whole, bit_getLsbD]; first | rfl | (simp; done)

theorem Laws.F.fcos (h : Hd) (dst : BitVec 10) (sa : BitVec 10) (bf : Bool) : Laws.F.Statement (.fcos h dst sa bf) := by
  refine ⟨fun c pre f hf hc ho => ?_, fun _ _ h => nomatch (show (none : Option (Slot × Slot)) = some _ from h)⟩
  change some (_, _) = some (_, _) at hf
  obtain ⟨rfl, rfl⟩ := Prod.mk.inj (Option.some.inj hf)
  rw [parse_4d _ _ rfl]
  first
  | done
  | simp (disch := decide) only [encH, encG, encW, Fld.hd, Fld.gd, ftRnd, scopeSc, extract_append_low, extract_append_high, getLsbD_append_low, getLsbD_append_high, Nat.reduceSub, extract_whole, bit_getLsbD]; done
  | simp (disch := decide) only [encH, encG, encW, Fld.hd, Fld.gd, ftRnd, scopeSc, extract_append_low, extract_append_high, getLsbD_append_low, getLsbD_append_high, Nat.reduceSub, extract_whole, bit_getLsbD]; first | rfl | (simp; done)

theorem Laws.F.fdiv (h : Hd) (dst : BitVec 10) (sa : BitVec 10) (sb : Src) (bf : Bool) (rnd : BitVec 3) : Laws.F.Statement (.fdiv h dst sa sb bf rnd) := by
  refine ⟨fun c pre f hf hc ho => ?_, fun _ _ h => nomatch (show (none : Option (Slot × Slot)) = some _ from h)⟩
  change some (_, _) = some (_, _) at hf
  obtain ⟨rfl, rfl⟩ := Prod.mk.inj (Option.some.inj hf)
  rw [parse_4e _ _ rfl]
  rw [src_of_fields sb _ _ 0 rfl rfl rfl rfl]
  first
  | done
  | simp (disch := decide) only [encH, encG, encW, Fld.hd, Fld.gd, ftRnd, scopeSc, extract_append_low, extract_append_high, getLsbD_append_low, getLsbD_append_high, Nat.reduceSub, extract_whole, bit_getLsbD]; done
  | simp (disch := decide) only [encH, encG, encW, Fld.hd, Fld.gd, ftRnd, scopeSc, extract_append_low, extract_append_high, getLsbD_append_low, getLsbD_append_high, Nat.reduceSub, extract_whole, bit_getLsbD]; first | rfl | (simp; done)

theorem Laws.F.frnd (h : Hd) (dst : BitVec 10) (sa : BitVec 10) (bf : Bool) (rnd : BitVec 3) : Laws.F.Statement (.frnd h dst sa bf rnd) := by
  refine ⟨fun c pre f hf hc ho => ?_, fun _ _ h => nomatch (show (none : Option (Slot × Slot)) = some _ from h)⟩
  change some (_, _) = some (_, _) at hf
  obtain ⟨rfl, rfl⟩ := Prod.mk.inj (Option.some.inj hf)
  rw [parse_4f _ _ rfl]
  first
  | done
  | simp (disch := decide) only [encH, encG, encW, Fld.hd, Fld.gd, ftRnd, scopeSc, extract_append_low, extract_append_high, getLsbD_append_low, getLsbD_append_high, Nat.reduceSub, extract_whole, bit_getLsbD]; done
  | simp (disch := decide) only [encH, encG, encW, Fld.hd, Fld.gd, ftRnd, scopeSc, extract_append_low, extract_append_high, getLsbD_append_low, getLsbD_append_high, Nat.reduceSub, extract_whole, bit_getLsbD]; first | rfl | (simp; done)

theorem Laws.F.fclass (h : Hd) (dst : BitVec 10) (sa : BitVec 10) (bf : Bool) : Laws.F.Statement (.fclass h dst sa bf) := by
  refine ⟨fun c pre f hf hc ho => ?_, fun _ _ h => nomatch (show (none : Option (Slot × Slot)) = some _ from h)⟩
  change some (_, _) = some (_, _) at hf
  obtain ⟨rfl, rfl⟩ := Prod.mk.inj (Option.some.inj hf)
  rw [parse_50 _ _ rfl]
  first
  | done
  | simp (disch := decide) only [encH, encG, encW, Fld.hd, Fld.gd, ftRnd, scopeSc, extract_append_low, extract_append_high, getLsbD_append_low, getLsbD_append_high, Nat.reduceSub, extract_whole, bit_getLsbD]; done
  | simp (disch := decide) only [encH, encG, encW, Fld.hd, Fld.gd, ftRnd, scopeSc, extract_append_low, extract_append_high, getLsbD_append_low, getLsbD_append_high, Nat.reduceSub, extract_whole, bit_getLsbD]; first | rfl | (simp; done)

theorem Laws.F.fscale (h : Hd) (dst : BitVec 10) (sa : BitVec 10) (sb : Src) (bf : Bool) (rnd : BitVec 3) : Laws.F.Statement (.fscale h dst sa sb bf rnd) := by
  refine ⟨fun c pre f hf hc ho => ?_, fun _ _ h => nomatch (show (none : Option (Slot × Slot)) = some _ from h)⟩
  change some (_, _) = some (_, _) at hf
  obtain ⟨rfl, rfl⟩ := Prod.mk.inj (Option.some.inj hf)
  rw [parse_51 _ _ rfl]
  rw [src_of_fields sb _ _ 0 rfl rfl rfl rfl]
  first
  | done
  | simp (disch := decide) only [encH, encG, encW, Fld.hd, Fld.gd, ftRnd, scopeSc, extract_append_low, extract_append_high, getLsbD_append_low, getLsbD_append_high, Nat.reduceSub, extract_whole, bit_getLsbD]; done
  | simp (disch := decide) only [encH, encG, encW, Fld.hd, Fld.gd, ftRnd, scopeSc, extract_append_low, extract_append_high, getLsbD_append_low, getLsbD_append_high, Nat.reduceSub, extract_whole, bit_getLsbD]; first | rfl | (simp; done)

theorem Laws.F.ffrac (h : Hd) (dst : BitVec 10) (sa : BitVec 10) (bf : Bool) (rnd : BitVec 3) : Laws.F.Statement (.ffrac h dst sa bf rnd) := by
  refine ⟨fun c pre f hf hc ho => ?_, fun _ _ h => nomatch (show (none : Option (Slot × Slot)) = some _ from h)⟩
  change some (_, _) = some (_, _) at hf
  obtain ⟨rfl, rfl⟩ := Prod.mk.inj (Option.some.inj hf)
  rw [parse_52 _ _ rfl]
  first
  | done
  | simp (disch := decide) only [encH, encG, encW, Fld.hd, Fld.gd, ftRnd, scopeSc, extract_append_low, extract_append_high, getLsbD_append_low, getLsbD_append_high, Nat.reduceSub, extract_whole, bit_getLsbD]; done
  | simp (disch := decide) only [encH, encG, encW, Fld.hd, Fld.gd, ftRnd, scopeSc, extract_append_low, extract_append_high, getLsbD_append_low, getLsbD_append_high, Nat.reduceSub, extract_whole, bit_getLsbD]; first | rfl | (simp; done)

theorem Laws.F.fdot2 (h : Hd) (dst : BitVec 10) (sa : BitVec 10) (sb : Src) (sc : BitVec 10) (rnd : BitVec 3) : Laws.F.Statement (.fdot2 h dst sa sb sc rnd) := by
  refine ⟨fun c pre f hf hc ho => ?_, fun _ _ h => nomatch (show (none : Option (Slot × Slot)) = some _ from h)⟩
  change some (_, _) = some (_, _) at hf
  obtain ⟨rfl, rfl⟩ := Prod.mk.inj (Option.some.inj hf)
  rw [parse_53 _ _ rfl]
  have ho : (hOk c h && rH c h dst && rH c h sa && sH c h sb && notImm sb && rH c h sc) = true := ho
  have hs : notImm sb = true := by cases sb <;> simp_all [notImm]
  have hq := sc_of_notImm sb sc hs
  rw [src_of_fields sb _ _ sc rfl rfl rfl rfl]
  first
  | done
  | simp (disch := decide) only [encH, encG, encW, Fld.hd, Fld.gd, ftRnd, scopeSc, extract_append_low, extract_append_high, getLsbD_append_low, getLsbD_append_high, Nat.reduceSub, extract_whole, bit_getLsbD]; done
  | simp (disch := decide) only [encH, encG, encW, Fld.hd, Fld.gd, ftRnd, scopeSc, extract_append_low, extract_append_high, getLsbD_append_low, getLsbD_append_high, Nat.reduceSub, extract_whole, bit_getLsbD]; first | (rw [hq]; done) | (simp [hq]; done)

theorem Laws.F.cvt (h : Hd) (dst : BitVec 10) (sa : BitVec 10) (cv : BitVec 4) (rnd : BitVec 3) : Laws.F.Statement (.cvt h dst sa cv rnd) := by
  refine ⟨fun c pre f hf hc ho => ?_, fun _ _ h => nomatch (show (none : Option (Slot × Slot)) = some _ from h)⟩
  change some (_, _) = some (_, _) at hf
  obtain ⟨rfl, rfl⟩ := Prod.mk.inj (Option.some.inj hf)
  rw [parse_58 _ _ rfl]
  first
  | done
  | simp (disch := decide) only [encH, encG, encW, Fld.hd, Fld.gd, ftRnd, scopeSc, extract_append_low, extract_append_high, getLsbD_append_low, getLsbD_append_high, Nat.reduceSub, extract_whole, bit_getLsbD]; done
  | simp (disch := decide) only [encH, encG, encW, Fld.hd, Fld.gd, ftRnd, scopeSc, extract_append_low, extract_append_high, getLsbD_append_low, getLsbD_append_high, Nat.reduceSub, extract_whole, bit_getLsbD]; first | rfl | (simp; done)

theorem Laws.F.pack (h : Hd) (dst : BitVec 10) (sa : BitVec 10) (sb : Src) (pk : BitVec 3) (rnd : BitVec 3) : Laws.F.Statement (.pack h dst sa sb pk rnd) := by
  refine ⟨fun c pre f hf hc ho => ?_, fun _ _ h => nomatch (show (none : Option (Slot × Slot)) = some _ from h)⟩
  change some (_, _) = some (_, _) at hf
  obtain ⟨rfl, rfl⟩ := Prod.mk.inj (Option.some.inj hf)
  rw [parse_59 _ _ rfl]
  rw [src_of_fields sb _ _ 0 rfl rfl rfl rfl]
  first
  | done
  | simp (disch := decide) only [encH, encG, encW, Fld.hd, Fld.gd, ftRnd, scopeSc, extract_append_low, extract_append_high, getLsbD_append_low, getLsbD_append_high, Nat.reduceSub, extract_whole, bit_getLsbD]; done
  | simp (disch := decide) only [encH, encG, encW, Fld.hd, Fld.gd, ftRnd, scopeSc, extract_append_low, extract_append_high, getLsbD_append_low, getLsbD_append_high, Nat.reduceSub, extract_whole, bit_getLsbD]; first | rfl | (simp; done)

theorem Laws.F.unpk (h : Hd) (dst : BitVec 10) (sa : BitVec 10) (uk : BitVec 3) (el : BitVec 2) : Laws.F.Statement (.unpk h dst sa uk el) := by
  refine ⟨fun c pre f hf hc ho => ?_, fun _ _ h => nomatch (show (none : Option (Slot × Slot)) = some _ from h)⟩
  change some (_, _) = some (_, _) at hf
  obtain ⟨rfl, rfl⟩ := Prod.mk.inj (Option.some.inj hf)
  rw [parse_5a _ _ rfl]
  first
  | done
  | simp (disch := decide) only [encH, encG, encW, Fld.hd, Fld.gd, ftRnd, scopeSc, extract_append_low, extract_append_high, getLsbD_append_low, getLsbD_append_high, Nat.reduceSub, extract_whole, bit_getLsbD]; done
  | simp (disch := decide) only [encH, encG, encW, Fld.hd, Fld.gd, ftRnd, scopeSc, extract_append_low, extract_append_high, getLsbD_append_low, getLsbD_append_high, Nat.reduceSub, extract_whole, bit_getLsbD]; first | rfl | (simp; done)

theorem Laws.F.vote (g : Gd) (dst : BitVec 10) (sa : BitVec 10) (vop : BitVec 2) : Laws.F.Statement (.vote g dst sa vop) := by
  refine ⟨fun c pre f hf hc ho => ?_, fun _ _ h => nomatch (show (none : Option (Slot × Slot)) = some _ from h)⟩
  change some (_, _) = some (_, _) at hf
  obtain ⟨rfl, rfl⟩ := Prod.mk.inj (Option.some.inj hf)
  rw [parse_5c _ _ rfl]
  first
  | done
  | simp (disch := decide) only [encH, encG, encW, Fld.hd, Fld.gd, ftRnd, scopeSc, extract_append_low, extract_append_high, getLsbD_append_low, getLsbD_append_high, Nat.reduceSub, extract_whole, bit_getLsbD]; done
  | simp (disch := decide) only [encH, encG, encW, Fld.hd, Fld.gd, ftRnd, scopeSc, extract_append_low, extract_append_high, getLsbD_append_low, getLsbD_append_high, Nat.reduceSub, extract_whole, bit_getLsbD]; first | rfl | (simp; done)

theorem Laws.F.shfl (g : Gd) (dst : BitVec 10) (sa : BitVec 10) (sb : Src) (segl : BitVec 3) (sop : BitVec 2) : Laws.F.Statement (.shfl g dst sa sb segl sop) := by
  refine ⟨fun c pre f hf hc ho => ?_, fun _ _ h => nomatch (show (none : Option (Slot × Slot)) = some _ from h)⟩
  change some (_, _) = some (_, _) at hf
  obtain ⟨rfl, rfl⟩ := Prod.mk.inj (Option.some.inj hf)
  rw [parse_5d _ _ rfl]
  rw [src_of_fields sb _ _ 0 rfl rfl rfl rfl]
  first
  | done
  | simp (disch := decide) only [encH, encG, encW, Fld.hd, Fld.gd, ftRnd, scopeSc, extract_append_low, extract_append_high, getLsbD_append_low, getLsbD_append_high, Nat.reduceSub, extract_whole, bit_getLsbD]; done
  | simp (disch := decide) only [encH, encG, encW, Fld.hd, Fld.gd, ftRnd, scopeSc, extract_append_low, extract_append_high, getLsbD_append_low, getLsbD_append_high, Nat.reduceSub, extract_whole, bit_getLsbD]; first | rfl | (simp; done)

theorem Laws.F.prmt (g : Gd) (dst : BitVec 10) (sa : BitVec 10) (sb : Src) (sc : BitVec 10) : Laws.F.Statement (.prmt g dst sa sb sc) := by
  refine ⟨fun c pre f hf hc ho => ?_, fun _ _ h => nomatch (show (none : Option (Slot × Slot)) = some _ from h)⟩
  change some (_, _) = some (_, _) at hf
  obtain ⟨rfl, rfl⟩ := Prod.mk.inj (Option.some.inj hf)
  rw [parse_5e _ _ rfl]
  have ho : (gOk c g && vGrp c dst 1 && vGrp c sa 1 && sH c ⟨g.prd, g.png, false⟩ sb && imm16 sb && (if notImm sb then vGrp c sc 1 else sc == 0)) = true := ho
  have hs : notImm sb = true ∨ sc = 0 := by cases sb <;> simp_all [notImm]
  rw [src_of_fields sb _ _ sc rfl rfl rfl rfl, scOf_of_fields sb _ sc rfl rfl hs]
  first
  | done
  | simp (disch := decide) only [encH, encG, encW, Fld.hd, Fld.gd, ftRnd, scopeSc, extract_append_low, extract_append_high, getLsbD_append_low, getLsbD_append_high, Nat.reduceSub, extract_whole, bit_getLsbD]; done
  | simp (disch := decide) only [encH, encG, encW, Fld.hd, Fld.gd, ftRnd, scopeSc, extract_append_low, extract_append_high, getLsbD_append_low, getLsbD_append_high, Nat.reduceSub, extract_whole, bit_getLsbD]; first | rfl | (simp; done)

theorem Laws.F.redg (g : Gd) (dst : BitVec 10) (sa : BitVec 10) (rop : BitVec 3) (rty : BitVec 2) (rnd : BitVec 3) : Laws.F.Statement (.redg g dst sa rop rty rnd) := by
  refine ⟨fun c pre f hf hc ho => ?_, fun _ _ h => nomatch (show (none : Option (Slot × Slot)) = some _ from h)⟩
  change some (_, _) = some (_, _) at hf
  obtain ⟨rfl, rfl⟩ := Prod.mk.inj (Option.some.inj hf)
  rw [parse_5f _ _ rfl]
  first
  | done
  | simp (disch := decide) only [encH, encG, encW, Fld.hd, Fld.gd, ftRnd, scopeSc, extract_append_low, extract_append_high, getLsbD_append_low, getLsbD_append_high, Nat.reduceSub, extract_whole, bit_getLsbD]; done
  | simp (disch := decide) only [encH, encG, encW, Fld.hd, Fld.gd, ftRnd, scopeSc, extract_append_low, extract_append_high, getLsbD_append_low, getLsbD_append_high, Nat.reduceSub, extract_whole, bit_getLsbD]; first | rfl | (simp; done)

theorem Laws.F.scan (g : Gd) (dst : BitVec 10) (sa : BitVec 10) (rop : BitVec 3) (rty : BitVec 2) (rnd : BitVec 3) (excl : Bool) : Laws.F.Statement (.scan g dst sa rop rty rnd excl) := by
  refine ⟨fun c pre f hf hc ho => ?_, fun _ _ h => nomatch (show (none : Option (Slot × Slot)) = some _ from h)⟩
  change some (_, _) = some (_, _) at hf
  obtain ⟨rfl, rfl⟩ := Prod.mk.inj (Option.some.inj hf)
  rw [parse_60 _ _ rfl]
  first
  | done
  | simp (disch := decide) only [encH, encG, encW, Fld.hd, Fld.gd, ftRnd, scopeSc, extract_append_low, extract_append_high, getLsbD_append_low, getLsbD_append_high, Nat.reduceSub, extract_whole, bit_getLsbD]; done
  | simp (disch := decide) only [encH, encG, encW, Fld.hd, Fld.gd, ftRnd, scopeSc, extract_append_low, extract_append_high, getLsbD_append_low, getLsbD_append_high, Nat.reduceSub, extract_whole, bit_getLsbD]; first | rfl | (simp; done)

theorem Laws.F.matchv (g : Gd) (dst : BitVec 10) (sa : BitVec 10) (mop : Bool) : Laws.F.Statement (.matchv g dst sa mop) := by
  refine ⟨fun c pre f hf hc ho => ?_, fun _ _ h => nomatch (show (none : Option (Slot × Slot)) = some _ from h)⟩
  change some (_, _) = some (_, _) at hf
  obtain ⟨rfl, rfl⟩ := Prod.mk.inj (Option.some.inj hf)
  rw [parse_61 _ _ rfl]
  first
  | done
  | simp (disch := decide) only [encH, encG, encW, Fld.hd, Fld.gd, ftRnd, scopeSc, extract_append_low, extract_append_high, getLsbD_append_low, getLsbD_append_high, Nat.reduceSub, extract_whole, bit_getLsbD]; done
  | simp (disch := decide) only [encH, encG, encW, Fld.hd, Fld.gd, ftRnd, scopeSc, extract_append_low, extract_append_high, getLsbD_append_low, getLsbD_append_high, Nat.reduceSub, extract_whole, bit_getLsbD]; first | rfl | (simp; done)

theorem Laws.F.ld (g : Gd) (dst : BitVec 10) (sa : BitVec 10) (off : MOff) (scope : BitVec 3) (pol : BitVec 3) (now : Bool) (ord : BitVec 3) (ty : BitVec 5) (bpm : Bpm) : Laws.F.Statement (.ld g dst sa off scope pol now ord ty bpm) := by
  refine ⟨fun c pre f hf hc ho => ?_, fun _ _ h => nomatch (show (none : Option (Slot × Slot)) = some _ from h)⟩
  change some (_, _) = some (_, _) at hf
  obtain ⟨rfl, rfl⟩ := Prod.mk.inj (Option.some.inj hf)
  rw [parse_64 _ _ rfl]
  have ho : (gOk c g && rM c dst (tyRegs ty) && r6 sa && moffOk c off bpm && (ord != 0 || scope == 0)) = true := ho
  have hm : moffOk c off bpm = true := by simp_all
  have hx := fun f h1 h2 => moff_of_fields off bpm f c h1 h2 hm
  have hb := bpm_of_moff off bpm c hm
  first
  | done
  | simp (disch := decide) only [encH, encG, encW, Fld.hd, Fld.gd, ftRnd, scopeSc, extract_append_low, extract_append_high, getLsbD_append_low, getLsbD_append_high, Nat.reduceSub, extract_whole, bit_getLsbD]; done
  | simp (disch := decide) only [encH, encG, encW, Fld.hd, Fld.gd, ftRnd, scopeSc, extract_append_low, extract_append_high, getLsbD_append_low, getLsbD_append_high, Nat.reduceSub, extract_whole, bit_getLsbD]; (rw [hx]; all_goals first | rfl | (rw [hb]; done) | (rw [hb]; rfl) | (simp (disch := decide) only [encG, encW, scopeSc, extract_append_low, extract_append_high, getLsbD_append_low, getLsbD_append_high, Nat.reduceSub, extract_whole, bit_getLsbD]; done))

theorem Laws.F.st (g : Gd) (dst : BitVec 10) (sa : BitVec 10) (off : MOff) (scope : BitVec 3) (pol : BitVec 3) (rnd : BitVec 3) (ord : BitVec 3) (ty : BitVec 5) (bpm : Bpm) : Laws.F.Statement (.st g dst sa off scope pol rnd ord ty bpm) := by
  refine ⟨fun c pre f hf hc ho => ?_, fun _ _ h => nomatch (show (none : Option (Slot × Slot)) = some _ from h)⟩
  change some (_, _) = some (_, _) at hf
  obtain ⟨rfl, rfl⟩ := Prod.mk.inj (Option.some.inj hf)
  rw [parse_65 _ _ rfl]
  have ho : (gOk c g && rM c dst (tyRegs ty) && r6 sa && moffOk c off bpm && (ord != 0 || scope == 0) && (tyNarrow ty || rnd == 0)) = true := ho
  have hm : moffOk c off bpm = true := by simp_all
  have hx := fun f h1 h2 => moff_of_fields off bpm f c h1 h2 hm
  have hb := bpm_of_moff off bpm c hm
  first
  | done
  | simp (disch := decide) only [encH, encG, encW, Fld.hd, Fld.gd, ftRnd, scopeSc, extract_append_low, extract_append_high, getLsbD_append_low, getLsbD_append_high, Nat.reduceSub, extract_whole, bit_getLsbD]; done
  | simp (disch := decide) only [encH, encG, encW, Fld.hd, Fld.gd, ftRnd, scopeSc, extract_append_low, extract_append_high, getLsbD_append_low, getLsbD_append_high, Nat.reduceSub, extract_whole, bit_getLsbD]; (rw [hx]; all_goals first | rfl | (rw [hb]; done) | (rw [hb]; rfl) | (simp (disch := decide) only [encG, encW, scopeSc, extract_append_low, extract_append_high, getLsbD_append_low, getLsbD_append_high, Nat.reduceSub, extract_whole, bit_getLsbD]; done))

theorem Laws.F.sld (dst : BitVec 10) (sa : BitVec 10) (off : MOff) (scope : BitVec 3) (pol : BitVec 3) (now : Bool) (ord : BitVec 3) (ty : BitVec 5) (bpm : Bpm) : Laws.F.Statement (.sld dst sa off scope pol now ord ty bpm) := by
  refine ⟨fun c pre f hf hc ho => ?_, fun _ _ h => nomatch (show (none : Option (Slot × Slot)) = some _ from h)⟩
  change some (_, _) = some (_, _) at hf
  obtain ⟨rfl, rfl⟩ := Prod.mk.inj (Option.some.inj hf)
  rw [parse_66 _ _ rfl]
  have ho : (r6 dst && r6 sa && uoffOk off bpm && (ord != 0 || scope == 0)) = true := ho
  have hm : uoffOk off bpm = true := by simp_all
  have hx := fun f h1 => uoff_of_fields off bpm f h1 hm
  have hb := bpm_of_uoff off bpm hm
  first
  | done
  | simp (disch := decide) only [encH, encG, encW, Fld.hd, Fld.gd, ftRnd, scopeSc, extract_append_low, extract_append_high, getLsbD_append_low, getLsbD_append_high, Nat.reduceSub, extract_whole, bit_getLsbD]; done
  | simp (disch := decide) only [encH, encG, encW, Fld.hd, Fld.gd, ftRnd, scopeSc, extract_append_low, extract_append_high, getLsbD_append_low, getLsbD_append_high, Nat.reduceSub, extract_whole, bit_getLsbD]; (rw [hx]; all_goals first | rfl | (rw [hb]; done) | (rw [hb]; rfl) | (simp (disch := decide) only [encG, encW, scopeSc, extract_append_low, extract_append_high, getLsbD_append_low, getLsbD_append_high, Nat.reduceSub, extract_whole, bit_getLsbD]; done))

theorem Laws.F.sst (dst : BitVec 10) (sa : BitVec 10) (off : MOff) (scope : BitVec 3) (pol : BitVec 3) (ord : BitVec 3) (ty : BitVec 5) (bpm : Bpm) : Laws.F.Statement (.sst dst sa off scope pol ord ty bpm) := by
  refine ⟨fun c pre f hf hc ho => ?_, fun _ _ h => nomatch (show (none : Option (Slot × Slot)) = some _ from h)⟩
  change some (_, _) = some (_, _) at hf
  obtain ⟨rfl, rfl⟩ := Prod.mk.inj (Option.some.inj hf)
  rw [parse_67 _ _ rfl]
  have ho : (r6 dst && r6 sa && uoffOk off bpm && (ord != 0 || scope == 0)) = true := ho
  have hm : uoffOk off bpm = true := by simp_all
  have hx := fun f h1 => uoff_of_fields off bpm f h1 hm
  have hb := bpm_of_uoff off bpm hm
  first
  | done
  | simp (disch := decide) only [encH, encG, encW, Fld.hd, Fld.gd, ftRnd, scopeSc, extract_append_low, extract_append_high, getLsbD_append_low, getLsbD_append_high, Nat.reduceSub, extract_whole, bit_getLsbD]; done
  | simp (disch := decide) only [encH, encG, encW, Fld.hd, Fld.gd, ftRnd, scopeSc, extract_append_low, extract_append_high, getLsbD_append_low, getLsbD_append_high, Nat.reduceSub, extract_whole, bit_getLsbD]; (rw [hx]; all_goals first | rfl | (rw [hb]; done) | (rw [hb]; rfl) | (simp (disch := decide) only [encG, encW, scopeSc, extract_append_low, extract_append_high, getLsbD_append_low, getLsbD_append_high, Nat.reduceSub, extract_whole, bit_getLsbD]; done))

theorem Laws.F.atom (g : Gd) (dst : BitVec 10) (sa : BitVec 10) (off : MOff) (scope : BitVec 3) (aop : BitVec 3) (ord : BitVec 3) (ty : BitVec 5) (bpm : Bpm) : Laws.F.Statement (.atom g dst sa off scope aop ord ty bpm) := by
  refine ⟨fun c pre f hf hc ho => ?_, fun _ _ h => nomatch (show (none : Option (Slot × Slot)) = some _ from h)⟩
  change some (_, _) = some (_, _) at hf
  obtain ⟨rfl, rfl⟩ := Prod.mk.inj (Option.some.inj hf)
  rw [parse_68 _ _ rfl]
  have ho : (gOk c g && (if c.arm then r6 dst && (aop != 1 || dst.toNat % 2 == 0) else vGrp c dst (atomRegs aop ty)) && r6 sa && moffOk c off bpm) = true := ho
  have hm : moffOk c off bpm = true := by simp_all
  have hx := fun f h1 h2 => moff_of_fields off bpm f c h1 h2 hm
  have hb := bpm_of_moff off bpm c hm
  first
  | done
  | simp (disch := decide) only [encH, encG, encW, Fld.hd, Fld.gd, ftRnd, scopeSc, extract_append_low, extract_append_high, getLsbD_append_low, getLsbD_append_high, Nat.reduceSub, extract_whole, bit_getLsbD]; done
  | simp (disch := decide) only [encH, encG, encW, Fld.hd, Fld.gd, ftRnd, scopeSc, extract_append_low, extract_append_high, getLsbD_append_low, getLsbD_append_high, Nat.reduceSub, extract_whole, bit_getLsbD]; (rw [hx]; all_goals first | rfl | (rw [hb]; done) | (rw [hb]; rfl) | (simp (disch := decide) only [encG, encW, scopeSc, extract_append_low, extract_append_high, getLsbD_append_low, getLsbD_append_high, Nat.reduceSub, extract_whole, bit_getLsbD]; done))

theorem Laws.F.satom (dst : BitVec 10) (sa : BitVec 10) (off : MOff) (scope : BitVec 3) (aop : BitVec 3) (ord : BitVec 3) (ty : BitVec 5) (bpm : Bpm) : Laws.F.Statement (.satom dst sa off scope aop ord ty bpm) := by
  refine ⟨fun c pre f hf hc ho => ?_, fun _ _ h => nomatch (show (none : Option (Slot × Slot)) = some _ from h)⟩
  change some (_, _) = some (_, _) at hf
  obtain ⟨rfl, rfl⟩ := Prod.mk.inj (Option.some.inj hf)
  rw [parse_69 _ _ rfl]
  have ho : (r6 dst && (aop != 1 || dst.toNat % 2 == 0) && r6 sa && uoffOk off bpm) = true := ho
  have hm : uoffOk off bpm = true := by simp_all
  have hx := fun f h1 => uoff_of_fields off bpm f h1 hm
  have hb := bpm_of_uoff off bpm hm
  first
  | done
  | simp (disch := decide) only [encH, encG, encW, Fld.hd, Fld.gd, ftRnd, scopeSc, extract_append_low, extract_append_high, getLsbD_append_low, getLsbD_append_high, Nat.reduceSub, extract_whole, bit_getLsbD]; done
  | simp (disch := decide) only [encH, encG, encW, Fld.hd, Fld.gd, ftRnd, scopeSc, extract_append_low, extract_append_high, getLsbD_append_low, getLsbD_append_high, Nat.reduceSub, extract_whole, bit_getLsbD]; (rw [hx]; all_goals first | rfl | (rw [hb]; done) | (rw [hb]; rfl) | (simp (disch := decide) only [encG, encW, scopeSc, extract_append_low, extract_append_high, getLsbD_append_low, getLsbD_append_high, Nat.reduceSub, extract_whole, bit_getLsbD]; done))

theorem Laws.F.srel (dst : BitVec 10) (sa : BitVec 10) (off : MOff) (scope : BitVec 3) (fresh : Bool) (sop : BitVec 2) (w : Bool) : Laws.F.Statement (.srel dst sa off scope fresh sop w) := by
  refine ⟨fun c pre f hf hc ho => ?_, fun _ _ h => nomatch (show (none : Option (Slot × Slot)) = some _ from h)⟩
  change some (_, _) = some (_, _) at hf
  obtain ⟨rfl, rfl⟩ := Prod.mk.inj (Option.some.inj hf)
  rw [parse_6a _ _ rfl]
  have ho : (r6 dst && r6 sa && uoffOk off none) = true := ho
  have hm : uoffOk off none = true := by simp_all
  have hx := fun f h1 => uoff_of_fields off none f h1 hm
  have hb := bpm_of_uoff off none hm
  first
  | done
  | simp (disch := decide) only [encH, encG, encW, Fld.hd, Fld.gd, ftRnd, scopeSc, extract_append_low, extract_append_high, getLsbD_append_low, getLsbD_append_high, Nat.reduceSub, extract_whole, bit_getLsbD]; done
  | simp (disch := decide) only [encH, encG, encW, Fld.hd, Fld.gd, ftRnd, scopeSc, extract_append_low, extract_append_high, getLsbD_append_low, getLsbD_append_high, Nat.reduceSub, extract_whole, bit_getLsbD]; (rw [hx]; all_goals first | rfl | (rw [hb]; done) | (rw [hb]; rfl) | (simp (disch := decide) only [encG, encW, scopeSc, extract_append_low, extract_append_high, getLsbD_append_low, getLsbD_append_high, Nat.reduceSub, extract_whole, bit_getLsbD]; done))

theorem Laws.F.sacq (dst : BitVec 10) (sa : BitVec 10) (off : MOff) (scope : BitVec 3) (clr : Bool) (w : Bool) : Laws.F.Statement (.sacq dst sa off scope clr w) := by
  refine ⟨fun c pre f hf hc ho => ?_, fun _ _ h => nomatch (show (none : Option (Slot × Slot)) = some _ from h)⟩
  change some (_, _) = some (_, _) at hf
  obtain ⟨rfl, rfl⟩ := Prod.mk.inj (Option.some.inj hf)
  rw [parse_6b _ _ rfl]
  have ho : (r6 dst && r6 sa && uoffOk off none) = true := ho
  have hm : uoffOk off none = true := by simp_all
  have hx := fun f h1 => uoff_of_fields off none f h1 hm
  have hb := bpm_of_uoff off none hm
  first
  | done
  | simp (disch := decide) only [encH, encG, encW, Fld.hd, Fld.gd, ftRnd, scopeSc, extract_append_low, extract_append_high, getLsbD_append_low, getLsbD_append_high, Nat.reduceSub, extract_whole, bit_getLsbD]; done
  | simp (disch := decide) only [encH, encG, encW, Fld.hd, Fld.gd, ftRnd, scopeSc, extract_append_low, extract_append_high, getLsbD_append_low, getLsbD_append_high, Nat.reduceSub, extract_whole, bit_getLsbD]; (rw [hx]; all_goals first | rfl | (rw [hb]; done) | (rw [hb]; rfl) | (simp (disch := decide) only [encG, encW, scopeSc, extract_append_low, extract_append_high, getLsbD_append_low, getLsbD_append_high, Nat.reduceSub, extract_whole, bit_getLsbD]; done))

theorem Laws.F.fence (scope : BitVec 3) (ord : BitVec 3) : Laws.F.Statement (.fence scope ord) := by
  refine ⟨fun c pre f hf hc ho => ?_, fun _ _ h => nomatch (show (none : Option (Slot × Slot)) = some _ from h)⟩
  change some (_, _) = some (_, _) at hf
  obtain ⟨rfl, rfl⟩ := Prod.mk.inj (Option.some.inj hf)
  rw [parse_6c _ _ rfl]
  first
  | done
  | simp (disch := decide) only [encH, encG, encW, Fld.hd, Fld.gd, ftRnd, scopeSc, extract_append_low, extract_append_high, getLsbD_append_low, getLsbD_append_high, Nat.reduceSub, extract_whole, bit_getLsbD]; done
  | simp (disch := decide) only [encH, encG, encW, Fld.hd, Fld.gd, ftRnd, scopeSc, extract_append_low, extract_append_high, getLsbD_append_low, getLsbD_append_high, Nat.reduceSub, extract_whole, bit_getLsbD]; first | rfl | (simp; done)

theorem Laws.F.wait (ldn : BitVec 6) (stn : BitVec 6) (cpn : BitVec 6) (mxn : BitVec 6) : Laws.F.Statement (.wait ldn stn cpn mxn) := by
  refine ⟨fun c pre f hf hc ho => ?_, fun _ _ h => nomatch (show (none : Option (Slot × Slot)) = some _ from h)⟩
  change some (_, _) = some (_, _) at hf
  obtain ⟨rfl, rfl⟩ := Prod.mk.inj (Option.some.inj hf)
  rw [parse_6d _ _ rfl]
  first
  | done
  | simp (disch := decide) only [encH, encG, encW, Fld.hd, Fld.gd, ftRnd, scopeSc, extract_append_low, extract_append_high, getLsbD_append_low, getLsbD_append_high, Nat.reduceSub, extract_whole, bit_getLsbD]; done
  | simp (disch := decide) only [encH, encG, encW, Fld.hd, Fld.gd, ftRnd, scopeSc, extract_append_low, extract_append_high, getLsbD_append_low, getLsbD_append_high, Nat.reduceSub, extract_whole, bit_getLsbD]; first | rfl | (simp; done)

theorem Laws.F.prf (g : Gd) (sa : BitVec 10) (off : MOff) (lvl : Bool) : Laws.F.Statement (.prf g sa off lvl) := by
  refine ⟨fun c pre f hf hc ho => ?_, fun _ _ h => nomatch (show (none : Option (Slot × Slot)) = some _ from h)⟩
  change some (_, _) = some (_, _) at hf
  obtain ⟨rfl, rfl⟩ := Prod.mk.inj (Option.some.inj hf)
  rw [parse_6e _ _ rfl]
  have ho : (gOk c g && r6 sa && moffOk c off none) = true := ho
  have hm : moffOk c off none = true := by simp_all
  have hx := fun f h1 h2 => moff_of_fields off none f c h1 h2 hm
  have hb := bpm_of_moff off none c hm
  first
  | done
  | simp (disch := decide) only [encH, encG, encW, Fld.hd, Fld.gd, ftRnd, scopeSc, extract_append_low, extract_append_high, getLsbD_append_low, getLsbD_append_high, Nat.reduceSub, extract_whole, bit_getLsbD]; done
  | simp (disch := decide) only [encH, encG, encW, Fld.hd, Fld.gd, ftRnd, scopeSc, extract_append_low, extract_append_high, getLsbD_append_low, getLsbD_append_high, Nat.reduceSub, extract_whole, bit_getLsbD]; (rw [hx]; all_goals first | rfl | (rw [hb]; done) | (rw [hb]; rfl) | (simp (disch := decide) only [encG, encW, scopeSc, extract_append_low, extract_append_high, getLsbD_append_low, getLsbD_append_high, Nat.reduceSub, extract_whole, bit_getLsbD]; done))

theorem Laws.F.cmoWb (g : Gd) (sa : BitVec 10) (off : MOff) (scope : BitVec 3) : Laws.F.Statement (.cmoWb g sa off scope) := by
  refine ⟨fun c pre f hf hc ho => ?_, fun _ _ h => nomatch (show (none : Option (Slot × Slot)) = some _ from h)⟩
  change some (_, _) = some (_, _) at hf
  obtain ⟨rfl, rfl⟩ := Prod.mk.inj (Option.some.inj hf)
  rw [parse_6f _ _ rfl]
  have ho : (gOk c g && r6 sa && moffOk c off none) = true := ho
  have hm : moffOk c off none = true := by simp_all
  have hx := fun f h1 h2 => moff_of_fields off none f c h1 h2 hm
  have hb := bpm_of_moff off none c hm
  first
  | done
  | simp (disch := decide) only [encH, encG, encW, Fld.hd, Fld.gd, ftRnd, scopeSc, extract_append_low, extract_append_high, getLsbD_append_low, getLsbD_append_high, Nat.reduceSub, extract_whole, bit_getLsbD]; done
  | simp (disch := decide) only [encH, encG, encW, Fld.hd, Fld.gd, ftRnd, scopeSc, extract_append_low, extract_append_high, getLsbD_append_low, getLsbD_append_high, Nat.reduceSub, extract_whole, bit_getLsbD]; (rw [hx]; all_goals first | rfl | (rw [hb]; done) | (rw [hb]; rfl) | (simp (disch := decide) only [encG, encW, scopeSc, extract_append_low, extract_append_high, getLsbD_append_low, getLsbD_append_high, Nat.reduceSub, extract_whole, bit_getLsbD]; done))

theorem Laws.F.cmoWbinv (g : Gd) (sa : BitVec 10) (off : MOff) (scope : BitVec 3) : Laws.F.Statement (.cmoWbinv g sa off scope) := by
  refine ⟨fun c pre f hf hc ho => ?_, fun _ _ h => nomatch (show (none : Option (Slot × Slot)) = some _ from h)⟩
  change some (_, _) = some (_, _) at hf
  obtain ⟨rfl, rfl⟩ := Prod.mk.inj (Option.some.inj hf)
  rw [parse_6f _ _ rfl]
  have ho : (gOk c g && r6 sa && moffOk c off none) = true := ho
  have hm : moffOk c off none = true := by simp_all
  have hx := fun f h1 h2 => moff_of_fields off none f c h1 h2 hm
  have hb := bpm_of_moff off none c hm
  first
  | done
  | simp (disch := decide) only [encH, encG, encW, Fld.hd, Fld.gd, ftRnd, scopeSc, extract_append_low, extract_append_high, getLsbD_append_low, getLsbD_append_high, Nat.reduceSub, extract_whole, bit_getLsbD]; done
  | simp (disch := decide) only [encH, encG, encW, Fld.hd, Fld.gd, ftRnd, scopeSc, extract_append_low, extract_append_high, getLsbD_append_low, getLsbD_append_high, Nat.reduceSub, extract_whole, bit_getLsbD]; (rw [hx]; all_goals first | rfl | (rw [hb]; done) | (rw [hb]; rfl) | (simp (disch := decide) only [encG, encW, scopeSc, extract_append_low, extract_append_high, getLsbD_append_low, getLsbD_append_high, Nat.reduceSub, extract_whole, bit_getLsbD]; done))

theorem Laws.F.cmoIinv (g : Gd) (sa : BitVec 10) (off : MOff) (scope : BitVec 3) : Laws.F.Statement (.cmoIinv g sa off scope) := by
  refine ⟨fun c pre f hf hc ho => ?_, fun _ _ h => nomatch (show (none : Option (Slot × Slot)) = some _ from h)⟩
  change some (_, _) = some (_, _) at hf
  obtain ⟨rfl, rfl⟩ := Prod.mk.inj (Option.some.inj hf)
  rw [parse_6f _ _ rfl]
  have ho : (gOk c g && r6 sa && moffOk c off none) = true := ho
  have hm : moffOk c off none = true := by simp_all
  have hx := fun f h1 h2 => moff_of_fields off none f c h1 h2 hm
  have hb := bpm_of_moff off none c hm
  first
  | done
  | simp (disch := decide) only [encH, encG, encW, Fld.hd, Fld.gd, ftRnd, scopeSc, extract_append_low, extract_append_high, getLsbD_append_low, getLsbD_append_high, Nat.reduceSub, extract_whole, bit_getLsbD]; done
  | simp (disch := decide) only [encH, encG, encW, Fld.hd, Fld.gd, ftRnd, scopeSc, extract_append_low, extract_append_high, getLsbD_append_low, getLsbD_append_high, Nat.reduceSub, extract_whole, bit_getLsbD]; (rw [hx]; all_goals first | rfl | (rw [hb]; done) | (rw [hb]; rfl) | (simp (disch := decide) only [encG, encW, scopeSc, extract_append_low, extract_append_high, getLsbD_append_low, getLsbD_append_high, Nat.reduceSub, extract_whole, bit_getLsbD]; done))

theorem Laws.F.dcf (sa : BitVec 10) (sb : BitVec 10) (scope : BitVec 3) : Laws.F.Statement (.dcf sa sb scope) := by
  refine ⟨fun c pre f hf hc ho => ?_, fun _ _ h => nomatch (show (none : Option (Slot × Slot)) = some _ from h)⟩
  change some (_, _) = some (_, _) at hf
  obtain ⟨rfl, rfl⟩ := Prod.mk.inj (Option.some.inj hf)
  rw [parse_70 _ _ rfl]
  first
  | done
  | simp (disch := decide) only [encH, encG, encW, Fld.hd, Fld.gd, ftRnd, scopeSc, extract_append_low, extract_append_high, getLsbD_append_low, getLsbD_append_high, Nat.reduceSub, extract_whole, bit_getLsbD]; done
  | simp (disch := decide) only [encH, encG, encW, Fld.hd, Fld.gd, ftRnd, scopeSc, extract_append_low, extract_append_high, getLsbD_append_low, getLsbD_append_high, Nat.reduceSub, extract_whole, bit_getLsbD]; first | rfl | (simp; done)

theorem Laws.F.pclr (dst : BitVec 10) (sa : BitVec 10) (sb : BitVec 10) : Laws.F.Statement (.pclr dst sa sb) := by
  refine ⟨fun c pre f hf hc ho => ?_, fun _ _ h => nomatch (show (none : Option (Slot × Slot)) = some _ from h)⟩
  change some (_, _) = some (_, _) at hf
  obtain ⟨rfl, rfl⟩ := Prod.mk.inj (Option.some.inj hf)
  rw [parse_71 _ _ rfl]
  first
  | done
  | simp (disch := decide) only [encH, encG, encW, Fld.hd, Fld.gd, ftRnd, scopeSc, extract_append_low, extract_append_high, getLsbD_append_low, getLsbD_append_high, Nat.reduceSub, extract_whole, bit_getLsbD]; done
  | simp (disch := decide) only [encH, encG, encW, Fld.hd, Fld.gd, ftRnd, scopeSc, extract_append_low, extract_append_high, getLsbD_append_low, getLsbD_append_high, Nat.reduceSub, extract_whole, bit_getLsbD]; first | rfl | (simp; done)

theorem Laws.F.cbarWait (dst : BitVec 10) (sa : BitVec 10) (sb : BitVec 10) (scope : BitVec 3) : Laws.F.Statement (.cbarWait dst sa sb scope) := by
  refine ⟨fun c pre f hf hc ho => ?_, fun _ _ h => nomatch (show (none : Option (Slot × Slot)) = some _ from h)⟩
  change some (_, _) = some (_, _) at hf
  obtain ⟨rfl, rfl⟩ := Prod.mk.inj (Option.some.inj hf)
  rw [parse_72 _ _ rfl]
  first
  | done
  | simp (disch := decide) only [encH, encG, encW, Fld.hd, Fld.gd, ftRnd, scopeSc, extract_append_low, extract_append_high, getLsbD_append_low, getLsbD_append_high, Nat.reduceSub, extract_whole, bit_getLsbD]; done
  | simp (disch := decide) only [encH, encG, encW, Fld.hd, Fld.gd, ftRnd, scopeSc, extract_append_low, extract_append_high, getLsbD_append_low, getLsbD_append_high, Nat.reduceSub, extract_whole, bit_getLsbD]; first | rfl | (simp; done)

theorem Laws.F.cbarTest (dst : BitVec 10) (sa : BitVec 10) (sb : BitVec 10) (scope : BitVec 3) : Laws.F.Statement (.cbarTest dst sa sb scope) := by
  refine ⟨fun c pre f hf hc ho => ?_, fun _ _ h => nomatch (show (none : Option (Slot × Slot)) = some _ from h)⟩
  change some (_, _) = some (_, _) at hf
  obtain ⟨rfl, rfl⟩ := Prod.mk.inj (Option.some.inj hf)
  rw [parse_72 _ _ rfl]
  first
  | done
  | simp (disch := decide) only [encH, encG, encW, Fld.hd, Fld.gd, ftRnd, scopeSc, extract_append_low, extract_append_high, getLsbD_append_low, getLsbD_append_high, Nat.reduceSub, extract_whole, bit_getLsbD]; done
  | simp (disch := decide) only [encH, encG, encW, Fld.hd, Fld.gd, ftRnd, scopeSc, extract_append_low, extract_append_high, getLsbD_append_low, getLsbD_append_high, Nat.reduceSub, extract_whole, bit_getLsbD]; first | rfl | (simp; done)

theorem Laws.F.cbarArm (sa : BitVec 10) (sb : BitVec 10) (scope : BitVec 3) : Laws.F.Statement (.cbarArm sa sb scope) := by
  refine ⟨fun c pre f hf hc ho => ?_, fun _ _ h => nomatch (show (none : Option (Slot × Slot)) = some _ from h)⟩
  change some (_, _) = some (_, _) at hf
  obtain ⟨rfl, rfl⟩ := Prod.mk.inj (Option.some.inj hf)
  rw [parse_72 _ _ rfl]
  first
  | done
  | simp (disch := decide) only [encH, encG, encW, Fld.hd, Fld.gd, ftRnd, scopeSc, extract_append_low, extract_append_high, getLsbD_append_low, getLsbD_append_high, Nat.reduceSub, extract_whole, bit_getLsbD]; done
  | simp (disch := decide) only [encH, encG, encW, Fld.hd, Fld.gd, ftRnd, scopeSc, extract_append_low, extract_append_high, getLsbD_append_low, getLsbD_append_high, Nat.reduceSub, extract_whole, bit_getLsbD]; first | rfl | (simp; done)

theorem Laws.F.cbarArrive (sa : BitVec 10) (sb : BitVec 10) (scope : BitVec 3) : Laws.F.Statement (.cbarArrive sa sb scope) := by
  refine ⟨fun c pre f hf hc ho => ?_, fun _ _ h => nomatch (show (none : Option (Slot × Slot)) = some _ from h)⟩
  change some (_, _) = some (_, _) at hf
  obtain ⟨rfl, rfl⟩ := Prod.mk.inj (Option.some.inj hf)
  rw [parse_72 _ _ rfl]
  first
  | done
  | simp (disch := decide) only [encH, encG, encW, Fld.hd, Fld.gd, ftRnd, scopeSc, extract_append_low, extract_append_high, getLsbD_append_low, getLsbD_append_high, Nat.reduceSub, extract_whole, bit_getLsbD]; done
  | simp (disch := decide) only [encH, encG, encW, Fld.hd, Fld.gd, ftRnd, scopeSc, extract_append_low, extract_append_high, getLsbD_append_low, getLsbD_append_high, Nat.reduceSub, extract_whole, bit_getLsbD]; first | rfl | (simp; done)

theorem Laws.F.cpq (sa : BitVec 10) (sb : BitVec 10) (ch : BitVec 3) : Laws.F.Statement (.cpq sa sb ch) := by
  refine ⟨fun c pre f hf hc ho => ?_, fun _ _ h => nomatch (show (none : Option (Slot × Slot)) = some _ from h)⟩
  change some (_, _) = some (_, _) at hf
  obtain ⟨rfl, rfl⟩ := Prod.mk.inj (Option.some.inj hf)
  rw [parse_73 _ _ rfl]
  first
  | done
  | simp (disch := decide) only [encH, encG, encW, Fld.hd, Fld.gd, ftRnd, scopeSc, extract_append_low, extract_append_high, getLsbD_append_low, getLsbD_append_high, Nat.reduceSub, extract_whole, bit_getLsbD]; done
  | simp (disch := decide) only [encH, encG, encW, Fld.hd, Fld.gd, ftRnd, scopeSc, extract_append_low, extract_append_high, getLsbD_append_low, getLsbD_append_high, Nat.reduceSub, extract_whole, bit_getLsbD]; first | rfl | (simp; done)

theorem Laws.F.tcfg (dst : BitVec 10) (sb : Src) (zm : Bool) : Laws.F.Statement (.tcfg dst sb zm) := by
  refine ⟨fun c pre f hf hc ho => ?_, fun _ _ h => nomatch (show (none : Option (Slot × Slot)) = some _ from h)⟩
  change some (_, _) = some (_, _) at hf
  obtain ⟨rfl, rfl⟩ := Prod.mk.inj (Option.some.inj hf)
  rw [parse_74 _ _ rfl]
  rw [src_of_fields sb _ _ 0 rfl rfl rfl rfl]
  first
  | done
  | simp (disch := decide) only [encH, encG, encW, Fld.hd, Fld.gd, ftRnd, scopeSc, extract_append_low, extract_append_high, getLsbD_append_low, getLsbD_append_high, Nat.reduceSub, extract_whole, bit_getLsbD]; done
  | simp (disch := decide) only [encH, encG, encW, Fld.hd, Fld.gd, ftRnd, scopeSc, extract_append_low, extract_append_high, getLsbD_append_low, getLsbD_append_high, Nat.reduceSub, extract_whole, bit_getLsbD]; first | rfl | (simp; done)

theorem Laws.F.trel : Laws.F.Statement (.trel) := by
  refine ⟨fun c pre f hf hc ho => ?_, fun _ _ h => nomatch (show (none : Option (Slot × Slot)) = some _ from h)⟩
  change some (_, _) = some (_, _) at hf
  obtain ⟨rfl, rfl⟩ := Prod.mk.inj (Option.some.inj hf)
  rw [parse_75 _ _ rfl]
  first
  | done
  | simp (disch := decide) only [encH, encG, encW, Fld.hd, Fld.gd, ftRnd, scopeSc, extract_append_low, extract_append_high, getLsbD_append_low, getLsbD_append_high, Nat.reduceSub, extract_whole, bit_getLsbD]; done
  | simp (disch := decide) only [encH, encG, encW, Fld.hd, Fld.gd, ftRnd, scopeSc, extract_append_low, extract_append_high, getLsbD_append_low, getLsbD_append_high, Nat.reduceSub, extract_whole, bit_getLsbD]; first | rfl | (simp; done)

theorem Laws.F.tzero (dst : BitVec 10) (cnt : BitVec 6) : Laws.F.Statement (.tzero dst cnt) := by
  refine ⟨fun c pre f hf hc ho => ?_, fun _ _ h => nomatch (show (none : Option (Slot × Slot)) = some _ from h)⟩
  change some (_, _) = some (_, _) at hf
  obtain ⟨rfl, rfl⟩ := Prod.mk.inj (Option.some.inj hf)
  rw [parse_76 _ _ rfl]
  first
  | done
  | simp (disch := decide) only [encH, encG, encW, Fld.hd, Fld.gd, ftRnd, scopeSc, extract_append_low, extract_append_high, getLsbD_append_low, getLsbD_append_high, Nat.reduceSub, extract_whole, bit_getLsbD]; done
  | simp (disch := decide) only [encH, encG, encW, Fld.hd, Fld.gd, ftRnd, scopeSc, extract_append_low, extract_append_high, getLsbD_append_low, getLsbD_append_high, Nat.reduceSub, extract_whole, bit_getLsbD]; first | rfl | (simp; done)

theorem Laws.F.mma (dst : BitVec 10) (sa : BitVec 10) (sb : BitVec 10) (rnd : BitVec 3) (sca : Bool) (scb : Bool) (nb : BitVec 5) (kb : BitVec 2) (x3 : Bool) (ty : BitVec 5) : Laws.F.Statement (.mma dst sa sb rnd sca scb nb kb x3 ty) := by
  refine ⟨fun c pre f hf hc ho => ?_, fun _ _ h => nomatch (show (none : Option (Slot × Slot)) = some _ from h)⟩
  change some (_, _) = some (_, _) at hf
  obtain ⟨rfl, rfl⟩ := Prod.mk.inj (Option.some.inj hf)
  rw [parse_77 _ _ rfl]
  first
  | done
  | simp (disch := decide) only [encH, encG, encW, Fld.hd, Fld.gd, ftRnd, scopeSc, extract_append_low, extract_append_high, getLsbD_append_low, getLsbD_append_high, Nat.reduceSub, extract_whole, bit_getLsbD]; done
  | simp (disch := decide) only [encH, encG, encW, Fld.hd, Fld.gd, ftRnd, scopeSc, extract_append_low, extract_append_high, getLsbD_append_low, getLsbD_append_high, Nat.reduceSub, extract_whole, bit_getLsbD]; first | rfl | (simp; done)

theorem Laws.F.tld (dst : BitVec 10) (sa : BitVec 10) (off : MOff) (pol : BitVec 3) (sc : BitVec 6) (now : Bool) (ty : BitVec 5) : Laws.F.Statement (.tld dst sa off pol sc now ty) := by
  refine ⟨fun c pre f hf hc ho => ?_, fun _ _ h => nomatch (show (none : Option (Slot × Slot)) = some _ from h)⟩
  change some (_, _) = some (_, _) at hf
  obtain ⟨rfl, rfl⟩ := Prod.mk.inj (Option.some.inj hf)
  rw [parse_78 _ _ rfl]
  have ho : (r6 dst && r6 sa && uoffOk off none) = true := ho
  have hm : uoffOk off none = true := by simp_all
  have hx := fun f h1 => uoff_of_fields off none f h1 hm
  have hb := bpm_of_uoff off none hm
  first
  | done
  | simp (disch := decide) only [encH, encG, encW, Fld.hd, Fld.gd, ftRnd, scopeSc, extract_append_low, extract_append_high, getLsbD_append_low, getLsbD_append_high, Nat.reduceSub, extract_whole, bit_getLsbD]; done
  | simp (disch := decide) only [encH, encG, encW, Fld.hd, Fld.gd, ftRnd, scopeSc, extract_append_low, extract_append_high, getLsbD_append_low, getLsbD_append_high, Nat.reduceSub, extract_whole, bit_getLsbD]; (rw [hx]; all_goals first | rfl | (rw [hb]; done) | (rw [hb]; rfl) | (simp (disch := decide) only [encG, encW, scopeSc, extract_append_low, extract_append_high, getLsbD_append_low, getLsbD_append_high, Nat.reduceSub, extract_whole, bit_getLsbD]; done))

theorem Laws.F.tst (dst : BitVec 10) (sa : BitVec 10) (off : MOff) (pol : BitVec 3) (sc : BitVec 6) (rnd : BitVec 3) (ty : BitVec 5) : Laws.F.Statement (.tst dst sa off pol sc rnd ty) := by
  refine ⟨fun c pre f hf hc ho => ?_, fun _ _ h => nomatch (show (none : Option (Slot × Slot)) = some _ from h)⟩
  change some (_, _) = some (_, _) at hf
  obtain ⟨rfl, rfl⟩ := Prod.mk.inj (Option.some.inj hf)
  rw [parse_79 _ _ rfl]
  have ho : (r6 dst && r6 sa && uoffOk off none && (ty != 0x0D || rnd == 0)) = true := ho
  have hm : uoffOk off none = true := by simp_all
  have hx := fun f h1 => uoff_of_fields off none f h1 hm
  have hb := bpm_of_uoff off none hm
  first
  | done
  | simp (disch := decide) only [encH, encG, encW, Fld.hd, Fld.gd, ftRnd, scopeSc, extract_append_low, extract_append_high, getLsbD_append_low, getLsbD_append_high, Nat.reduceSub, extract_whole, bit_getLsbD]; done
  | simp (disch := decide) only [encH, encG, encW, Fld.hd, Fld.gd, ftRnd, scopeSc, extract_append_low, extract_append_high, getLsbD_append_low, getLsbD_append_high, Nat.reduceSub, extract_whole, bit_getLsbD]; (rw [hx]; all_goals first | rfl | (rw [hb]; done) | (rw [hb]; rfl) | (simp (disch := decide) only [encG, encW, scopeSc, extract_append_low, extract_append_high, getLsbD_append_low, getLsbD_append_high, Nat.reduceSub, extract_whole, bit_getLsbD]; done))

theorem Laws.F.tmovTov (dst : BitVec 10) (sa : BitVec 10) : Laws.F.Statement (.tmovTov dst sa) := by
  refine ⟨fun c pre f hf hc ho => ?_, fun _ _ h => nomatch (show (none : Option (Slot × Slot)) = some _ from h)⟩
  change some (_, _) = some (_, _) at hf
  obtain ⟨rfl, rfl⟩ := Prod.mk.inj (Option.some.inj hf)
  rw [parse_7a _ _ rfl]
  first
  | done
  | simp (disch := decide) only [encH, encG, encW, Fld.hd, Fld.gd, ftRnd, scopeSc, extract_append_low, extract_append_high, getLsbD_append_low, getLsbD_append_high, Nat.reduceSub, extract_whole, bit_getLsbD]; done
  | simp (disch := decide) only [encH, encG, encW, Fld.hd, Fld.gd, ftRnd, scopeSc, extract_append_low, extract_append_high, getLsbD_append_low, getLsbD_append_high, Nat.reduceSub, extract_whole, bit_getLsbD]; first | rfl | (simp; done)

theorem Laws.F.tmovFromv (dst : BitVec 10) (sa : BitVec 10) : Laws.F.Statement (.tmovFromv dst sa) := by
  refine ⟨fun c pre f hf hc ho => ?_, fun _ _ h => nomatch (show (none : Option (Slot × Slot)) = some _ from h)⟩
  change some (_, _) = some (_, _) at hf
  obtain ⟨rfl, rfl⟩ := Prod.mk.inj (Option.some.inj hf)
  rw [parse_7a _ _ rfl]
  first
  | done
  | simp (disch := decide) only [encH, encG, encW, Fld.hd, Fld.gd, ftRnd, scopeSc, extract_append_low, extract_append_high, getLsbD_append_low, getLsbD_append_high, Nat.reduceSub, extract_whole, bit_getLsbD]; done
  | simp (disch := decide) only [encH, encG, encW, Fld.hd, Fld.gd, ftRnd, scopeSc, extract_append_low, extract_append_high, getLsbD_append_low, getLsbD_append_high, Nat.reduceSub, extract_whole, bit_getLsbD]; first | rfl | (simp; done)

theorem Laws.F.tmovTot (dst : BitVec 10) (sa : BitVec 10) : Laws.F.Statement (.tmovTot dst sa) := by
  refine ⟨fun c pre f hf hc ho => ?_, fun _ _ h => nomatch (show (none : Option (Slot × Slot)) = some _ from h)⟩
  change some (_, _) = some (_, _) at hf
  obtain ⟨rfl, rfl⟩ := Prod.mk.inj (Option.some.inj hf)
  rw [parse_7a _ _ rfl]
  first
  | done
  | simp (disch := decide) only [encH, encG, encW, Fld.hd, Fld.gd, ftRnd, scopeSc, extract_append_low, extract_append_high, getLsbD_append_low, getLsbD_append_high, Nat.reduceSub, extract_whole, bit_getLsbD]; done
  | simp (disch := decide) only [encH, encG, encW, Fld.hd, Fld.gd, ftRnd, scopeSc, extract_append_low, extract_append_high, getLsbD_append_low, getLsbD_append_high, Nat.reduceSub, extract_whole, bit_getLsbD]; first | rfl | (simp; done)

theorem Laws.F.mbat (dst : BitVec 10) : Laws.F.Statement (.mbat dst) := by
  refine ⟨fun c pre f hf hc ho => ?_, fun _ _ h => nomatch (show (none : Option (Slot × Slot)) = some _ from h)⟩
  change some (_, _) = some (_, _) at hf
  obtain ⟨rfl, rfl⟩ := Prod.mk.inj (Option.some.inj hf)
  rw [parse_7b _ _ rfl]
  first
  | done
  | simp (disch := decide) only [encH, encG, encW, Fld.hd, Fld.gd, ftRnd, scopeSc, extract_append_low, extract_append_high, getLsbD_append_low, getLsbD_append_high, Nat.reduceSub, extract_whole, bit_getLsbD]; done
  | simp (disch := decide) only [encH, encG, encW, Fld.hd, Fld.gd, ftRnd, scopeSc, extract_append_low, extract_append_high, getLsbD_append_low, getLsbD_append_high, Nat.reduceSub, extract_whole, bit_getLsbD]; first | rfl | (simp; done)

theorem Laws.F.mwait (dst : BitVec 10) (all : Bool) (sb : Src) : Laws.F.Statement (.mwait dst all sb) := by
  refine ⟨fun c pre f hf hc ho => ?_, fun _ _ h => nomatch (show (none : Option (Slot × Slot)) = some _ from h)⟩
  change some (_, _) = some (_, _) at hf
  obtain ⟨rfl, rfl⟩ := Prod.mk.inj (Option.some.inj hf)
  rw [parse_7c _ _ rfl]
  rw [src_of_fields sb _ _ 0 rfl rfl rfl rfl]
  first
  | done
  | simp (disch := decide) only [encH, encG, encW, Fld.hd, Fld.gd, ftRnd, scopeSc, extract_append_low, extract_append_high, getLsbD_append_low, getLsbD_append_high, Nat.reduceSub, extract_whole, bit_getLsbD]; done
  | simp (disch := decide) only [encH, encG, encW, Fld.hd, Fld.gd, ftRnd, scopeSc, extract_append_low, extract_append_high, getLsbD_append_low, getLsbD_append_high, Nat.reduceSub, extract_whole, bit_getLsbD]; first | rfl | (simp; done)

theorem Laws.F.tscl (dst : BitVec 10) (sa : BitVec 10) (sb : Src) (sc : BitVec 10) (relu : Bool) (rnd : BitVec 3) : Laws.F.Statement (.tscl dst sa sb sc relu rnd) := by
  refine ⟨fun c pre f hf hc ho => ?_, fun _ _ h => nomatch (show (none : Option (Slot × Slot)) = some _ from h)⟩
  change some (_, _) = some (_, _) at hf
  obtain ⟨rfl, rfl⟩ := Prod.mk.inj (Option.some.inj hf)
  rw [parse_7d _ _ rfl]
  have hs : notImm sb = true := by
    cases sb <;> first
    | rfl
    | (have h2 : ((r6 dst && r6 sa && false) && r6 sc) = true := ho; simp at h2)
  have hq := sc_of_notImm sb sc hs
  rw [src_of_fields sb _ _ sc rfl rfl rfl rfl]
  first
  | done
  | simp (disch := decide) only [encH, encG, encW, Fld.hd, Fld.gd, ftRnd, scopeSc, extract_append_low, extract_append_high, getLsbD_append_low, getLsbD_append_high, Nat.reduceSub, extract_whole, bit_getLsbD]; done
  | simp (disch := decide) only [encH, encG, encW, Fld.hd, Fld.gd, ftRnd, scopeSc, extract_append_low, extract_append_high, getLsbD_append_low, getLsbD_append_high, Nat.reduceSub, extract_whole, bit_getLsbD]; first | (rw [hq]; done) | (simp [hq]; done)

theorem Laws.F.pairPnop (a : SlotArgs) (b : Slot) : Laws.F.Statement (.pairPnop a b) := by
  refine ⟨fun _ _ _ h => (nomatch (show (none : Option (Pre × Fld)) = some _ from h)), fun x y h => ?_⟩
  change some (_, _) = some (_, _) at h
  obtain ⟨rfl, rfl⟩ := Prod.mk.inj (Option.some.inj h)
  rfl

theorem Laws.F.pairIadd (a : SlotArgs) (b : Slot) : Laws.F.Statement (.pairIadd a b) := by
  refine ⟨fun _ _ _ h => (nomatch (show (none : Option (Pre × Fld)) = some _ from h)), fun x y h => ?_⟩
  change some (_, _) = some (_, _) at h
  obtain ⟨rfl, rfl⟩ := Prod.mk.inj (Option.some.inj h)
  rfl

theorem Laws.F.pairIsub (a : SlotArgs) (b : Slot) : Laws.F.Statement (.pairIsub a b) := by
  refine ⟨fun _ _ _ h => (nomatch (show (none : Option (Pre × Fld)) = some _ from h)), fun x y h => ?_⟩
  change some (_, _) = some (_, _) at h
  obtain ⟨rfl, rfl⟩ := Prod.mk.inj (Option.some.inj h)
  rfl

theorem Laws.F.pairImul (a : SlotArgs) (b : Slot) : Laws.F.Statement (.pairImul a b) := by
  refine ⟨fun _ _ _ h => (nomatch (show (none : Option (Pre × Fld)) = some _ from h)), fun x y h => ?_⟩
  change some (_, _) = some (_, _) at h
  obtain ⟨rfl, rfl⟩ := Prod.mk.inj (Option.some.inj h)
  rfl

theorem Laws.F.pairIminI (a : SlotArgs) (b : Slot) : Laws.F.Statement (.pairIminI a b) := by
  refine ⟨fun _ _ _ h => (nomatch (show (none : Option (Pre × Fld)) = some _ from h)), fun x y h => ?_⟩
  change some (_, _) = some (_, _) at h
  obtain ⟨rfl, rfl⟩ := Prod.mk.inj (Option.some.inj h)
  rfl

theorem Laws.F.pairImaxI (a : SlotArgs) (b : Slot) : Laws.F.Statement (.pairImaxI a b) := by
  refine ⟨fun _ _ _ h => (nomatch (show (none : Option (Pre × Fld)) = some _ from h)), fun x y h => ?_⟩
  change some (_, _) = some (_, _) at h
  obtain ⟨rfl, rfl⟩ := Prod.mk.inj (Option.some.inj h)
  rfl

theorem Laws.F.pairIminN (a : SlotArgs) (b : Slot) : Laws.F.Statement (.pairIminN a b) := by
  refine ⟨fun _ _ _ h => (nomatch (show (none : Option (Pre × Fld)) = some _ from h)), fun x y h => ?_⟩
  change some (_, _) = some (_, _) at h
  obtain ⟨rfl, rfl⟩ := Prod.mk.inj (Option.some.inj h)
  rfl

theorem Laws.F.pairImaxN (a : SlotArgs) (b : Slot) : Laws.F.Statement (.pairImaxN a b) := by
  refine ⟨fun _ _ _ h => (nomatch (show (none : Option (Pre × Fld)) = some _ from h)), fun x y h => ?_⟩
  change some (_, _) = some (_, _) at h
  obtain ⟨rfl, rfl⟩ := Prod.mk.inj (Option.some.inj h)
  rfl

theorem Laws.F.pairIneg (a : SlotArgs) (b : Slot) : Laws.F.Statement (.pairIneg a b) := by
  refine ⟨fun _ _ _ h => (nomatch (show (none : Option (Pre × Fld)) = some _ from h)), fun x y h => ?_⟩
  change some (_, _) = some (_, _) at h
  obtain ⟨rfl, rfl⟩ := Prod.mk.inj (Option.some.inj h)
  rfl

theorem Laws.F.pairIabs (a : SlotArgs) (b : Slot) : Laws.F.Statement (.pairIabs a b) := by
  refine ⟨fun _ _ _ h => (nomatch (show (none : Option (Pre × Fld)) = some _ from h)), fun x y h => ?_⟩
  change some (_, _) = some (_, _) at h
  obtain ⟨rfl, rfl⟩ := Prod.mk.inj (Option.some.inj h)
  rfl

theorem Laws.F.pairAnd (a : SlotArgs) (b : Slot) : Laws.F.Statement (.pairAnd a b) := by
  refine ⟨fun _ _ _ h => (nomatch (show (none : Option (Pre × Fld)) = some _ from h)), fun x y h => ?_⟩
  change some (_, _) = some (_, _) at h
  obtain ⟨rfl, rfl⟩ := Prod.mk.inj (Option.some.inj h)
  rfl

theorem Laws.F.pairOr (a : SlotArgs) (b : Slot) : Laws.F.Statement (.pairOr a b) := by
  refine ⟨fun _ _ _ h => (nomatch (show (none : Option (Pre × Fld)) = some _ from h)), fun x y h => ?_⟩
  change some (_, _) = some (_, _) at h
  obtain ⟨rfl, rfl⟩ := Prod.mk.inj (Option.some.inj h)
  rfl

theorem Laws.F.pairXor (a : SlotArgs) (b : Slot) : Laws.F.Statement (.pairXor a b) := by
  refine ⟨fun _ _ _ h => (nomatch (show (none : Option (Pre × Fld)) = some _ from h)), fun x y h => ?_⟩
  change some (_, _) = some (_, _) at h
  obtain ⟨rfl, rfl⟩ := Prod.mk.inj (Option.some.inj h)
  rfl

theorem Laws.F.pairNot (a : SlotArgs) (b : Slot) : Laws.F.Statement (.pairNot a b) := by
  refine ⟨fun _ _ _ h => (nomatch (show (none : Option (Pre × Fld)) = some _ from h)), fun x y h => ?_⟩
  change some (_, _) = some (_, _) at h
  obtain ⟨rfl, rfl⟩ := Prod.mk.inj (Option.some.inj h)
  rfl

theorem Laws.F.pairShlImm (a : SlotArgs) (b : Slot) : Laws.F.Statement (.pairShlImm a b) := by
  refine ⟨fun _ _ _ h => (nomatch (show (none : Option (Pre × Fld)) = some _ from h)), fun x y h => ?_⟩
  change some (_, _) = some (_, _) at h
  obtain ⟨rfl, rfl⟩ := Prod.mk.inj (Option.some.inj h)
  rfl

theorem Laws.F.pairShrLImm (a : SlotArgs) (b : Slot) : Laws.F.Statement (.pairShrLImm a b) := by
  refine ⟨fun _ _ _ h => (nomatch (show (none : Option (Pre × Fld)) = some _ from h)), fun x y h => ?_⟩
  change some (_, _) = some (_, _) at h
  obtain ⟨rfl, rfl⟩ := Prod.mk.inj (Option.some.inj h)
  rfl

theorem Laws.F.pairShrAImm (a : SlotArgs) (b : Slot) : Laws.F.Statement (.pairShrAImm a b) := by
  refine ⟨fun _ _ _ h => (nomatch (show (none : Option (Pre × Fld)) = some _ from h)), fun x y h => ?_⟩
  change some (_, _) = some (_, _) at h
  obtain ⟨rfl, rfl⟩ := Prod.mk.inj (Option.some.inj h)
  rfl

theorem Laws.F.pairRotImm (a : SlotArgs) (b : Slot) : Laws.F.Statement (.pairRotImm a b) := by
  refine ⟨fun _ _ _ h => (nomatch (show (none : Option (Pre × Fld)) = some _ from h)), fun x y h => ?_⟩
  change some (_, _) = some (_, _) at h
  obtain ⟨rfl, rfl⟩ := Prod.mk.inj (Option.some.inj h)
  rfl

theorem Laws.F.pairShl (a : SlotArgs) (b : Slot) : Laws.F.Statement (.pairShl a b) := by
  refine ⟨fun _ _ _ h => (nomatch (show (none : Option (Pre × Fld)) = some _ from h)), fun x y h => ?_⟩
  change some (_, _) = some (_, _) at h
  obtain ⟨rfl, rfl⟩ := Prod.mk.inj (Option.some.inj h)
  rfl

theorem Laws.F.pairShrL (a : SlotArgs) (b : Slot) : Laws.F.Statement (.pairShrL a b) := by
  refine ⟨fun _ _ _ h => (nomatch (show (none : Option (Pre × Fld)) = some _ from h)), fun x y h => ?_⟩
  change some (_, _) = some (_, _) at h
  obtain ⟨rfl, rfl⟩ := Prod.mk.inj (Option.some.inj h)
  rfl

theorem Laws.F.pairShrA (a : SlotArgs) (b : Slot) : Laws.F.Statement (.pairShrA a b) := by
  refine ⟨fun _ _ _ h => (nomatch (show (none : Option (Pre × Fld)) = some _ from h)), fun x y h => ?_⟩
  change some (_, _) = some (_, _) at h
  obtain ⟨rfl, rfl⟩ := Prod.mk.inj (Option.some.inj h)
  rfl

theorem Laws.F.pairPopc (a : SlotArgs) (b : Slot) : Laws.F.Statement (.pairPopc a b) := by
  refine ⟨fun _ _ _ h => (nomatch (show (none : Option (Pre × Fld)) = some _ from h)), fun x y h => ?_⟩
  change some (_, _) = some (_, _) at h
  obtain ⟨rfl, rfl⟩ := Prod.mk.inj (Option.some.inj h)
  rfl

theorem Laws.F.pairClz (a : SlotArgs) (b : Slot) : Laws.F.Statement (.pairClz a b) := by
  refine ⟨fun _ _ _ h => (nomatch (show (none : Option (Pre × Fld)) = some _ from h)), fun x y h => ?_⟩
  change some (_, _) = some (_, _) at h
  obtain ⟨rfl, rfl⟩ := Prod.mk.inj (Option.some.inj h)
  rfl

theorem Laws.F.pairCtz (a : SlotArgs) (b : Slot) : Laws.F.Statement (.pairCtz a b) := by
  refine ⟨fun _ _ _ h => (nomatch (show (none : Option (Pre × Fld)) = some _ from h)), fun x y h => ?_⟩
  change some (_, _) = some (_, _) at h
  obtain ⟨rfl, rfl⟩ := Prod.mk.inj (Option.some.inj h)
  rfl

theorem Laws.F.pairBfrev (a : SlotArgs) (b : Slot) : Laws.F.Statement (.pairBfrev a b) := by
  refine ⟨fun _ _ _ h => (nomatch (show (none : Option (Pre × Fld)) = some _ from h)), fun x y h => ?_⟩
  change some (_, _) = some (_, _) at h
  obtain ⟨rfl, rfl⟩ := Prod.mk.inj (Option.some.inj h)
  rfl

theorem Laws.F.pairMov (a : SlotArgs) (b : Slot) : Laws.F.Statement (.pairMov a b) := by
  refine ⟨fun _ _ _ h => (nomatch (show (none : Option (Pre × Fld)) = some _ from h)), fun x y h => ?_⟩
  change some (_, _) = some (_, _) at h
  obtain ⟨rfl, rfl⟩ := Prod.mk.inj (Option.some.inj h)
  rfl

theorem Laws.F.pairMovi (a : SlotArgs) (b : Slot) : Laws.F.Statement (.pairMovi a b) := by
  refine ⟨fun _ _ _ h => (nomatch (show (none : Option (Pre × Fld)) = some _ from h)), fun x y h => ?_⟩
  change some (_, _) = some (_, _) at h
  obtain ⟨rfl, rfl⟩ := Prod.mk.inj (Option.some.inj h)
  rfl

theorem Laws.F.pairMovx (a : SlotArgs) (b : Slot) : Laws.F.Statement (.pairMovx a b) := by
  refine ⟨fun _ _ _ h => (nomatch (show (none : Option (Pre × Fld)) = some _ from h)), fun x y h => ?_⟩
  change some (_, _) = some (_, _) at h
  obtain ⟨rfl, rfl⟩ := Prod.mk.inj (Option.some.inj h)
  rfl

theorem Laws.F.pairFaddF (a : SlotArgs) (b : Slot) : Laws.F.Statement (.pairFaddF a b) := by
  refine ⟨fun _ _ _ h => (nomatch (show (none : Option (Pre × Fld)) = some _ from h)), fun x y h => ?_⟩
  change some (_, _) = some (_, _) at h
  obtain ⟨rfl, rfl⟩ := Prod.mk.inj (Option.some.inj h)
  rfl

theorem Laws.F.pairFsubF (a : SlotArgs) (b : Slot) : Laws.F.Statement (.pairFsubF a b) := by
  refine ⟨fun _ _ _ h => (nomatch (show (none : Option (Pre × Fld)) = some _ from h)), fun x y h => ?_⟩
  change some (_, _) = some (_, _) at h
  obtain ⟨rfl, rfl⟩ := Prod.mk.inj (Option.some.inj h)
  rfl

theorem Laws.F.pairFmulF (a : SlotArgs) (b : Slot) : Laws.F.Statement (.pairFmulF a b) := by
  refine ⟨fun _ _ _ h => (nomatch (show (none : Option (Pre × Fld)) = some _ from h)), fun x y h => ?_⟩
  change some (_, _) = some (_, _) at h
  obtain ⟨rfl, rfl⟩ := Prod.mk.inj (Option.some.inj h)
  rfl

theorem Laws.F.pairFminF (a : SlotArgs) (b : Slot) : Laws.F.Statement (.pairFminF a b) := by
  refine ⟨fun _ _ _ h => (nomatch (show (none : Option (Pre × Fld)) = some _ from h)), fun x y h => ?_⟩
  change some (_, _) = some (_, _) at h
  obtain ⟨rfl, rfl⟩ := Prod.mk.inj (Option.some.inj h)
  rfl

theorem Laws.F.pairFmaxF (a : SlotArgs) (b : Slot) : Laws.F.Statement (.pairFmaxF a b) := by
  refine ⟨fun _ _ _ h => (nomatch (show (none : Option (Pre × Fld)) = some _ from h)), fun x y h => ?_⟩
  change some (_, _) = some (_, _) at h
  obtain ⟨rfl, rfl⟩ := Prod.mk.inj (Option.some.inj h)
  rfl

theorem Laws.F.pairFaddB (a : SlotArgs) (b : Slot) : Laws.F.Statement (.pairFaddB a b) := by
  refine ⟨fun _ _ _ h => (nomatch (show (none : Option (Pre × Fld)) = some _ from h)), fun x y h => ?_⟩
  change some (_, _) = some (_, _) at h
  obtain ⟨rfl, rfl⟩ := Prod.mk.inj (Option.some.inj h)
  rfl

theorem Laws.F.pairFsubB (a : SlotArgs) (b : Slot) : Laws.F.Statement (.pairFsubB a b) := by
  refine ⟨fun _ _ _ h => (nomatch (show (none : Option (Pre × Fld)) = some _ from h)), fun x y h => ?_⟩
  change some (_, _) = some (_, _) at h
  obtain ⟨rfl, rfl⟩ := Prod.mk.inj (Option.some.inj h)
  rfl

theorem Laws.F.pairFmulB (a : SlotArgs) (b : Slot) : Laws.F.Statement (.pairFmulB a b) := by
  refine ⟨fun _ _ _ h => (nomatch (show (none : Option (Pre × Fld)) = some _ from h)), fun x y h => ?_⟩
  change some (_, _) = some (_, _) at h
  obtain ⟨rfl, rfl⟩ := Prod.mk.inj (Option.some.inj h)
  rfl

theorem Laws.F.pairFminB (a : SlotArgs) (b : Slot) : Laws.F.Statement (.pairFminB a b) := by
  refine ⟨fun _ _ _ h => (nomatch (show (none : Option (Pre × Fld)) = some _ from h)), fun x y h => ?_⟩
  change some (_, _) = some (_, _) at h
  obtain ⟨rfl, rfl⟩ := Prod.mk.inj (Option.some.inj h)
  rfl

theorem Laws.F.pairFmaxB (a : SlotArgs) (b : Slot) : Laws.F.Statement (.pairFmaxB a b) := by
  refine ⟨fun _ _ _ h => (nomatch (show (none : Option (Pre × Fld)) = some _ from h)), fun x y h => ?_⟩
  change some (_, _) = some (_, _) at h
  obtain ⟨rfl, rfl⟩ := Prod.mk.inj (Option.some.inj h)
  rfl

theorem Laws.F.pairPack (a : SlotArgs) (b : Slot) : Laws.F.Statement (.pairPack a b) := by
  refine ⟨fun _ _ _ h => (nomatch (show (none : Option (Pre × Fld)) = some _ from h)), fun x y h => ?_⟩
  change some (_, _) = some (_, _) at h
  obtain ⟨rfl, rfl⟩ := Prod.mk.inj (Option.some.inj h)
  rfl

theorem Laws.F.pairUnpk (a : SlotArgs) (b : Slot) : Laws.F.Statement (.pairUnpk a b) := by
  refine ⟨fun _ _ _ h => (nomatch (show (none : Option (Pre × Fld)) = some _ from h)), fun x y h => ?_⟩
  change some (_, _) = some (_, _) at h
  obtain ⟨rfl, rfl⟩ := Prod.mk.inj (Option.some.inj h)
  rfl

theorem Laws.F.pairCvtFI (a : SlotArgs) (b : Slot) : Laws.F.Statement (.pairCvtFI a b) := by
  refine ⟨fun _ _ _ h => (nomatch (show (none : Option (Pre × Fld)) = some _ from h)), fun x y h => ?_⟩
  change some (_, _) = some (_, _) at h
  obtain ⟨rfl, rfl⟩ := Prod.mk.inj (Option.some.inj h)
  rfl

theorem Laws.F.pairCvtFN (a : SlotArgs) (b : Slot) : Laws.F.Statement (.pairCvtFN a b) := by
  refine ⟨fun _ _ _ h => (nomatch (show (none : Option (Pre × Fld)) = some _ from h)), fun x y h => ?_⟩
  change some (_, _) = some (_, _) at h
  obtain ⟨rfl, rfl⟩ := Prod.mk.inj (Option.some.inj h)
  rfl

theorem Laws.F.pairCvtIF (a : SlotArgs) (b : Slot) : Laws.F.Statement (.pairCvtIF a b) := by
  refine ⟨fun _ _ _ h => (nomatch (show (none : Option (Pre × Fld)) = some _ from h)), fun x y h => ?_⟩
  change some (_, _) = some (_, _) at h
  obtain ⟨rfl, rfl⟩ := Prod.mk.inj (Option.some.inj h)
  rfl

theorem Laws.F.pairCvtNF (a : SlotArgs) (b : Slot) : Laws.F.Statement (.pairCvtNF a b) := by
  refine ⟨fun _ _ _ h => (nomatch (show (none : Option (Pre × Fld)) = some _ from h)), fun x y h => ?_⟩
  change some (_, _) = some (_, _) at h
  obtain ⟨rfl, rfl⟩ := Prod.mk.inj (Option.some.inj h)
  rfl

theorem Laws.F.pairIcmpI (a : SlotArgs) (b : Slot) : Laws.F.Statement (.pairIcmpI a b) := by
  refine ⟨fun _ _ _ h => (nomatch (show (none : Option (Pre × Fld)) = some _ from h)), fun x y h => ?_⟩
  change some (_, _) = some (_, _) at h
  obtain ⟨rfl, rfl⟩ := Prod.mk.inj (Option.some.inj h)
  rfl

theorem Laws.F.pairIcmpN (a : SlotArgs) (b : Slot) : Laws.F.Statement (.pairIcmpN a b) := by
  refine ⟨fun _ _ _ h => (nomatch (show (none : Option (Pre × Fld)) = some _ from h)), fun x y h => ?_⟩
  change some (_, _) = some (_, _) at h
  obtain ⟨rfl, rfl⟩ := Prod.mk.inj (Option.some.inj h)
  rfl

theorem Laws.F.pairFcmpF (a : SlotArgs) (b : Slot) : Laws.F.Statement (.pairFcmpF a b) := by
  refine ⟨fun _ _ _ h => (nomatch (show (none : Option (Pre × Fld)) = some _ from h)), fun x y h => ?_⟩
  change some (_, _) = some (_, _) at h
  obtain ⟨rfl, rfl⟩ := Prod.mk.inj (Option.some.inj h)
  rfl

theorem Laws.F.issueSelect : Laws.F.Statement (.issueSelect) := by
  exact ⟨fun _ _ _ h => (nomatch (show (none : Option (Pre × Fld)) = some _ from h)), fun _ _ h => nomatch (show (none : Option (Slot × Slot)) = some _ from h)⟩

theorem Laws.F.pendingGangPromote : Laws.F.Statement (.pendingGangPromote) := by
  exact ⟨fun _ _ _ h => (nomatch (show (none : Option (Pre × Fld)) = some _ from h)), fun _ _ h => nomatch (show (none : Option (Slot × Slot)) = some _ from h)⟩

theorem Laws.F.pauseExpire (t : Nat) (k : Nat) : Laws.F.Statement (.pauseExpire t k) := by
  exact ⟨fun _ _ _ h => (nomatch (show (none : Option (Pre × Fld)) = some _ from h)), fun _ _ h => nomatch (show (none : Option (Slot × Slot)) = some _ from h)⟩

theorem Laws.F.msleepTimeout (t : Nat) : Laws.F.Statement (.msleepTimeout t) := by
  exact ⟨fun _ _ _ h => (nomatch (show (none : Option (Pre × Fld)) = some _ from h)), fun _ _ h => nomatch (show (none : Option (Slot × Slot)) = some _ from h)⟩

theorem Laws.F.copyStart (t : Nat) (ch : BitVec 3) (data : Word) : Laws.F.Statement (.copyStart t ch data) := by
  exact ⟨fun _ _ _ h => (nomatch (show (none : Option (Pre × Fld)) = some _ from h)), fun _ _ h => nomatch (show (none : Option (Slot × Slot)) = some _ from h)⟩

theorem Laws.F.copyAbort (t : Nat) (ch : BitVec 3) : Laws.F.Statement (.copyAbort t ch) := by
  exact ⟨fun _ _ _ h => (nomatch (show (none : Option (Pre × Fld)) = some _ from h)), fun _ _ h => nomatch (show (none : Option (Slot × Slot)) = some _ from h)⟩

theorem Laws.F.copyQuery (t : Nat) (ch : BitVec 3) : Laws.F.Statement (.copyQuery t ch) := by
  exact ⟨fun _ _ _ h => (nomatch (show (none : Option (Pre × Fld)) = some _ from h)), fun _ _ h => nomatch (show (none : Option (Slot × Slot)) = some _ from h)⟩

theorem Laws.F.copySectorCommit (die : Nat) (cl : Nat) (ch : Nat) : Laws.F.Statement (.copySectorCommit die cl ch) := by
  exact ⟨fun _ _ _ h => (nomatch (show (none : Option (Pre × Fld)) = some _ from h)), fun _ _ h => nomatch (show (none : Option (Slot × Slot)) = some _ from h)⟩

theorem Laws.F.copyComplete (die : Nat) (cl : Nat) (ch : Nat) : Laws.F.Statement (.copyComplete die cl ch) := by
  exact ⟨fun _ _ _ h => (nomatch (show (none : Option (Pre × Fld)) = some _ from h)), fun _ _ h => nomatch (show (none : Option (Slot × Slot)) = some _ from h)⟩

theorem Laws.F.copyCommandDequeue (die : Nat) (cl : Nat) (ch : Nat) : Laws.F.Statement (.copyCommandDequeue die cl ch) := by
  exact ⟨fun _ _ _ h => (nomatch (show (none : Option (Pre × Fld)) = some _ from h)), fun _ _ h => nomatch (show (none : Option (Slot × Slot)) = some _ from h)⟩

theorem Laws.F.pageWalk (w : WalkReq) : Laws.F.Statement (.pageWalk w) := by
  exact ⟨fun _ _ _ h => (nomatch (show (none : Option (Pre × Fld)) = some _ from h)), fun _ _ h => nomatch (show (none : Option (Slot × Slot)) = some _ from h)⟩

theorem Laws.F.loadReturn (t : Nat) : Laws.F.Statement (.loadReturn t) := by
  exact ⟨fun _ _ _ h => (nomatch (show (none : Option (Pre × Fld)) = some _ from h)), fun _ _ h => nomatch (show (none : Option (Slot × Slot)) = some _ from h)⟩

theorem Laws.F.storePerformed (t : Nat) : Laws.F.Statement (.storePerformed t) := by
  exact ⟨fun _ _ _ h => (nomatch (show (none : Option (Pre × Fld)) = some _ from h)), fun _ _ h => nomatch (show (none : Option (Slot × Slot)) = some _ from h)⟩

theorem Laws.F.storeHoldResolved (t : Nat) : Laws.F.Statement (.storeHoldResolved t) := by
  exact ⟨fun _ _ _ h => (nomatch (show (none : Option (Pre × Fld)) = some _ from h)), fun _ _ h => nomatch (show (none : Option (Slot × Slot)) = some _ from h)⟩

theorem Laws.F.lineEvict (die : Nat) (cl : Nat) (la : Nat) : Laws.F.Statement (.lineEvict die cl la) := by
  exact ⟨fun _ _ _ h => (nomatch (show (none : Option (Pre × Fld)) = some _ from h)), fun _ _ h => nomatch (show (none : Option (Slot × Slot)) = some _ from h)⟩

theorem Laws.F.tldComplete (t : Nat) : Laws.F.Statement (.tldComplete t) := by
  exact ⟨fun _ _ _ h => (nomatch (show (none : Option (Pre × Fld)) = some _ from h)), fun _ _ h => nomatch (show (none : Option (Slot × Slot)) = some _ from h)⟩

theorem Laws.F.mmaCommandStart (die : Nat) (core : Nat) (part : Nat) : Laws.F.Statement (.mmaCommandStart die core part) := by
  exact ⟨fun _ _ _ h => (nomatch (show (none : Option (Pre × Fld)) = some _ from h)), fun _ _ h => nomatch (show (none : Option (Slot × Slot)) = some _ from h)⟩

theorem Laws.F.mmaMigrate (die : Nat) (core : Nat) (part : Nat) : Laws.F.Statement (.mmaMigrate die core part) := by
  exact ⟨fun _ _ _ h => (nomatch (show (none : Option (Pre × Fld)) = some _ from h)), fun _ _ h => nomatch (show (none : Option (Slot × Slot)) = some _ from h)⟩

theorem Laws.F.mmaBlockAccumulate (die : Nat) (core : Nat) (part : Nat) : Laws.F.Statement (.mmaBlockAccumulate die core part) := by
  exact ⟨fun _ _ _ h => (nomatch (show (none : Option (Pre × Fld)) = some _ from h)), fun _ _ h => nomatch (show (none : Option (Slot × Slot)) = some _ from h)⟩

theorem Laws.F.mmaCommandComplete (die : Nat) (core : Nat) (part : Nat) : Laws.F.Statement (.mmaCommandComplete die core part) := by
  exact ⟨fun _ _ _ h => (nomatch (show (none : Option (Pre × Fld)) = some _ from h)), fun _ _ h => nomatch (show (none : Option (Slot × Slot)) = some _ from h)⟩

theorem Laws.F.sliceRds (die : Nat) (cl : Nat) (la : Nat) (mir : Bool) : Laws.F.Statement (.sliceRds die cl la mir) := by
  exact ⟨fun _ _ _ h => (nomatch (show (none : Option (Pre × Fld)) = some _ from h)), fun _ _ h => nomatch (show (none : Option (Slot × Slot)) = some _ from h)⟩

theorem Laws.F.sliceRdx (die : Nat) (cl : Nat) (la : Nat) (mir : Bool) : Laws.F.Statement (.sliceRdx die cl la mir) := by
  exact ⟨fun _ _ _ h => (nomatch (show (none : Option (Pre × Fld)) = some _ from h)), fun _ _ h => nomatch (show (none : Option (Slot × Slot)) = some _ from h)⟩

theorem Laws.F.sliceUpg (die : Nat) (cl : Nat) (la : Nat) (mir : Bool) : Laws.F.Statement (.sliceUpg die cl la mir) := by
  exact ⟨fun _ _ _ h => (nomatch (show (none : Option (Pre × Fld)) = some _ from h)), fun _ _ h => nomatch (show (none : Option (Slot × Slot)) = some _ from h)⟩

theorem Laws.F.sliceWbd (die : Nat) (cl : Nat) (la : Nat) : Laws.F.Statement (.sliceWbd die cl la) := by
  exact ⟨fun _ _ _ h => (nomatch (show (none : Option (Pre × Fld)) = some _ from h)), fun _ _ h => nomatch (show (none : Option (Slot × Slot)) = some _ from h)⟩

theorem Laws.F.sliceEvc (die : Nat) (cl : Nat) (la : Nat) : Laws.F.Statement (.sliceEvc die cl la) := by
  exact ⟨fun _ _ _ h => (nomatch (show (none : Option (Pre × Fld)) = some _ from h)), fun _ _ h => nomatch (show (none : Option (Slot × Slot)) = some _ from h)⟩

theorem Laws.F.rds (m : Msg) : Laws.F.Statement (.rds m) := by
  exact ⟨fun _ _ _ h => (nomatch (show (none : Option (Pre × Fld)) = some _ from h)), fun _ _ h => nomatch (show (none : Option (Slot × Slot)) = some _ from h)⟩

theorem Laws.F.rdx (m : Msg) : Laws.F.Statement (.rdx m) := by
  exact ⟨fun _ _ _ h => (nomatch (show (none : Option (Pre × Fld)) = some _ from h)), fun _ _ h => nomatch (show (none : Option (Slot × Slot)) = some _ from h)⟩

theorem Laws.F.upg (m : Msg) : Laws.F.Statement (.upg m) := by
  exact ⟨fun _ _ _ h => (nomatch (show (none : Option (Pre × Fld)) = some _ from h)), fun _ _ h => nomatch (show (none : Option (Slot × Slot)) = some _ from h)⟩

theorem Laws.F.wbd (m : Msg) : Laws.F.Statement (.wbd m) := by
  exact ⟨fun _ _ _ h => (nomatch (show (none : Option (Pre × Fld)) = some _ from h)), fun _ _ h => nomatch (show (none : Option (Slot × Slot)) = some _ from h)⟩

theorem Laws.F.evc (m : Msg) : Laws.F.Statement (.evc m) := by
  exact ⟨fun _ _ _ h => (nomatch (show (none : Option (Pre × Fld)) = some _ from h)), fun _ _ h => nomatch (show (none : Option (Slot × Slot)) = some _ from h)⟩

theorem Laws.F.rdu (m : Msg) : Laws.F.Statement (.rdu m) := by
  exact ⟨fun _ _ _ h => (nomatch (show (none : Option (Pre × Fld)) = some _ from h)), fun _ _ h => nomatch (show (none : Option (Slot × Slot)) = some _ from h)⟩

theorem Laws.F.wru (m : Msg) : Laws.F.Statement (.wru m) := by
  exact ⟨fun _ _ _ h => (nomatch (show (none : Option (Pre × Fld)) = some _ from h)), fun _ _ h => nomatch (show (none : Option (Slot × Slot)) = some _ from h)⟩

theorem Laws.F.atu (m : Msg) : Laws.F.Statement (.atu m) := by
  exact ⟨fun _ _ _ h => (nomatch (show (none : Option (Pre × Fld)) = some _ from h)), fun _ _ h => nomatch (show (none : Option (Slot × Slot)) = some _ from h)⟩

theorem Laws.F.snpf (m : Msg) : Laws.F.Statement (.snpf m) := by
  exact ⟨fun _ _ _ h => (nomatch (show (none : Option (Pre × Fld)) = some _ from h)), fun _ _ h => nomatch (show (none : Option (Slot × Slot)) = some _ from h)⟩

theorem Laws.F.snpi (m : Msg) : Laws.F.Statement (.snpi m) := by
  exact ⟨fun _ _ _ h => (nomatch (show (none : Option (Pre × Fld)) = some _ from h)), fun _ _ h => nomatch (show (none : Option (Slot × Slot)) = some _ from h)⟩

theorem Laws.F.snpfi (m : Msg) : Laws.F.Statement (.snpfi m) := by
  exact ⟨fun _ _ _ h => (nomatch (show (none : Option (Pre × Fld)) = some _ from h)), fun _ _ h => nomatch (show (none : Option (Slot × Slot)) = some _ from h)⟩

theorem Laws.F.recall (m : Msg) : Laws.F.Statement (.recall m) := by
  exact ⟨fun _ _ _ h => (nomatch (show (none : Option (Pre × Fld)) = some _ from h)), fun _ _ h => nomatch (show (none : Option (Slot × Slot)) = some _ from h)⟩

theorem Laws.F.grant (m : Msg) : Laws.F.Statement (.grant m) := by
  exact ⟨fun _ _ _ h => (nomatch (show (none : Option (Pre × Fld)) = some _ from h)), fun _ _ h => nomatch (show (none : Option (Slot × Slot)) = some _ from h)⟩

theorem Laws.F.ack (m : Msg) : Laws.F.Statement (.ack m) := by
  exact ⟨fun _ _ _ h => (nomatch (show (none : Option (Pre × Fld)) = some _ from h)), fun _ _ h => nomatch (show (none : Option (Slot × Slot)) = some _ from h)⟩

theorem Laws.F.retry (m : Msg) : Laws.F.Statement (.retry m) := by
  exact ⟨fun _ _ _ h => (nomatch (show (none : Option (Pre × Fld)) = some _ from h)), fun _ _ h => nomatch (show (none : Option (Slot × Slot)) = some _ from h)⟩

theorem Laws.F.err (m : Msg) : Laws.F.Statement (.err m) := by
  exact ⟨fun _ _ _ h => (nomatch (show (none : Option (Pre × Fld)) = some _ from h)), fun _ _ h => nomatch (show (none : Option (Slot × Slot)) = some _ from h)⟩

theorem Laws.F.gone (m : Msg) : Laws.F.Statement (.gone m) := by
  exact ⟨fun _ _ _ h => (nomatch (show (none : Option (Pre × Fld)) = some _ from h)), fun _ _ h => nomatch (show (none : Option (Slot × Slot)) = some _ from h)⟩

theorem Laws.F.mirack (m : Msg) : Laws.F.Statement (.mirack m) := by
  exact ⟨fun _ _ _ h => (nomatch (show (none : Option (Pre × Fld)) = some _ from h)), fun _ _ h => nomatch (show (none : Option (Slot × Slot)) = some _ from h)⟩

theorem Laws.F.data (m : Msg) : Laws.F.Statement (.data m) := by
  exact ⟨fun _ _ _ h => (nomatch (show (none : Option (Pre × Fld)) = some _ from h)), fun _ _ h => nomatch (show (none : Option (Slot × Slot)) = some _ from h)⟩

theorem Laws.F.datam (m : Msg) : Laws.F.Statement (.datam m) := by
  exact ⟨fun _ _ _ h => (nomatch (show (none : Option (Pre × Fld)) = some _ from h)), fun _ _ h => nomatch (show (none : Option (Slot × Slot)) = some _ from h)⟩

theorem Laws.F.mirror (m : Msg) : Laws.F.Statement (.mirror m) := by
  exact ⟨fun _ _ _ h => (nomatch (show (none : Option (Pre × Fld)) = some _ from h)), fun _ _ h => nomatch (show (none : Option (Slot × Slot)) = some _ from h)⟩

theorem Laws.F.remrd (m : Msg) : Laws.F.Statement (.remrd m) := by
  exact ⟨fun _ _ _ h => (nomatch (show (none : Option (Pre × Fld)) = some _ from h)), fun _ _ h => nomatch (show (none : Option (Slot × Slot)) = some _ from h)⟩

theorem Laws.F.remwr (m : Msg) : Laws.F.Statement (.remwr m) := by
  exact ⟨fun _ _ _ h => (nomatch (show (none : Option (Pre × Fld)) = some _ from h)), fun _ _ h => nomatch (show (none : Option (Slot × Slot)) = some _ from h)⟩

theorem Laws.F.remat (m : Msg) : Laws.F.Statement (.remat m) := by
  exact ⟨fun _ _ _ h => (nomatch (show (none : Option (Pre × Fld)) = some _ from h)), fun _ _ h => nomatch (show (none : Option (Slot × Slot)) = some _ from h)⟩

theorem Laws.F.remrsp (m : Msg) : Laws.F.Statement (.remrsp m) := by
  exact ⟨fun _ _ _ h => (nomatch (show (none : Option (Pre × Fld)) = some _ from h)), fun _ _ h => nomatch (show (none : Option (Slot × Slot)) = some _ from h)⟩

theorem Laws.F.disc (m : Msg) (port : Nat) : Laws.F.Statement (.disc m port) := by
  exact ⟨fun _ _ _ h => (nomatch (show (none : Option (Pre × Fld)) = some _ from h)), fun _ _ h => nomatch (show (none : Option (Slot × Slot)) = some _ from h)⟩

theorem Laws.F.discr (m : Msg) (port : Nat) : Laws.F.Statement (.discr m port) := by
  exact ⟨fun _ _ _ h => (nomatch (show (none : Option (Pre × Fld)) = some _ from h)), fun _ _ h => nomatch (show (none : Option (Slot × Slot)) = some _ from h)⟩

theorem Laws.F.shoot (m : Msg) : Laws.F.Statement (.shoot m) := by
  exact ⟨fun _ _ _ h => (nomatch (show (none : Option (Pre × Fld)) = some _ from h)), fun _ _ h => nomatch (show (none : Option (Slot × Slot)) = some _ from h)⟩

theorem Laws.F.shoota (m : Msg) : Laws.F.Statement (.shoota m) := by
  exact ⟨fun _ _ _ h => (nomatch (show (none : Option (Pre × Fld)) = some _ from h)), fun _ _ h => nomatch (show (none : Option (Slot × Slot)) = some _ from h)⟩

theorem Laws.F.probe (m : Msg) : Laws.F.Statement (.probe m) := by
  exact ⟨fun _ _ _ h => (nomatch (show (none : Option (Pre × Fld)) = some _ from h)), fun _ _ h => nomatch (show (none : Option (Slot × Slot)) = some _ from h)⟩

theorem Laws.F.jfail (m : Msg) : Laws.F.Statement (.jfail m) := by
  exact ⟨fun _ _ _ h => (nomatch (show (none : Option (Pre × Fld)) = some _ from h)), fun _ _ h => nomatch (show (none : Option (Slot × Slot)) = some _ from h)⟩

theorem Laws.F.census (m : Msg) : Laws.F.Statement (.census m) := by
  exact ⟨fun _ _ _ h => (nomatch (show (none : Option (Pre × Fld)) = some _ from h)), fun _ _ h => nomatch (show (none : Option (Slot × Slot)) = some _ from h)⟩

theorem Laws.F.report (m : Msg) : Laws.F.Statement (.report m) := by
  exact ⟨fun _ _ _ h => (nomatch (show (none : Option (Pre × Fld)) = some _ from h)), fun _ _ h => nomatch (show (none : Option (Slot × Slot)) = some _ from h)⟩

theorem Laws.F.censusComplete (die : Nat) : Laws.F.Statement (.censusComplete die) := by
  exact ⟨fun _ _ _ h => (nomatch (show (none : Option (Pre × Fld)) = some _ from h)), fun _ _ h => nomatch (show (none : Option (Slot × Slot)) = some _ from h)⟩

theorem Laws.F.junctionResponseTimeout (die : Nat) (txid : Nat) : Laws.F.Statement (.junctionResponseTimeout die txid) := by
  exact ⟨fun _ _ _ h => (nomatch (show (none : Option (Pre × Fld)) = some _ from h)), fun _ _ h => nomatch (show (none : Option (Slot × Slot)) = some _ from h)⟩

theorem Laws.F.snpOwnerTimeout (die : Nat) (la : Nat) : Laws.F.Statement (.snpOwnerTimeout die la) := by
  exact ⟨fun _ _ _ h => (nomatch (show (none : Option (Pre × Fld)) = some _ from h)), fun _ _ h => nomatch (show (none : Option (Slot × Slot)) = some _ from h)⟩

theorem Laws.F.lossRecordDrain (die : Nat) : Laws.F.Statement (.lossRecordDrain die) := by
  exact ⟨fun _ _ _ h => (nomatch (show (none : Option (Pre × Fld)) = some _ from h)), fun _ _ h => nomatch (show (none : Option (Slot × Slot)) = some _ from h)⟩

theorem Laws.F.snpinv (la : Nat) : Laws.F.Statement (.snpinv la) := by
  exact ⟨fun _ _ _ h => (nomatch (show (none : Option (Pre × Fld)) = some _ from h)), fun _ _ h => nomatch (show (none : Option (Slot × Slot)) = some _ from h)⟩

theorem Laws.F.snpdata (la : Nat) : Laws.F.Statement (.snpdata la) := by
  exact ⟨fun _ _ _ h => (nomatch (show (none : Option (Pre × Fld)) = some _ from h)), fun _ _ h => nomatch (show (none : Option (Slot × Slot)) = some _ from h)⟩

theorem Laws.F.snpcur (la : Nat) : Laws.F.Statement (.snpcur la) := by
  exact ⟨fun _ _ _ h => (nomatch (show (none : Option (Pre × Fld)) = some _ from h)), fun _ _ h => nomatch (show (none : Option (Slot × Slot)) = some _ from h)⟩

theorem Laws.F.hostM2sRequest (q : HostReq) : Laws.F.Statement (.hostM2sRequest q) := by
  exact ⟨fun _ _ _ h => (nomatch (show (none : Option (Pre × Fld)) = some _ from h)), fun _ _ h => nomatch (show (none : Option (Slot × Slot)) = some _ from h)⟩

theorem Laws.F.birsp (la : Nat) : Laws.F.Statement (.birsp la) := by
  exact ⟨fun _ _ _ h => (nomatch (show (none : Option (Pre × Fld)) = some _ from h)), fun _ _ h => nomatch (show (none : Option (Slot × Slot)) = some _ from h)⟩

theorem Laws.F.biconflict (q : HostReq) : Laws.F.Statement (.biconflict q) := by
  exact ⟨fun _ _ _ h => (nomatch (show (none : Option (Pre × Fld)) = some _ from h)), fun _ _ h => nomatch (show (none : Option (Slot × Slot)) = some _ from h)⟩

theorem Laws.F.flitReceive (die : Nat) (port : Nat) (flit : BitVec 2048) : Laws.F.Statement (.flitReceive die port flit) := by
  exact ⟨fun _ _ _ h => (nomatch (show (none : Option (Pre × Fld)) = some _ from h)), fun _ _ h => nomatch (show (none : Option (Slot × Slot)) = some _ from h)⟩

theorem Laws.F.idleFlit (die : Nat) (port : Nat) (flit : BitVec 2048) : Laws.F.Statement (.idleFlit die port flit) := by
  exact ⟨fun _ _ _ h => (nomatch (show (none : Option (Pre × Fld)) = some _ from h)), fun _ _ h => nomatch (show (none : Option (Slot × Slot)) = some _ from h)⟩

theorem Laws.F.replayRequest (die : Nat) (port : Nat) (flit : BitVec 2048) : Laws.F.Statement (.replayRequest die port flit) := by
  exact ⟨fun _ _ _ h => (nomatch (show (none : Option (Pre × Fld)) = some _ from h)), fun _ _ h => nomatch (show (none : Option (Slot × Slot)) = some _ from h)⟩

theorem Laws.F.portAckTimeout (die : Nat) (port : Nat) : Laws.F.Statement (.portAckTimeout die port) := by
  exact ⟨fun _ _ _ h => (nomatch (show (none : Option (Pre × Fld)) = some _ from h)), fun _ _ h => nomatch (show (none : Option (Slot × Slot)) = some _ from h)⟩

theorem Laws.F.portRetrain (die : Nat) (port : Nat) (ok : Bool) : Laws.F.Statement (.portRetrain die port ok) := by
  exact ⟨fun _ _ _ h => (nomatch (show (none : Option (Pre × Fld)) = some _ from h)), fun _ _ h => nomatch (show (none : Option (Slot × Slot)) = some _ from h)⟩

theorem Laws.F.classStarvation (die : Nat) (port : Nat) (cls : Nat) : Laws.F.Statement (.classStarvation die port cls) := by
  exact ⟨fun _ _ _ h => (nomatch (show (none : Option (Pre × Fld)) = some _ from h)), fun _ _ h => nomatch (show (none : Option (Slot × Slot)) = some _ from h)⟩

theorem Laws.F.portTrained (die : Nat) (port : Nat) : Laws.F.Statement (.portTrained die port) := by
  exact ⟨fun _ _ _ h => (nomatch (show (none : Option (Pre × Fld)) = some _ from h)), fun _ _ h => nomatch (show (none : Option (Slot × Slot)) = some _ from h)⟩

theorem Laws.F.discoverTimeout (die : Nat) (port : Nat) : Laws.F.Statement (.discoverTimeout die port) := by
  exact ⟨fun _ _ _ h => (nomatch (show (none : Option (Pre × Fld)) = some _ from h)), fun _ _ h => nomatch (show (none : Option (Slot × Slot)) = some _ from h)⟩

theorem Laws.F.hostPortTrainTimeout (die : Nat) : Laws.F.Statement (.hostPortTrainTimeout die) := by
  exact ⟨fun _ _ _ h => (nomatch (show (none : Option (Pre × Fld)) = some _ from h)), fun _ _ h => nomatch (show (none : Option (Slot × Slot)) = some _ from h)⟩

theorem Laws.F.dieReset (die : Nat) : Laws.F.Statement (.dieReset die) := by
  exact ⟨fun _ _ _ h => (nomatch (show (none : Option (Pre × Fld)) = some _ from h)), fun _ _ h => nomatch (show (none : Option (Slot × Slot)) = some _ from h)⟩

theorem Laws.F.bootStartTimeout (die : Nat) : Laws.F.Statement (.bootStartTimeout die) := by
  exact ⟨fun _ _ _ h => (nomatch (show (none : Option (Pre × Fld)) = some _ from h)), fun _ _ h => nomatch (show (none : Option (Slot × Slot)) = some _ from h)⟩

theorem Laws.F.doeStatus (die : Nat) : Laws.F.Statement (.doeStatus die) := by
  exact ⟨fun _ _ _ h => (nomatch (show (none : Option (Pre × Fld)) = some _ from h)), fun _ _ h => nomatch (show (none : Option (Slot × Slot)) = some _ from h)⟩

theorem Laws.F.doeStage (off : Nat) (bytes : List (BitVec 8)) : Laws.F.Statement (.doeStage off bytes) := by
  exact ⟨fun _ _ _ h => (nomatch (show (none : Option (Pre × Fld)) = some _ from h)), fun _ _ h => nomatch (show (none : Option (Slot × Slot)) = some _ from h)⟩

theorem Laws.F.doeRestart : Laws.F.Statement (.doeRestart) := by
  exact ⟨fun _ _ _ h => (nomatch (show (none : Option (Pre × Fld)) = some _ from h)), fun _ _ h => nomatch (show (none : Option (Slot × Slot)) = some _ from h)⟩

theorem Laws.F.spdmRequest (q : Spdm) : Laws.F.Statement (.spdmRequest q) := by
  exact ⟨fun _ _ _ h => (nomatch (show (none : Option (Pre × Fld)) = some _ from h)), fun _ _ h => nomatch (show (none : Option (Slot × Slot)) = some _ from h)⟩

theorem Laws.F.leaseRenewal (die : Nat) : Laws.F.Statement (.leaseRenewal die) := by
  exact ⟨fun _ _ _ h => (nomatch (show (none : Option (Pre × Fld)) = some _ from h)), fun _ _ h => nomatch (show (none : Option (Slot × Slot)) = some _ from h)⟩

theorem Laws.F.leaseWatch (die : Nat) : Laws.F.Statement (.leaseWatch die) := by
  exact ⟨fun _ _ _ h => (nomatch (show (none : Option (Pre × Fld)) = some _ from h)), fun _ _ h => nomatch (show (none : Option (Slot × Slot)) = some _ from h)⟩

theorem Laws.F.leaseTakeover (die : Nat) : Laws.F.Statement (.leaseTakeover die) := by
  exact ⟨fun _ _ _ h => (nomatch (show (none : Option (Pre × Fld)) = some _ from h)), fun _ _ h => nomatch (show (none : Option (Slot × Slot)) = some _ from h)⟩

theorem Laws.F.voterOutput (die : Nat) (mach : Nat) (a : Word) (b : Word) (c : Word) : Laws.F.Statement (.voterOutput die mach a b c) := by
  exact ⟨fun _ _ _ h => (nomatch (show (none : Option (Pre × Fld)) = some _ from h)), fun _ _ h => nomatch (show (none : Option (Slot × Slot)) = some _ from h)⟩

theorem Laws.F.resyncEnd (die : Nat) (mach : Nat) : Laws.F.Statement (.resyncEnd die mach) := by
  exact ⟨fun _ _ _ h => (nomatch (show (none : Option (Pre × Fld)) = some _ from h)), fun _ _ h => nomatch (show (none : Option (Slot × Slot)) = some _ from h)⟩

theorem Laws.F.voteInject (die : Nat) (mach : Nat) (copy : Nat) : Laws.F.Statement (.voteInject die mach copy) := by
  exact ⟨fun _ _ _ h => (nomatch (show (none : Option (Pre × Fld)) = some _ from h)), fun _ _ h => nomatch (show (none : Option (Slot × Slot)) = some _ from h)⟩

theorem Laws.F.injectDiscard (die : Nat) (mach : Nat) : Laws.F.Statement (.injectDiscard die mach) := by
  exact ⟨fun _ _ _ h => (nomatch (show (none : Option (Pre × Fld)) = some _ from h)), fun _ _ h => nomatch (show (none : Option (Slot × Slot)) = some _ from h)⟩

theorem Laws.F.shootdownPage (die : Nat) (spc : BitVec 3) (sz : BitVec 2) (pasid : BitVec 20) : Laws.F.Statement (.shootdownPage die spc sz pasid) := by
  exact ⟨fun _ _ _ h => (nomatch (show (none : Option (Pre × Fld)) = some _ from h)), fun _ _ h => nomatch (show (none : Option (Slot × Slot)) = some _ from h)⟩

theorem Laws.F.shootdownPasidSpace (die : Nat) (spc : BitVec 3) (pasid : BitVec 20) : Laws.F.Statement (.shootdownPasidSpace die spc pasid) := by
  exact ⟨fun _ _ _ h => (nomatch (show (none : Option (Pre × Fld)) = some _ from h)), fun _ _ h => nomatch (show (none : Option (Slot × Slot)) = some _ from h)⟩

theorem Laws.F.shootdownPasid (die : Nat) (pasid : BitVec 20) : Laws.F.Statement (.shootdownPasid die pasid) := by
  exact ⟨fun _ _ _ h => (nomatch (show (none : Option (Pre × Fld)) = some _ from h)), fun _ _ h => nomatch (show (none : Option (Slot × Slot)) = some _ from h)⟩

theorem Laws.F.shootdownAll (die : Nat) : Laws.F.Statement (.shootdownAll die) := by
  exact ⟨fun _ _ _ h => (nomatch (show (none : Option (Pre × Fld)) = some _ from h)), fun _ _ h => nomatch (show (none : Option (Slot × Slot)) = some _ from h)⟩

theorem Laws.F.shootdownComplete (die : Nat) : Laws.F.Statement (.shootdownComplete die) := by
  exact ⟨fun _ _ _ h => (nomatch (show (none : Option (Pre × Fld)) = some _ from h)), fun _ _ h => nomatch (show (none : Option (Slot × Slot)) = some _ from h)⟩

theorem Laws.F.pageReadyReport (die : Nat) (spc : BitVec 3) (pasid : BitVec 20) (vpn : BitVec 41) : Laws.F.Statement (.pageReadyReport die spc pasid vpn) := by
  exact ⟨fun _ _ _ h => (nomatch (show (none : Option (Pre × Fld)) = some _ from h)), fun _ _ h => nomatch (show (none : Option (Slot × Slot)) = some _ from h)⟩

theorem Laws.F.patinaForce (t : Nat) : Laws.F.Statement (.patinaForce t) := by
  exact ⟨fun _ _ _ h => (nomatch (show (none : Option (Pre × Fld)) = some _ from h)), fun _ _ h => nomatch (show (none : Option (Slot × Slot)) = some _ from h)⟩

theorem Laws.F.preemptRequest (task : BitVec 32) : Laws.F.Statement (.preemptRequest task) := by
  exact ⟨fun _ _ _ h => (nomatch (show (none : Option (Pre × Fld)) = some _ from h)), fun _ _ h => nomatch (show (none : Option (Slot × Slot)) = some _ from h)⟩

theorem Laws.F.preemptTake (t : Nat) : Laws.F.Statement (.preemptTake t) := by
  exact ⟨fun _ _ _ h => (nomatch (show (none : Option (Pre × Fld)) = some _ from h)), fun _ _ h => nomatch (show (none : Option (Slot × Slot)) = some _ from h)⟩

theorem Laws.F.threadRestore (t : Nat) : Laws.F.Statement (.threadRestore t) := by
  exact ⟨fun _ _ _ h => (nomatch (show (none : Option (Pre × Fld)) = some _ from h)), fun _ _ h => nomatch (show (none : Option (Slot × Slot)) = some _ from h)⟩

theorem Laws.F.queueTailAdvance (die : Nat) (pasid : BitVec 20) (qn : BitVec 16) : Laws.F.Statement (.queueTailAdvance die pasid qn) := by
  exact ⟨fun _ _ _ h => (nomatch (show (none : Option (Pre × Fld)) = some _ from h)), fun _ _ h => nomatch (show (none : Option (Slot × Slot)) = some _ from h)⟩

theorem Laws.F.spawnRecord (die : Nat) (pasid : BitVec 20) (qn : BitVec 16) : Laws.F.Statement (.spawnRecord die pasid qn) := by
  exact ⟨fun _ _ _ h => (nomatch (show (none : Option (Pre × Fld)) = some _ from h)), fun _ _ h => nomatch (show (none : Option (Slot × Slot)) = some _ from h)⟩

theorem Laws.F.copyTask (die : Nat) (pasid : BitVec 20) (qn : BitVec 16) : Laws.F.Statement (.copyTask die pasid qn) := by
  exact ⟨fun _ _ _ h => (nomatch (show (none : Option (Pre × Fld)) = some _ from h)), fun _ _ h => nomatch (show (none : Option (Slot × Slot)) = some _ from h)⟩

theorem Laws.F.countBarrierWait (die : Nat) (pasid : BitVec 20) (qn : BitVec 16) : Laws.F.Statement (.countBarrierWait die pasid qn) := by
  exact ⟨fun _ _ _ h => (nomatch (show (none : Option (Pre × Fld)) = some _ from h)), fun _ _ h => nomatch (show (none : Option (Slot × Slot)) = some _ from h)⟩

theorem Laws.F.list (die : Nat) (pasid : BitVec 20) (qn : BitVec 16) : Laws.F.Statement (.list die pasid qn) := by
  exact ⟨fun _ _ _ h => (nomatch (show (none : Option (Pre × Fld)) = some _ from h)), fun _ _ h => nomatch (show (none : Option (Slot × Slot)) = some _ from h)⟩

theorem Laws.F.countBarrierWaitComplete (task : BitVec 32) : Laws.F.Statement (.countBarrierWaitComplete task) := by
  exact ⟨fun _ _ _ h => (nomatch (show (none : Option (Pre × Fld)) = some _ from h)), fun _ _ h => nomatch (show (none : Option (Slot × Slot)) = some _ from h)⟩

theorem Laws.F.taskPlace (die : Nat) : Laws.F.Statement (.taskPlace die) := by
  exact ⟨fun _ _ _ h => (nomatch (show (none : Option (Pre × Fld)) = some _ from h)), fun _ _ h => nomatch (show (none : Option (Slot × Slot)) = some _ from h)⟩

theorem Laws.F.threadEnd (t : Nat) : Laws.F.Statement (.threadEnd t) := by
  exact ⟨fun _ _ _ h => (nomatch (show (none : Option (Pre × Fld)) = some _ from h)), fun _ _ h => nomatch (show (none : Option (Slot × Slot)) = some _ from h)⟩

theorem Laws.F.taskComplete (task : BitVec 32) : Laws.F.Statement (.taskComplete task) := by
  exact ⟨fun _ _ _ h => (nomatch (show (none : Option (Pre × Fld)) = some _ from h)), fun _ _ h => nomatch (show (none : Option (Slot × Slot)) = some _ from h)⟩

theorem Laws.F.temperatureChange (die : Nat) (deg : Nat) : Laws.F.Statement (.temperatureChange die deg) := by
  exact ⟨fun _ _ _ h => (nomatch (show (none : Option (Pre × Fld)) = some _ from h)), fun _ _ h => nomatch (show (none : Option (Slot × Slot)) = some _ from h)⟩

theorem Laws.F.correctedError (die : Nat) (arr : Nat) : Laws.F.Statement (.correctedError die arr) := by
  exact ⟨fun _ _ _ h => (nomatch (show (none : Option (Pre × Fld)) = some _ from h)), fun _ _ h => nomatch (show (none : Option (Slot × Slot)) = some _ from h)⟩

theorem Laws.F.uncorrectableError (die : Nat) (p : UePlace) : Laws.F.Statement (.uncorrectableError die p) := by
  exact ⟨fun _ _ _ h => (nomatch (show (none : Option (Pre × Fld)) = some _ from h)), fun _ _ h => nomatch (show (none : Option (Slot × Slot)) = some _ from h)⟩

theorem Laws.F.scrubPeriod (die : Nat) : Laws.F.Statement (.scrubPeriod die) := by
  exact ⟨fun _ _ _ h => (nomatch (show (none : Option (Pre × Fld)) = some _ from h)), fun _ _ h => nomatch (show (none : Option (Slot × Slot)) = some _ from h)⟩

theorem Laws.F.clusterOffline (die : Nat) (cl : Nat) : Laws.F.Statement (.clusterOffline die cl) := by
  exact ⟨fun _ _ _ h => (nomatch (show (none : Option (Pre × Fld)) = some _ from h)), fun _ _ h => nomatch (show (none : Option (Slot × Slot)) = some _ from h)⟩

theorem Laws.F.cxlCacheHostResponse (la : Nat) (data : LineData) : Laws.F.Statement (.cxlCacheHostResponse la data) := by
  exact ⟨fun _ _ _ h => (nomatch (show (none : Option (Pre × Fld)) = some _ from h)), fun _ _ h => nomatch (show (none : Option (Slot × Slot)) = some _ from h)⟩

theorem Laws.F.configurationSpaceAccess (addr : Nat) (write : Bool) (data : W32) : Laws.F.Statement (.configurationSpaceAccess addr write data) := by
  exact ⟨fun _ _ _ h => (nomatch (show (none : Option (Pre × Fld)) = some _ from h)), fun _ _ h => nomatch (show (none : Option (Slot × Slot)) = some _ from h)⟩

theorem Laws.F.probeFailure (die : Nat) (target : Nat) : Laws.F.Statement (.probeFailure die target) := by
  exact ⟨fun _ _ _ h => (nomatch (show (none : Option (Pre × Fld)) = some _ from h)), fun _ _ h => nomatch (show (none : Option (Slot × Slot)) = some _ from h)⟩

theorem Laws.F.controlFault (die : Nat) (cl : Nat) : Laws.F.Statement (.controlFault die cl) := by
  exact ⟨fun _ _ _ h => (nomatch (show (none : Option (Pre × Fld)) = some _ from h)), fun _ _ h => nomatch (show (none : Option (Slot × Slot)) = some _ from h)⟩

theorem Laws.F.pfringRecordDrain (die : Nat) : Laws.F.Statement (.pfringRecordDrain die) := by
  exact ⟨fun _ _ _ h => (nomatch (show (none : Option (Pre × Fld)) = some _ from h)), fun _ _ h => nomatch (show (none : Option (Slot × Slot)) = some _ from h)⟩

theorem Laws.F.monitorRingSpaceFreed (die : Nat) : Laws.F.Statement (.monitorRingSpaceFreed die) := by
  exact ⟨fun _ _ _ h => (nomatch (show (none : Option (Pre × Fld)) = some _ from h)), fun _ _ h => nomatch (show (none : Option (Slot × Slot)) = some _ from h)⟩

end Sys2Proof
end

