-- ==== Sys2Proof/Machine/AsmText.lean ====
section
/-! DEFINITION. Assembly source text: characters, tokens, lines (R13, R407), expressions and the forms they reduce to (R408). Every
function answers nothing where the assembler reports an error, and one error stops the assembly (R422). -/

namespace Sys2Proof.Joryan

/-! ### Tokens (R407) -/

/-- A piece of a line. -/
inductive Tok where
  | ident (s : List Char)
  | int (n : Nat)
  /-- A floating literal `m` × 10^`e`. -/
  | fp (m : Nat) (e : Int)
  /-- An operator or a mark; `'L'`, `'R'` and `'P'` stand for `<<`, `>>` and `||`. -/
  | mark (c : Char)
  deriving DecidableEq, Repr

/-- A letter or `_`, which may begin an identifier. -/
def idStart (c : Char) : Bool := c.isAlpha || c == '_'

/-- A character of an identifier. -/
def idChar (c : Char) : Bool := c.isAlphanum || c == '_' || c == '.'

/-- The value of a digit, 16 where it is none. -/
def digitVal (c : Char) : Nat :=
  if c.isDigit then c.toNat - 48 else if 'a' ≤ c && c ≤ 'f' then c.toNat - 87 else if 'A' ≤ c && c ≤ 'F' then c.toNat - 55 else 16

/-- Digits of a base with single `_` between them: `prev` is the value so far, if the last character was a digit. -/
def digitsGo (b : Nat) : Option Nat → Nat → List Char → Option Nat
  | prev, _, [] => prev
  | some v, _, '_' :: cs => digitsGo b none v cs
  | none, _, '_' :: _ => none
  | _, v, c :: cs => if digitVal c < b then digitsGo b (some (v * b + digitVal c)) (v * b + digitVal c) cs else none

/-- An integer literal: decimal, `0x` hexadecimal or `0b` binary digits. -/
def intLit : List Char → Option Nat
  | '0' :: 'x' :: cs => digitsGo 16 none 0 cs
  | '0' :: 'b' :: cs => digitsGo 2 none 0 cs
  | cs => digitsGo 10 none 0 cs

/-- The exponent of a floating literal. -/
def expLit : List Char → Option Int
  | '-' :: cs => (digitsGo 10 none 0 cs).map fun n => -(n : Int)
  | '+' :: cs => (digitsGo 10 none 0 cs).map fun n => (n : Int)
  | cs => (digitsGo 10 none 0 cs).map fun n => (n : Int)

/-- A floating literal that begins with these integer digits. -/
def fpTail (ip : List Char) (cs : List Char) : Option (Tok × List Char) :=
  let (fr, r) := match cs with | '.' :: r => r.span Char.isDigit | r => ([], r)
  let m := digitsGo 10 none 0 (ip ++ fr)
  let e0 : Int := -(fr.length : Int)
  match r with
  | c :: r =>
    if c == 'e' || c == 'E' then
      let (sg, r) := match r with | '-' :: r => (['-'], r) | '+' :: r => (['+'], r) | r => ([], r)
      let (ds, r) := r.span Char.isDigit
      match m, expLit (sg ++ ds) with | some m, some e => some (.fp m (e0 + e), r) | _, _ => none
    else if idStart c then none else m.map fun m => (.fp m e0, c :: r)
  | [] => m.map fun m => (.fp m e0, [])

/-- A literal that begins with a digit. -/
def numLit (cs : List Char) : Option (Tok × List Char) :=
  let (ip, r) := cs.span Char.isDigit
  match cs, r with
  | _, '.' :: _ => fpTail ip r
  | '0' :: c :: _, _ =>
    if c == 'x' || c == 'b' || c == '_' then
      let (w, r) := cs.span fun c => c.isAlphanum || c == '_'
      (intLit w).map fun n => (.int n, r)
    else if c == 'e' || c == 'E' then fpTail ip r
    else let (w, r) := cs.span fun c => c.isAlphanum || c == '_'; (intLit w).map fun n => (.int n, r)
  | _, c :: _ =>
    if c == 'e' || c == 'E' then fpTail ip r
    else let (w, r) := cs.span fun c => c.isAlphanum || c == '_'; (intLit w).map fun n => (.int n, r)
  | _, [] => (intLit ip).map fun n => (.int n, [])

/-- The tokens of a piece of a line. -/
def lexGo : Nat → List Char → Option (List Tok)
  | 0, _ => none
  | _ + 1, [] => some []
  | f + 1, c :: cs =>
    if c == ' ' then lexGo f cs
    else if idStart c then
      let (w, r) := (c :: cs).span idChar
      if w.length ≤ 255 then (lexGo f r).map (Tok.ident w :: ·) else none
    else if c.isDigit then (numLit (c :: cs)).bind fun (t, r) => (lexGo f r).map (t :: ·)
    else match c, cs with
      | '<', '<' :: r => (lexGo f r).map (Tok.mark 'L' :: ·)
      | '>', '>' :: r => (lexGo f r).map (Tok.mark 'R' :: ·)
      | '|', '|' :: r => (lexGo f r).map (Tok.mark 'P' :: ·)
      | c, r => if ("-~*/%+&^|()[],.".toList).contains c then (lexGo f r).map (Tok.mark c :: ·) else none

/-- The tokens of a piece of a line. -/
def lex (cs : List Char) : Option (List Tok) := lexGo (cs.length + 1) cs

/-- The pieces between marks of one kind. -/
def splitTok (m : Char) : List Tok → List (List Tok)
  | [] => [[]]
  | t :: ts => match splitTok m ts with
    | p :: ps => if t = .mark m then [] :: p :: ps else (t :: p) :: ps
    | [] => [[t]]

/-- The pieces between characters of one kind. -/
def splitChar (m : Char) : List Char → List (List Char)
  | [] => [[]]
  | c :: cs => match splitChar m cs with
    | p :: ps => if c == m then [] :: p :: ps else (c :: p) :: ps
    | [] => [[c]]

/-! ### Lines (R407) -/

/-- A line without its comment. -/
def noComment : List Char → List Char
  | [] => []
  | ';' :: _ => []
  | '/' :: '/' :: _ => []
  | c :: cs => c :: noComment cs

/-- A line without a CR that stood before its LF. -/
def noCr (l : List Char) : List Char := if l.getLast? = some '\r' then l.dropLast else l

/-- The lines of a source, if every character may stand in one. -/
def sourceLines (src : List Char) : Option (List (List Char)) :=
  let ps := splitChar '\n' src
  let ls := ps.dropLast.map noCr ++ ps.getLast?.toList
  if ls.all fun l => l.all fun c => 0x20 ≤ c.toNat && c.toNat ≤ 0x7E then some (ls.map noComment) else none

/-- Leading labels of a line, and the rest. A `:` before a digit belongs to a numeric field of an instruction (R12). -/
def labelsGo : Nat → List Char → List (List Char) × List Char
  | 0, cs => ([], cs)
  | f + 1, cs =>
    let cs := cs.dropWhile (· == ' ')
    match cs with
    | [] => ([], [])
    | c :: _ =>
      if !idStart c then ([], cs)
      else
        let (w, r) := cs.span idChar
        match r with
        | ':' :: d :: r' => if d.isDigit then ([], cs) else let (ls, q) := labelsGo f (d :: r'); (w :: ls, q)
        | ':' :: [] => ([w], [])
        | _ => ([], cs)

/-- What a line holds. -/
inductive Line where
  | empty
  /-- An instruction: its head, and its operands' tokens. -/
  | instr (head : List Char) (ops : List Tok)
  /-- A pair: slot A and slot B (R157). -/
  | pair (ha : List Char) (oa : List Tok) (hb : List Char) (ob : List Tok)
  | directive (name : List Char) (ops : List Tok)
  deriving DecidableEq, Repr

/-- The head of an instruction and the tokens after it. -/
def headOf (cs : List Char) : Option (List Char × List Tok) :=
  let cs := cs.dropWhile (· == ' ')
  let (h, r) := cs.span fun c => idChar c || c == ':'
  match h with
  | c :: _ => if idStart c then (lex r).map fun t => (h, t) else none
  | [] => none

/-- The parts of a statement on both sides of `||`. -/
def splitPair : List Char → List Char × Option (List Char)
  | [] => ([], none)
  | '|' :: '|' :: r => ([], some r)
  | c :: cs => let (a, b) := splitPair cs; (c :: a, b)

/-- The statement that follows a line's labels. -/
def statement (cs : List Char) : Option Line :=
  match cs.dropWhile (· == ' ') with
  | [] => some .empty
  | '.' :: r =>
    let (w, q) := r.span idChar
    if w.isEmpty || w.length > 255 then none else (lex q).map fun t => .directive w t
  | cs => match splitPair cs with
    | (a, none) => (headOf a).map fun p => .instr p.1 p.2
    | (a, some b) => (headOf a).bind fun p => (headOf b).map fun q => .pair p.1 p.2 q.1 q.2

/-! ### Expressions (R408) -/

/-- An expression as written; the operators are named by their marks. -/
inductive Ex where
  | num (v : Word)
  | sym (s : List Char)
  | here
  | tidx (s : List Char)
  | un (op : Char) (a : Ex)
  | bin (op : Char) (a b : Ex)
  deriving DecidableEq, Repr

/-- The operators of each level, from 2 to 7. -/
def levelOps : Nat → List Char
  | 2 => ['*', '/', '%']
  | 3 => ['+', '-']
  | 4 => ['L', 'R']
  | 5 => ['&']
  | 6 => ['^']
  | 7 => ['|']
  | _ => []

/-- Reads an expression of a level: with nothing read yet, or after a left operand. -/
def exGo : Nat → Nat → Option Ex → List Tok → Option (Ex × List Tok)
  | 0, _, _, _ => none
  | f + 1, l, none, ts =>
    if l ≤ 1 then
      match ts with
      | .mark '-' :: r => (exGo f 1 none r).map fun (e, q) => (.un '-' e, q)
      | .mark '~' :: r => (exGo f 1 none r).map fun (e, q) => (.un '~' e, q)
      | .mark '(' :: r => (exGo f 7 none r).bind fun (e, q) => match q with | .mark ')' :: q => some (e, q) | _ => none
      | .mark '.' :: r => some (.here, r)
      | .int n :: r => if n < 2 ^ 64 then some (.num (BitVec.ofNat 64 n), r) else none
      | .ident s :: .mark '(' :: .ident n :: .mark ')' :: r => if s = "tidx".toList then some (.tidx n, r) else none
      | .ident s :: r => some (.sym s, r)
      | _ => none
    else (exGo f (l - 1) none ts).bind fun (e, q) => exGo f l (some e) q
  | f + 1, l, some a, ts =>
    match ts with
    | .mark c :: r =>
      if (levelOps l).contains c then (exGo f (l - 1) none r).bind fun (b, q) => exGo f l (some (.bin c a b)) q else some (a, ts)
    | _ => some (a, ts)

/-- The expression that a run of tokens is. -/
def exOf (ts : List Tok) : Option Ex :=
  match exGo (9 * ts.length + 20) 7 none ts with | some (e, []) => some e | _ => none

/-- What a symbol names, for a relocation: a symbol of the file, or the start of a section. -/
inductive RSym where
  | sym (s : List Char)
  | sect (k : Nat)
  deriving DecidableEq, Repr

/-- The forms that an expression reduces to (R408). A relocatable value carries the place of its label, section and offset, where it has
one; `prel` is a label less the current location (R412). -/
inductive Val where
  | abs (v : Word)
  | rel (s : RSym) (at_ : Option (Nat × Nat)) (a : Word)
  | prel (s : RSym) (a : Word)
  | tix (s : List Char) (a : Word)
  deriving DecidableEq, Repr

/-- Where an expression is evaluated: the current section and location, and the places of the labels. -/
structure Place where
  sec : Nat
  here : Nat
  labels : List (List Char × Nat × Nat)
  deriving DecidableEq, Repr

/-- A binary operation on absolute values: 64-bit two's complement; `/` truncates toward zero. -/
def absOp (op : Char) (a b : Word) : Option Word :=
  if op == '*' then some (a * b)
  else if op == '/' then (if b = 0 then none else some (BitVec.ofInt 64 (a.toInt.tdiv b.toInt)))
  else if op == '%' then (if b = 0 then none else some (BitVec.ofInt 64 (a.toInt.tmod b.toInt)))
  else if op == '+' then some (a + b)
  else if op == '-' then some (a - b)
  else if op == 'L' then (if b.toNat < 64 then some (a <<< b.toNat) else none)
  else if op == 'R' then (if b.toNat < 64 then some (a >>> b.toNat) else none)
  else if op == '&' then some (a &&& b)
  else if op == '^' then some (a ^^^ b)
  else if op == '|' then some (a ||| b)
  else none

/-- A binary operation on reduced values. -/
def valOp (sec : Nat) (op : Char) (x y : Val) : Option Val :=
  match x, y with
  | .abs a, .abs b => (absOp op a b).map .abs
  | .rel s p a, .abs b => if op == '+' then some (.rel s p (a + b)) else if op == '-' then some (.rel s p (a - b)) else none
  | .abs b, .rel s p a => if op == '+' then some (.rel s p (a + b)) else none
  | .tix s a, .abs b => if op == '+' then some (.tix s (a + b)) else if op == '-' then some (.tix s (a - b)) else none
  | .abs b, .tix s a => if op == '+' then some (.tix s (a + b)) else none
  | .prel s a, .abs b => if op == '+' then some (.prel s (a + b)) else if op == '-' then some (.prel s (a - b)) else none
  | .rel s p a, .rel t q b =>
    if op != '-' then none
    else match p, q with
      | some (k, m), some (j, n) =>
        if k = j then some (.abs (BitVec.ofNat 64 m + a - (BitVec.ofNat 64 n + b)))
        else if t = .sect sec then some (.prel s (a - b)) else none
      | none, some _ => if t = .sect sec then some (.prel s (a - b)) else none
      | _, none => none
  | _, _ => none

/-- The form that an expression reduces to. -/
def Ex.eval (p : Place) : Ex → Option Val
  | .num v => some (.abs v)
  | .here => some (.rel (.sect p.sec) (some (p.sec, p.here)) 0)
  | .sym s => some (.rel (.sym s) ((p.labels.find? fun l => l.1 == s).map (·.2)) 0)
  | .tidx s => some (.tix s 0)
  | .un op a => (a.eval p).bind fun v => match v with
    | .abs x => if op == '-' then some (.abs (-x)) else if op == '~' then some (.abs (~~~x)) else none
    | _ => none
  | .bin op a b => (a.eval p).bind fun x => (b.eval p).bind fun y => valOp p.sec op x y

end Sys2Proof.Joryan
end

