-- ==== Sys2Proof/Machine/AsmWords.lean ====
section
/-! DEFINITION. The assembly form of every instruction (R12, R13, R155 to R157): one row of a table for each form, with its suffix fields
and its operands. A row's word is decoded by the model's own decoder, and one that would trap is assembled all the same (log 35). -/

namespace Sys2Proof.Joryan

/-! ### The table's parts -/

/-- A suffix field: where its lowest bit stands in the word, its enumerators, its numeric spelling (name, least and greatest value, and
what is taken off the value), and its default. -/
structure Suf where
  at_ : Nat
  enums : List (String × Nat)
  num : Option (String × Nat × Nat × Nat)
  dflt : Option Nat
  deriving DecidableEq, Repr

/-- An operand of a form. -/
inductive Pat where
  /-- A register of a kind, in the field that begins at a bit. Kind `'c'` is a compare's destination. -/
  | r (at_ : Nat) (k : Char)
  /-- A shaped SB: a register, a niche or an immediate (R136). -/
  | sh
  /-- SC, which an immediate in SB consumes. -/
  | c (k : Char)
  /-- A memory operand, with an index register or without (R160). -/
  | mem (ix : Bool)
  /-- A label that a branch reaches (R331). -/
  | rel
  /-- An immediate of SHAPE 0b11. -/
  | imm
  deriving DecidableEq, Repr

/-- A form of an instruction. -/
structure Row where
  name : String
  opc : Nat
  sufs : List Suf
  pat : List Pat
  deriving DecidableEq, Repr

/-- A field with enumerators and a default. -/
def en (at_ : Nat) (es : List (String × Nat)) (d : Nat) : Suf := ⟨at_, es, none, some d⟩
/-- A field with enumerators that must be written. -/
def must (at_ : Nat) (es : List (String × Nat)) : Suf := ⟨at_, es, none, none⟩
/-- A one-bit field that a suffix sets. -/
def flag (at_ : Nat) (n : String) : Suf := ⟨at_, [(n, 1)], none, some 0⟩
/-- A numeric field. -/
def numF (at_ : Nat) (n : String) (lo hi off : Nat) (d : Option Nat) : Suf := ⟨at_, [], some (n, lo, hi, off), d⟩

/-! ### Enumerators shared by forms -/

/-- IT (R199). -/
def eIT : List (String × Nat) := [("i32", 0), ("n32", 1), ("i64", 2), ("n64", 3)]
/-- W (R199). -/
def eW : List (String × Nat) := [("b32", 0), ("b64", 2)]
/-- CMP of `icmp` (R199). -/
def eCmp : List (String × Nat) := [("eq", 0), ("ne", 1), ("lt", 2), ("le", 3), ("gt", 4), ("ge", 5)]
/-- PK of `idp4` and `sad`. -/
def ePk : List (String × Nat) := [("i8x4", 0), ("n8x4", 1), ("i16x2", 2), ("n16x2", 3)]
/-- RND (R109). -/
def eRnd : List (String × Nat) := [("rne", 0), ("rtz", 1), ("rdn", 2), ("rup", 3), ("rna", 4), ("dyn", 7)]
/-- SCOPE (R140). -/
def eScope : List (String × Nat) := [("gang", 0), ("cl", 1), ("die", 2), ("pkg", 3), ("sys", 4)]
/-- ORD (R140). -/
def eOrd : List (String × Nat) := [("rlx", 0), ("acq", 1), ("rel", 2), ("ar", 3), ("sc", 4)]
/-- POL (R140). -/
def ePol : List (String × Nat) := [("wb", 1), ("wt", 2), ("str", 3), ("ro", 4)]
/-- The integer and bit types of TYPE (R141). -/
def eTyI : List (String × Nat) :=
  [("i8", 0), ("i16", 1), ("i32", 2), ("i64", 3), ("n8", 4), ("n16", 5), ("n32", 6), ("n64", 7)]
    ++ [("b8", 8), ("b16", 9), ("b32", 10), ("b64", 11), ("b128", 12)]
/-- The narrow types of TYPE (R141). -/
def eTyN : List (String × Nat) :=
  [("e4m3", 16), ("e5m2", 17), ("e3m2", 18), ("e2m3", 19), ("e2m1", 20), ("int8", 21), ("int4", 22)]
/-- The types of the matrix instructions (R226). -/
def eTyM : List (String × Nat) := [("f32", 13), ("bf16x2", 14)] ++ eTyN
/-- TYPE (R141). -/
def eTy : List (String × Nat) := eTyI ++ eTyM
/-- AOP (R179). -/
def eAop : List (String × Nat) :=
  [("swap", 0), ("cas", 1), ("add", 2), ("min", 3), ("max", 4), ("and", 5), ("or", 6), ("xor", 7)]
/-- ROP and GOP (R222, R356). -/
def eRop : List (String × Nat) := [("add", 0), ("min", 1), ("max", 2), ("and", 3), ("or", 4), ("xor", 5)]
/-- RTY (R222). -/
def eRty : List (String × Nat) := [("i32", 0), ("n32", 1), ("f32", 2)]
/-- GTY (R356). -/
def eGty : List (String × Nat) := [("i32", 0), ("n32", 1), ("i64", 2), ("n64", 3), ("f32", 4)]

/-- SCOPE in SC[9:7], with a default or without. -/
def scope (d : Option Nat) : Suf := ⟨17, eScope, none, d⟩
/-- ORD in MOD[7:5]. -/
def ord : Suf := en 5 eOrd 0
/-- POL in SC[6:4]. -/
def pol : Suf := en 14 ePol 0
/-- The permutation mode, which stands in a kind-1 prefix and not in the word: bit 64 stands for it, and 16 for its absence (R156). -/
def bpmF : Suf := numF 64 "bpm" 0 15 0 (some 16)

/-- vD, vA, SB. -/
def p3 : List Pat := [.r 40 'v', .r 30 'v', .sh]
/-- vD, vA. -/
def p2 : List Pat := [.r 40 'v', .r 30 'v']
/-- vD, vA, SB, vC. -/
def p4 : List Pat := [.r 40 'v', .r 30 'v', .sh, .c 'v']
/-- A per-lane memory operand with a register of kind `k`. -/
def pm (k : Char) (ix : Bool) : List Pat := [.r 40 k, .mem ix]
/-- sD, sA, sB of the unshaped forms. -/
def ps3 : List Pat := [.r 40 's', .r 30 's', .r 20 's']

/-! ### The forms (R199 to R223) -/

/-- Integer and bit instructions. -/
def rowsInt : List Row :=
  let it := en 5 eIT 0
  let w := en 5 eW 0
  let cy := [it, en 3 [("co", 1), ("cio", 2), ("sat", 3)] 0, numF 0 "cp" 0 7 0 (some 0)]
  let hw := [it, en 3 [("lo", 0), ("hi", 1), ("wide", 2)] 0]
  let sat := flag 4 "sat"
  let pk := [en 5 ePk 0, sat]
  [⟨"iadd", 0x20, cy, p3⟩, ⟨"isub", 0x21, cy, p3⟩, ⟨"imul", 0x22, hw, p3⟩, ⟨"imad", 0x23, hw, p4⟩]
    ++ [⟨"idiv", 0x24, [it, en 4 [("q", 0), ("r", 1)] 0], p3⟩, ⟨"imin", 0x25, [it], p3⟩, ⟨"imax", 0x26, [it], p3⟩]
    ++ [⟨"iabs", 0x27, [en 5 [("i32", 0), ("i64", 2)] 0, sat], p2⟩, ⟨"ineg", 0x28, [en 5 [("i32", 0), ("i64", 2)] 0, sat], p2⟩]
    ++ [⟨"icmp", 0x29, [it, en 2 eCmp 0], [.r 40 'c', .r 30 'v', .sh]⟩, ⟨"idp4", 0x2A, pk, p4⟩]
    ++ [⟨"lea", 0x2B, [w, numF 0 "sh" 0 31 0 (some 0)], p3⟩, ⟨"and", 0x2C, [w], p3⟩, ⟨"or", 0x2D, [w], p3⟩, ⟨"xor", 0x2E, [w], p3⟩]
    ++ [⟨"not", 0x2F, [w], p2⟩, ⟨"shl", 0x30, [w], p3⟩, ⟨"shr", 0x31, [w, en 4 [("l", 0), ("a", 1)] 0], p3⟩, ⟨"rot", 0x32, [w], p3⟩]
    ++ [⟨"bfe", 0x33, [w, en 4 [("z", 0), ("s", 1)] 0], p4⟩, ⟨"bfi", 0x34, [w], p4⟩, ⟨"bfrev", 0x35, [w], p2⟩]
    ++ [⟨"bcnt", 0x36, [w, en 3 [("popc", 0), ("clz", 1), ("ctz", 2)] 0], p2⟩, ⟨"sad", 0x37, pk, p4⟩]

/-- Moves and predicates. -/
def rowsMove : List Row :=
  let mt := [("b32", 0), ("i32", 1), ("f32", 2), ("bf16x2", 3), ("i16x2", 4), ("i8x4", 5), ("b64", 6)]
  let tags := [("nil", 0), ("i32", 1), ("f32", 2), ("bf16x2", 3), ("i16x2", 4), ("i8x4", 5), ("psn", 15)]
  let lut := [("nor", 1), ("andn", 4), ("xor", 6), ("nand", 7), ("and", 8), ("xnor", 9), ("or", 14)]
  let sel := [("lane", 0), ("slice", 1), ("within", 2), ("ltmask", 3), ("lemask", 4), ("actmask", 5), ("nlanes", 6), ("part", 7)]
    ++ [("core", 8), ("cluster", 9), ("die", 10)]
  [⟨"mov", 0x38, [en 5 eW 0], [.r 40 'v', .sh]⟩, ⟨"movi", 0x39, [en 4 mt 0], [.r 40 'v', .imm]⟩]
    ++ [⟨"sel", 0x3A, [], [.r 40 'v', .r 30 'v', .sh, .c 'p']⟩, ⟨"movx", 0x3B, [⟨0, tags, some ("tag", 0, 15, 0), none⟩], p2⟩]
    ++ [⟨"plog", 0x3C, [⟨0, lut, some ("lut", 0, 15, 0), some 8⟩], [.r 40 'p', .r 30 'p', .r 20 'p']⟩]
    ++ [⟨"pmov", 0x3D, [must 0 [("tov", 0)]], [.r 40 'v', .r 30 'p']⟩, ⟨"pmov", 0x3D, [must 0 [("fromv", 1)]], [.r 40 'p', .r 30 'v']⟩]
    ++ [⟨"pmov", 0x3D, [must 0 [("tos", 2)]], [.r 40 's', .r 30 'p']⟩, ⟨"pmov", 0x3D, [must 0 [("froms", 3)]], [.r 40 'p', .r 30 's']⟩]
    ++ [⟨"sreg", 0x3E, [must 0 sel], [.r 40 'v']⟩]

/-- Floating-point instructions and conversions. -/
def rowsFloat : List Row :=
  let ft := en 6 [("f32", 0), ("bf16x2", 1)] 0
  let fr := [ft, en 3 eRnd 0]
  let fcmp := [("eq", 0), ("ne", 1), ("lt", 2), ("le", 3), ("gt", 4), ("ge", 5), ("un", 6), ("ord", 7)]
  let cv := [("i32tof32", 0), ("n32tof32", 1), ("f32toi32", 2), ("f32ton32", 3), ("i64tof32", 4), ("n64tof32", 5), ("f32toi64", 6)]
    ++ [("f32ton64", 7), ("i32toi64", 8), ("n32ton64", 9), ("i64toi32", 10), ("n64ton32", 11), ("i32ton32", 12), ("n32toi32", 13)]
  let rnd := en 0 eRnd 0
  [⟨"fadd", 0x40, fr, p3⟩, ⟨"fsub", 0x41, fr, p3⟩, ⟨"fmul", 0x42, fr, p3⟩, ⟨"fma", 0x43, fr, p4⟩, ⟨"fmin", 0x44, [ft], p3⟩]
    ++ [⟨"fmax", 0x45, [ft], p3⟩, ⟨"fcmp", 0x46, [ft, must 0 fcmp], [.r 40 'c', .r 30 'v', .sh]⟩, ⟨"frcp", 0x47, fr, p2⟩]
    ++ [⟨"frsq", 0x48, [ft], p2⟩, ⟨"fsqrt", 0x49, fr, p2⟩, ⟨"fexp2", 0x4A, [ft], p2⟩, ⟨"flog2", 0x4B, [ft], p2⟩, ⟨"fsin", 0x4C, [ft], p2⟩]
    ++ [⟨"fcos", 0x4D, [ft], p2⟩, ⟨"fdiv", 0x4E, fr, p3⟩, ⟨"frnd", 0x4F, fr, p2⟩, ⟨"fclass", 0x50, [ft], p2⟩, ⟨"fscale", 0x51, fr, p3⟩]
    ++ [⟨"ffrac", 0x52, fr, p2⟩, ⟨"fdot2", 0x53, fr, p4⟩, ⟨"cvt", 0x58, [must 3 cv, rnd], p2⟩]
    ++ [⟨"pack", 0x59, [must 4 [("bf16x2", 0), ("i16x2", 1), ("n16x2", 2), ("i8x4", 3), ("n8x4", 4)], rnd], p3⟩]
    ++ [⟨"unpk", 0x5A, [must 4 [("bf16", 0), ("i16", 1), ("n16", 2), ("i8", 3), ("n8", 4)], numF 0 "el" 0 3 0 (some 0)], p2⟩]

/-- Lane instructions. -/
def rowsLane : List Row :=
  let red := [must 5 eRop, must 3 eRty, en 0 eRnd 0]
  [⟨"vote", 0x5C, [must 0 [("all", 0), ("any", 1)]], [.r 40 'p', .r 30 'p']⟩]
    ++ [⟨"vote", 0x5C, [must 0 [("ballot", 2), ("count", 3)]], [.r 40 's', .r 30 'p']⟩]
    ++ [⟨"shfl", 0x5D, [must 0 [("idx", 0), ("up", 1), ("down", 2), ("xor", 3)], numF 2 "segl" 0 5 0 (some 5)], p3⟩]
    ++ [⟨"prmt", 0x5E, [], p4⟩, ⟨"redg", 0x5F, red, p2⟩, ⟨"scan", 0x60, red ++ [en 10 [("incl", 0), ("excl", 1)] 0], p2⟩]
    ++ [⟨"match", 0x61, [must 0 [("any", 0)]], p2⟩, ⟨"match", 0x61, [must 0 [("all", 1)]], [.r 40 'p', .r 30 'v']⟩]

/-! ### The forms (R158 to R195, R224 to R246) -/

/-- Memory instructions. -/
def rowsMem : List Row :=
  let g := scope (some 0)
  let s := scope none
  let w := en 4 [("b32", 0), ("b64", 1)] 1
  let now := flag 10 "now"
  [⟨"ld", 0x64, [must 0 eTy, ord, g, pol, now, bpmF], pm 'v' true⟩]
    ++ [⟨"st", 0x65, [must 0 eTyN, ord, g, pol, en 10 eRnd 7, bpmF], pm 'v' true⟩]
    ++ [⟨"st", 0x65, [must 0 eTy, ord, g, pol, en 10 eRnd 0, bpmF], pm 'v' true⟩]
    ++ [⟨"sld", 0x66, [must 0 eTy, ord, g, pol, now, bpmF], pm 's' false⟩, ⟨"sst", 0x67, [must 0 eTy, ord, g, pol, bpmF], pm 's' false⟩]
    ++ [⟨"atom", 0x68, [must 0 eTy, ord, g, must 14 eAop, bpmF], pm 'v' true⟩]
    ++ [⟨"satom", 0x69, [must 0 eTy, ord, g, must 14 eAop, bpmF], pm 's' false⟩]
    ++ [⟨"srel", 0x6A, [s, flag 7 "fresh", en 5 [("st", 0), ("add", 1), ("or", 2)] 0, w], pm 's' false⟩]
    ++ [⟨"sacq", 0x6B, [s, flag 7 "clr", w], pm 's' false⟩, ⟨"fence", 0x6C, [s, must 5 eOrd], []⟩]
    ++ [⟨"wait", 0x6D, [numF 40 "ld" 0 63 0 (some 63), numF 30 "st" 0 63 0 (some 63), numF 20 "cp" 0 63 0 (some 63)]
        ++ [numF 10 "mx" 0 63 0 (some 63)], []⟩]
    ++ [⟨"prf", 0x6E, [en 10 [("near", 0), ("l2", 1)] 0], [.mem true]⟩]
    ++ [⟨"cmo", 0x6F, [s, must 0 [("wb", 0), ("wbinv", 1), ("iinv", 2)]], [.mem true]⟩]
    ++ [⟨"dcf", 0x70, [s], [.r 30 's', .r 20 's']⟩, ⟨"pclr", 0x71, [], ps3⟩]
    ++ [⟨"cbar", 0x72, [s, must 0 [("wait", 0), ("test", 1), ("arm", 2), ("arrive", 3)]], ps3⟩]
    ++ [⟨"cpq", 0x73, [numF 0 "ch" 0 7 0 none], [.r 30 's', .r 20 's']⟩]

/-- Matrix and tile instructions. -/
def rowsTile : List Row :=
  let tp := en 17 ePol 0
  [⟨"tcfg", 0x74, [en 0 [("keep", 0), ("zero", 1)] 0], [.r 40 's', .sh]⟩, ⟨"trel", 0x75, [], []⟩]
    ++ [⟨"tzero", 0x76, [numF 0 "cnt" 1 64 1 (some 0)], [.r 40 'a']⟩]
    ++ [⟨"mma", 0x77, [⟨6, [("k:32", 0), ("k:64", 1), ("k:128", 2)], none, none⟩, must 0 eTyM, flag 5 "x3", en 17 eRnd 0]
        ++ [flag 16 "sca", flag 15 "scb", numF 10 "nb" 1 32 1 (some 0)], [.r 40 'a', .r 30 's', .r 20 's']⟩]
    ++ [⟨"tld", 0x78, [must 0 eTyM, tp, flag 5 "now"], [.r 40 'a', .mem false, .r 10 's']⟩]
    ++ [⟨"tst", 0x79, [must 0 [("f32", 13)], tp, en 5 eRnd 0], [.r 40 'a', .mem false, .r 10 's']⟩]
    ++ [⟨"tst", 0x79, [must 0 eTyM, tp, en 5 eRnd 7], [.r 40 'a', .mem false, .r 10 's']⟩]
    ++ [⟨"tmov", 0x7A, [must 0 [("tov", 0)]], [.r 40 'v', .r 30 'a']⟩, ⟨"tmov", 0x7A, [must 0 [("fromv", 1)]], [.r 40 'a', .r 30 'v']⟩]
    ++ [⟨"tmov", 0x7A, [must 0 [("tot", 2)]], [.r 40 'a', .r 30 'a']⟩, ⟨"mbat", 0x7B, [], [.r 40 's']⟩]
    ++ [⟨"mwait", 0x7C, [must 0 [("all", 1)]], [.r 40 's']⟩, ⟨"mwait", 0x7C, [], [.r 40 's', .sh]⟩]
    ++ [⟨"tscl", 0x7D, [en 3 eRnd 0, flag 7 "relu"], [.r 40 'a', .r 30 'a', .sh, .c 's']⟩]

/-! ### The forms (R329) -/

/-- Control, synchronisation and system instructions. -/
def rowsCtl : List Row :=
  let g := [must 5 eRop, must 2 eGty]
  [⟨"nop", 0x00, [], []⟩, ⟨"bra", 0x01, [must 0 [("nz", 1), ("z", 2)]], [.r 30 's', .rel]⟩, ⟨"bra", 0x01, [], [.rel]⟩, ⟨"bri", 0x02, [], [.sh]⟩]
    ++ [⟨"call", 0x03, [], [.r 40 's', .rel]⟩, ⟨"call", 0x03, [], [.r 40 's', .sh]⟩, ⟨"ret", 0x04, [], [.r 30 's']⟩, ⟨"exit", 0x05, [], []⟩]
    ++ [⟨"mark", 0x06, [must 0 [("join", 0), ("break", 1), ("cont", 2)]], [.rel]⟩, ⟨"merge", 0x07, [], []⟩, ⟨"brk", 0x08, [], []⟩]
    ++ [⟨"cont", 0x09, [], []⟩, ⟨"regang", 0x0A, [], []⟩, ⟨"join", 0x0B, [], [.r 40 'v', .sh]⟩, ⟨"leave", 0x0C, [], [.sh]⟩]
    ++ [⟨"bar", 0x0D, [must 7 [("red", 1)], must 4 eRop, must 2 eRty], [.r 40 'v', .sh, .c 'v']⟩, ⟨"bar", 0x0D, [], [.sh]⟩]
    ++ [⟨"elect", 0x0E, [], [.r 40 'p']⟩, ⟨"trap", 0x0F, [en 0 [("user", 0), ("bkpt", 1)] 0], [.imm]⟩]
    ++ [⟨"rett", 0x10, [flag 0 "skip"], [.r 30 's']⟩, ⟨"svc", 0x11, [], [.r 40 's', .r 30 'v', .sh, .c 's']⟩]
    ++ [⟨"spawn", 0x12, [], [.r 40 's', .r 30 's', .sh]⟩, ⟨"mwatch", 0x13, [], [.r 30 's']⟩, ⟨"msleep", 0x14, [], [.r 40 's', .sh]⟩]
    ++ [⟨"pause", 0x15, [], [.sh]⟩, ⟨"csrr", 0x16, [], [.r 40 's', .imm]⟩, ⟨"csrw", 0x17, [], [.imm, .r 30 's']⟩]
    ++ [⟨"nw", 0x18, [must 0 [("vs", 1)], flag 1 "w"], [.r 40 'n', .r 30 'v', .sh]⟩, ⟨"nw", 0x18, [], [.r 40 'n', .r 30 's', .sh]⟩]
    ++ [⟨"nr", 0x19, [en 0 [("peek", 0), ("take", 1)] 0], [.r 40 's', .r 30 'n']⟩, ⟨"nred", 0x1A, g, [.r 40 'n', .r 30 'v']⟩]
    ++ [⟨"nctl", 0x1B, [must 6 [("gather", 0)], must 3 eRop, must 0 eGty], [.r 40 'n', .sh]⟩]
    ++ [⟨"nctl", 0x1B, [must 6 [("bcast", 1), ("empty", 2)]], [.r 40 'n', .sh]⟩]
    ++ [⟨"hsr", 0x1C, [], [.r 40 'x', .sh]⟩, ⟨"hsw", 0x1D, [], [.r 30 'x', .sh]⟩]

/-- Every form. -/
def rows : List Row := rowsCtl ++ rowsInt ++ rowsMove ++ rowsFloat ++ rowsLane ++ rowsMem ++ rowsTile

/-! ### Names of registers and control words (R13, R352, R386, R393) -/

/-- A register name: its kind and number. -/
def regName : List Char → Option (Char × Nat)
  | [] => none
  | k :: ds =>
    let top := if k == 'v' then 1024 else if k == 'p' then 16 else if ("snax".toList).contains k then 64 else 0
    if ds.isEmpty || !ds.all Char.isDigit || (ds.length > 1 && ds.head? == some '0') || ds.length > 4 then none
    else match digitsGo 10 none 0 ds with | some n => if n < top then some (k, n) else none | none => none

/-- The control words by name. -/
def csrNames : List (String × Nat) :=
  [("rmode", 0x000), ("fflags", 0x001), ("tagchk", 0x002), ("bpm", 0x003), ("patina_sat", 0x004), ("mxerr", 0x005)]
    ++ [("gangid", 0x010), ("pasid", 0x011), ("prv_base", 0x012), ("prv_size", 0x013), ("tmpl_base", 0x018), ("cbar_base", 0x019)]
    ++ [("csa_base", 0x01A), ("vlt_base", 0x01B), ("vlt_limit", 0x01C), ("aclk", 0x020), ("fclk", 0x021), ("csplit", 0x022), ("clpos", 0x023)]
    ++ [("ptb0", 0x030), ("ptb1", 0x031), ("ptb2", 0x032), ("sdaddr", 0x033), ("sdreq", 0x034), ("lrbase", 0x035), ("svcring", 0x036)]
    ++ [("votectl", 0x037), ("trapvec", 0x038), ("pfring", 0x039), ("pgrdy", 0x03A), ("preempt", 0x03B), ("trec", 0x03C), ("dbgctl", 0x03D)]
    ++ [("monring", 0x03E), ("evcnt", 0x03F)]

/-- Looks a name up. -/
def findS {α : Type} (l : List (String × α)) (s : List Char) : Option α := (l.find? fun p => p.1.toList == s).map (·.2)

/-- A name that no symbol may have (R407). -/
def reserved (s : List Char) : Bool :=
  (regName s).isSome || (findS csrNames s).isSome || (findS (eScope ++ eOrd ++ ePol) s).isSome

/-! ### Operands as written -/

/-- An operand. -/
inductive Opd where
  | reg (k : Char) (n : Nat)
  /-- A base register, with an index register or an offset. -/
  | mem (k : Char) (n : Nat) (idx : Option Nat) (off : Option Ex)
  | ex (e : Ex)
  | fp (neg : Bool) (m : Nat) (e : Int)
  deriving DecidableEq, Repr

/-- The niches' names of the kernel, in order: a name stands for its number (R415). -/
abbrev Niches := List (List Char)

/-- A register operand, a niche's name included. -/
def regOpd (ns : Niches) (s : List Char) : Option (Char × Nat) :=
  match regName s with
  | some r => some r
  | none => if ns.contains s then some ('n', ns.idxOf s) else none

/-- Whether an expression uses a name that may not stand in one: a register's or a niche's (R415). -/
def Ex.bad (ns : Niches) : Ex → Bool
  | .num _ | .here | .tidx _ => false
  | .sym s => (regOpd ns s).isSome
  | .un _ a => a.bad ns
  | .bin _ a b => a.bad ns || b.bad ns

/-- The expression of some tokens, with no register or niche in it. -/
def exIn (ns : Niches) (ts : List Tok) : Option Ex := (exOf ts).bind fun e => if e.bad ns then none else some e

/-- A memory operand: `[sB]`, `[sB + vI]`, `[sB + imm]` (R13, R160). -/
def memOpd (ns : Niches) : List Tok → Option Opd
  | .ident b :: r => (regName b).bind fun (k, n) =>
    match r with
    | [] => some (.mem k n none none)
    | .mark '+' :: .ident i :: [] => match regName i with
      | some ('v', j) => some (.mem k n (some j) none)
      | some _ => none
      | none => (exIn ns [.ident i]).map fun e => .mem k n none (some e)
    | .mark '+' :: q => (exIn ns q).map fun e => .mem k n none (some e)
    | _ => none
  | _ => none

/-- An operand of some tokens. -/
def opdOf (ns : Niches) : List Tok → Option Opd
  | .mark '[' :: r => if r.getLast? = some (.mark ']') then memOpd ns r.dropLast else none
  | [.fp m e] => some (.fp false m e)
  | [.mark '-', .fp m e] => some (.fp true m e)
  | [.ident s] => match regOpd ns s with | some (k, n) => some (.reg k n) | none => some (.ex (.sym s))
  | ts => (exIn ns ts).map .ex

/-- The operands of an instruction. -/
def opdsOf (ns : Niches) (ts : List Tok) : Option (List Opd) :=
  if ts.isEmpty then some [] else (splitTok ',' ts).mapM (opdOf ns)

/-! ### Suffixes (R12, R155) -/

/-- The code that a suffix gives a field, if it is one of the field's. -/
def Suf.code (f : Suf) (seg : List Char) : Option Nat :=
  match findS f.enums seg with
  | some c => some c
  | none => match f.num with
    | some (n, lo, hi, off) =>
      match splitChar ':' seg with
      | [w, d] => if w == n.toList then (intLit d).bind fun v => if lo ≤ v && v ≤ hi then some (v - off) else none else none
      | _ => none
    | none => none

/-- The codes of a form's fields, each with its place: every suffix is of one field, no field has two, and a field without a default is
written. -/
def sufCodes (fs : List Suf) (segs : List (List Char)) : Option (List (Nat × Nat)) :=
  if !segs.all fun s => fs.any fun f => (f.code s).isSome then none
  else fs.mapM fun f => match segs.filterMap f.code with
    | [] => f.dflt.map fun c => (f.at_, c)
    | [c] => some (f.at_, c)
    | _ => none

/-- The fields that every form has (R155): the guard, its negation, and U in the arithmetic classes. -/
def commonSufs (opc : Nat) : List Suf :=
  let ps := (List.range 16).map fun k => ("p" ++ (Nat.repr k), k)
  [⟨51, ps, none, some 0⟩, flag 50 "inv"] ++ (if 0x20 ≤ opc ∧ opc ≤ 0x5A then [flag 7 "u"] else [])

/-! ### Immediates (R137, R148, R156, R160) -/

/-- The class of a form's immediate. -/
inductive Cls where
  | int (w : Nat) | fp | bf | ctl | code | off
  deriving DecidableEq, Repr

/-- The class of the immediate of a word. -/
def immCls (opc w : Nat) : Cls :=
  let a := w / 32 % 4
  let m := w / 16 % 8
  if 0x20 ≤ opc ∧ opc ≤ 0x29 then .int (if 2 ≤ a then 64 else 32)
  else if opc = 0x2A ∨ opc = 0x37 then .int 32
  else if 0x2B ≤ opc ∧ opc ≤ 0x38 then .int (if a = 2 then 64 else 32)
  else if opc = 0x39 then (if m = 2 then .fp else if m = 3 then .bf else .int (if m = 6 then 64 else 32))
  else if 0x40 ≤ opc ∧ opc ≤ 0x53 then (if w / 64 % 2 = 1 then .bf else .fp)
  else if opc = 0x59 then (if m = 0 then .fp else .int 32)
  else if 0x5C ≤ opc ∧ opc ≤ 0x61 then .int 32
  else if opc = 0x74 ∨ opc = 0x7C then .int 32
  else if opc = 0x0F then .code else .ctl

/-- Where an immediate goes: the short field, or the payload of a kind-0 word before the instruction. -/
inductive Put where
  | short (n : Nat)
  | wide (p : Nat)
  deriving DecidableEq, Repr

/-- Places an absolute value, in the short field where it fits and may. -/
def putAbs (c : Cls) (grown : Bool) (v : Word) : Option Put :=
  let s := v.toInt
  let p := v.toNat % 2 ^ 32
  let u48 := v.toNat % 2 ^ 48
  let in32 := decide (-2 ^ 31 ≤ s) && decide (s < 2 ^ 32)
  let pick := fun (ok short : Bool) (n q : Nat) => if !ok then none else if short && !grown then some (Put.short n) else some (Put.wide q)
  match c with
  | .int 32 => pick in32 ((p + 2 ^ 19) % 2 ^ 32 < 2 ^ 20) (p % 2 ^ 20) u48
  | .ctl => pick (decide (-2 ^ 47 ≤ s) && decide (s < 2 ^ 47)) (in32 && decide ((p + 2 ^ 19) % 2 ^ 32 < 2 ^ 20)) (p % 2 ^ 20) u48
  | .int _ => pick (decide (-2 ^ 47 ≤ s) && decide (s < 2 ^ 47)) (decide (-2 ^ 19 ≤ s) && decide (s < 2 ^ 19)) (v.toNat % 2 ^ 20) u48
  | .fp => pick in32 (p % 4096 == 0) (p / 4096) p
  | .bf => pick in32 (p / 65536 == p % 65536) (p % 65536) p
  | .code => pick (decide (v.toNat < 2 ^ 48)) (decide (v.toNat < 2 ^ 20)) v.toNat v.toNat
  | .off => pick (decide (-2 ^ 47 ≤ s) && decide (s < 2 ^ 47)) (decide (-512 ≤ s) && decide (s < 512)) (v.toNat % 1024) u48

/-- The binary32 pattern of `m` × 10^`e`, if it is exact. -/
def exact32 (neg : Bool) (m : Nat) (e : Int) : Option Nat :=
  let n := m * 10 ^ e.toNat * 2 ^ 149
  let d := 10 ^ (-e).toNat
  let sg := if neg then 2 ^ 31 else 0
  if n % d ≠ 0 then none
  else
    let k := n / d
    let t := Nat.log2 k - 23
    if k < 2 ^ 24 then some (sg + k)
    else if k % 2 ^ t ≠ 0 ∨ 254 ≤ t then none
    else some (sg + t * 2 ^ 23 + k / 2 ^ t)

/-- The pattern that a floating literal names in a class (R156). -/
def fpPattern (c : Cls) (neg : Bool) (m : Nat) (e : Int) : Option Word :=
  (exact32 neg m e).bind fun p => match c with
    | .fp => some (BitVec.ofNat 64 p)
    | .bf => if p % 65536 = 0 then some (BitVec.ofNat 64 (p / 65536 * 65537)) else none
    | _ => none

/-! ### One instruction -/

/-- A relocation of a payload or of data (R417). -/
structure Reloc where
  typ : Nat
  sym : RSym
  add : Word
  deriving DecidableEq, Repr

/-- Where an instruction stands: its place, the decoder's context of its section and role, the kernel's niches, and whether it already has
its long form. -/
structure Env where
  p : Place
  ctx : DCtx
  niches : Niches
  grown : Bool
  deriving DecidableEq, Repr

/-- A word that grows as its operands are read. -/
structure Part where
  w : Nat
  pay : Option Nat
  rel : Option Reloc
  /-- SB is an immediate. -/
  immB : Bool
  /-- The registers named: the field's first bit, the kind, the number. -/
  regs : List (Nat × Char × Nat)
  deriving DecidableEq, Repr

/-- Places an immediate whose short field begins at a bit. -/
def Part.put (q : Part) (at_ : Nat) : Option Put → Option Part
  | some (.short n) => some { q with w := q.w + n * 2 ^ at_ }
  | some (.wide p) => some { q with pay := some p }
  | none => none

/-- Places the value of an expression as an immediate. A relocation always takes the long form (R156). -/
def Part.putVal (q : Part) (c : Cls) (grown : Bool) (at_ : Nat) : Val → Option Part
  | .abs v => q.put at_ (putAbs c grown v)
  | .rel s _ a => some { q with pay := some 0, rel := some ⟨5, s, a⟩ }
  | .tix s a => some { q with pay := some 0, rel := some ⟨6, .sym s, a⟩ }
  | .prel _ _ => none

/-- Places a branch target (R331): a label of this section in place, any other by a relocation. -/
def Part.putRel (q : Part) (e : Env) : Val → Option Part
  | .rel s (some (k, o)) a =>
    if k = e.p.sec then
      let d := (BitVec.ofNat 64 o + a - BitVec.ofNat 64 e.p.here).toInt
      if d % 8 ≠ 0 then none else q.put 10 (putAbs (.int 64) e.grown (BitVec.ofInt 64 (d / 8)))
    else some { q with pay := some 0, rel := some ⟨4, s, a⟩ }
  | .rel s none a => some { q with pay := some 0, rel := some ⟨4, s, a⟩ }
  | _ => none

/-- The kind of register that stands for one that a form names (R152, R155). -/
def kindFor (arm u : Bool) (k : Char) : Char :=
  if k == 'v' then (if arm then 'x' else if u then 's' else 'v')
  else if k == 's' then (if arm then 'x' else 's')
  else if k == 'c' then (if arm then 'x' else if u then 's' else 'p')
  else k

/-- Adds a register to a field. -/
def Part.reg (q : Part) (at_ : Nat) (k : Char) (n : Nat) : Part := { q with w := q.w + n * 2 ^ at_, regs := q.regs ++ [(at_, k, n)] }

/-- Adds SHAPE 0b11. -/
def Part.shape3 (q : Part) : Part := { q with w := q.w + 3 * 256, immB := true }

/-- Places an expression: a control word's name stands for its number where one is read or written. -/
def Part.putEx (q : Part) (e : Env) (opc : Nat) (x : Ex) : Option Part :=
  let named := match x with | .sym s => if opc = 0x16 ∨ opc = 0x17 then findS csrNames s else none | _ => none
  match named with
  | some n => q.put 10 (some (.short n))
  | none => (x.eval e.p).bind fun v => q.putVal (immCls opc q.w) e.grown 10 v

/-- Reads the operands of a form, in order. -/
def readOps (e : Env) (opc : Nat) (u : Bool) : List Pat → List Opd → Part → Option Part
  | [], [], q => some q
  | .r at_ k :: ps, .reg j n :: os, q => if j == kindFor e.ctx.arm u k then readOps e opc u ps os (q.reg at_ j n) else none
  | .c k :: ps, os, q =>
    if q.immB then readOps e opc u ps os q
    else match os with
      | .reg j n :: os => if j == kindFor e.ctx.arm u k then readOps e opc u ps os (q.reg 10 j n) else none
      | _ => none
  | .sh :: ps, .reg j n :: os, q =>
    let sh := if j == 'v' && !e.ctx.arm && !u then some 0
      else if j == 's' && !e.ctx.arm then some (if u then 0 else 1)
      else if j == 'x' && e.ctx.arm then some 0
      else if j == 'n' then some 2 else none
    match sh with
    | some h => readOps e opc u ps os { q.reg 20 j n with w := q.w + n * 2 ^ 20 + h * 256 }
    | none => none
  | .sh :: ps, .ex x :: os, q => (q.shape3.putEx e opc x).bind fun q => readOps e opc u ps os q
  | .imm :: ps, .ex x :: os, q => (q.shape3.putEx e opc x).bind fun q => readOps e opc u ps os q
  | .sh :: ps, .fp neg m x :: os, q =>
    let c := immCls opc q.w
    (fpPattern c neg m x).bind fun v => (q.shape3.put 10 (putAbs c e.grown v)).bind fun q => readOps e opc u ps os q
  | .imm :: ps, .fp neg m x :: os, q =>
    let c := immCls opc q.w
    (fpPattern c neg m x).bind fun v => (q.shape3.put 10 (putAbs c e.grown v)).bind fun q => readOps e opc u ps os q
  | .rel :: ps, .ex x :: os, q => (x.eval e.p).bind fun v => (q.shape3.putRel e v).bind fun q => readOps e opc u ps os q
  | .mem ix :: ps, .mem k n idx off :: os, q =>
    if k != kindFor e.ctx.arm false 's' then none
    else
      let q := q.reg 30 k n
      match idx, off with
      | some i, _ => if ix then readOps e opc u ps os { q.reg 20 'v' i with w := q.w + i * 2 ^ 20 + 8 * 2 ^ 10 } else none
      | none, some x => (x.eval e.p).bind fun v => (q.putVal .off e.grown 20 v).bind fun q => readOps e opc u ps os q
      | none, none => readOps e opc u ps os q
  | _, _, _ => none

/-- An issue unit as assembled. -/
structure AUnit where
  pre : Pre
  word : Word
  /-- The instruction; none for words that trap as they decode, which the assembler does not check. -/
  ins : Option Instr
  rel : Option Reloc
  reads : List (Char × Nat)
  writes : List (Char × Nat)
  /-- The opcode; 128 for a pair word. -/
  opc : Nat
  deriving DecidableEq, Repr

/-- The words of a unit. -/
def AUnit.words (a : AUnit) : List Word := match a.pre.word with | some p => [p, a.word] | none => [a.word]

/-- Registers of the group that a field names (R86, R161). -/
def groupLen (opc w at_ : Nat) (k : Char) : Nat :=
  if k == 'p' then (if opc = 0x46 ∧ w / 64 % 2 = 1 ∧ at_ = 40 then 2 else 1)
  else if k != 'v' then 1
  else if opc = 0x38 ∧ w / 32 % 4 = 2 then 2
  else if opc = 0x39 ∧ w / 16 % 8 = 6 then 2
  else if opc = 0x22 ∧ w / 8 % 4 = 2 ∧ at_ = 40 then 2
  else if opc = 0x23 ∧ w / 8 % 4 = 2 ∧ (at_ = 40 ∨ at_ = 10) then 2
  else if opc = 0x64 ∧ at_ = 40 then tyRegs (BitVec.ofNat 5 w)
  else 1

/-- The registers that a word reads and writes, as R421 counts them. -/
def useOf (opc w : Nat) (regs : List (Nat × Char × Nat)) : List (Char × Nat) × List (Char × Nat) :=
  let grp := fun (r : Nat × Char × Nat) => (List.range (groupLen opc w r.1 r.2.1)).map fun i => (r.2.1, r.2.2 + i)
  let cy := if opc = 0x20 ∨ opc = 0x21 then w / 8 % 4 else 0
  let cp := [('p', w % 8)]
  let rd := (regs.filter fun r => r.1 != 40 || opc == 0x34).flatMap grp
  let wr := (regs.filter fun r => r.1 == 40).flatMap grp
  let real := fun (r : Char × Nat) => r != ('p', 0)
  ((rd ++ [('p', w / 2 ^ 51 % 16)] ++ if cy = 2 then cp else []).filter real, (wr ++ if cy = 1 ∨ cy = 2 then cp else []).filter real)

/-- Whether R152 makes a word's opcode or form unavailable on the armature core. -/
def armLacks (opc w : Nat) : Bool :=
  (6 ≤ opc && opc ≤ 0x0E) || (0x3A ≤ opc && opc ≤ 0x3E) || (0x59 ≤ opc && opc ≤ 0x61) || 0x74 ≤ opc || [0x1A, 0x53, 0x66, 0x67, 0x69].contains opc
    || (0x40 ≤ opc && opc ≤ 0x52 && w / 64 % 2 == 1) || (0x20 ≤ opc && opc ≤ 0x5A && w / 128 % 2 == 1) || w / 2 ^ 50 % 32 != 0

/-- Whether a section of the thread's kind takes an opcode, its form and its register operands (R410). -/
def sectionTakes (arm : Bool) (opc w : Nat) (regs : List (Nat × Char × Nat)) : Bool :=
  if arm then !armLacks opc w && regs.all fun r => r.2.1 == 'x' || r.2.1 == 'n'
  else opc != 0x1C && opc != 0x1D && regs.all fun r => r.2.1 != 'x'

/-- The instruction of a unit, from how its words decode. Registers and tiles beyond a role's allotment are an error (R413). Words that trap for
another reason are assembled all the same where `lax` allows it. -/
def unitIns (e : Env) (lax : Bool) (dec : DCtx → Except DecTrap Instr) (regs : List (Char × Nat)) : Option (Option Instr) :=
  match dec e.ctx with
  | .ok i => some (some i)
  | .error _ =>
    let within := (dec { e.ctx with allot := 1024, tiles := 64 }).toOption.isNone &&
      (e.ctx.arm || regs.all fun r => (r.1 != 'v' || decide (r.2 < e.ctx.allot)) && (r.1 != 'a' || decide (r.2 < e.ctx.tiles)))
    if lax && within then some none else none

/-- Assembles an instruction by one form. -/
def byRow (e : Env) (segs : List (List Char)) (os : List Opd) (lax : Bool) (r : Row) : Option AUnit :=
  (sufCodes (r.sufs ++ commonSufs r.opc) segs).bind fun cs =>
    let w0 := (cs.filter fun c => c.1 < 64).foldl (fun w c => w + c.2 * 2 ^ c.1) (r.opc * 2 ^ 55)
    let bpm := ((cs.find? fun c => c.1 == 64).map (·.2)).getD 16
    let u := decide (0x20 ≤ r.opc) && decide (r.opc ≤ 0x5A) && w0 / 128 % 2 == 1
    let e := if bpm < 16 then { e with grown := false } else e
    (readOps e r.opc u r.pat os ⟨w0, none, none, false, []⟩).bind fun q =>
      let pre : Option Pre := match q.pay, decide (bpm < 16) with
        | none, false => some .none
        | some p, false => some (.wide (BitVec.ofNat 48 p))
        | none, true => some (.bpm (BitVec.ofNat 4 bpm))
        | some _, true => none
      pre.bind fun pre =>
        let (rd, wr) := useOf r.opc q.w q.regs
        (unitIns e (lax && sectionTakes e.ctx.arm r.opc q.w q.regs) (fun c => decodeFull c pre true (Fld.split (BitVec.ofNat 64 q.w))) (rd ++ wr)).map fun i =>
          ⟨pre, BitVec.ofNat 64 q.w, i, q.rel, rd, wr, r.opc⟩

/-- The mnemonic and the suffixes of a head. -/
def headParts (h : List Char) : Option (List Char × List (List Char)) :=
  match splitChar '.' h with | m :: segs => some (m, segs) | [] => none

/-- Assembles an instruction: by the first of its mnemonic's forms that its suffixes and operands meet, one whose words decode if there is
one. -/
def asmInstr (e : Env) (head : List Char) (ops : List Tok) : Option AUnit :=
  (headParts head).bind fun (m, segs) => (opdsOf e.niches ops).bind fun os =>
    let rs := rows.filter fun r => r.name.toList == m
    match rs.findSome? (byRow e segs os false) with
    | some u => some u
    | none => rs.findSome? (byRow e segs os true)

/-! ### Pair words (R146, R157) -/

/-- A pair opcode's form: its mnemonic, the suffixes that it always has, its PMOD fields. -/
structure PRow where
  name : String
  fixed : List String
  sufs : List Suf
  deriving DecidableEq, Repr

/-- The pair opcodes, by code. -/
def pairRows : List PRow :=
  let sh := [numF 0 "sh" 0 31 0 none]
  let rnd := [en 0 eRnd 0]
  let cmp := [numF 3 "pd" 0 7 0 none, must 0 eCmp]
  let tags := [("nil", 0), ("i32", 1), ("f32", 2), ("bf16x2", 3), ("i16x2", 4), ("i8x4", 5), ("psn", 15)]
  [⟨"pnop", [], []⟩, ⟨"iadd", [], []⟩, ⟨"isub", [], []⟩, ⟨"imul", [], []⟩, ⟨"imin", ["i32"], []⟩, ⟨"imax", ["i32"], []⟩]
    ++ [⟨"imin", ["n32"], []⟩, ⟨"imax", ["n32"], []⟩, ⟨"ineg", [], []⟩, ⟨"iabs", [], []⟩, ⟨"and", [], []⟩, ⟨"or", [], []⟩]
    ++ [⟨"xor", [], []⟩, ⟨"not", [], []⟩, ⟨"shl", [], sh⟩, ⟨"shr", ["l"], sh⟩, ⟨"shr", ["a"], sh⟩, ⟨"rot", [], sh⟩, ⟨"shl", [], []⟩]
    ++ [⟨"shr", ["l"], []⟩, ⟨"shr", ["a"], []⟩, ⟨"bcnt", ["popc"], []⟩, ⟨"bcnt", ["clz"], []⟩, ⟨"bcnt", ["ctz"], []⟩, ⟨"bfrev", [], []⟩]
    ++ [⟨"mov", [], []⟩, ⟨"movi", [], []⟩, ⟨"movx", [], [⟨0, tags, some ("tag", 0, 15, 0), none⟩]⟩, ⟨"fadd", ["f32"], rnd⟩]
    ++ [⟨"fsub", ["f32"], rnd⟩, ⟨"fmul", ["f32"], rnd⟩, ⟨"fmin", ["f32"], []⟩, ⟨"fmax", ["f32"], []⟩, ⟨"fadd", ["bf16x2"], rnd⟩]
    ++ [⟨"fsub", ["bf16x2"], rnd⟩, ⟨"fmul", ["bf16x2"], rnd⟩, ⟨"fmin", ["bf16x2"], []⟩, ⟨"fmax", ["bf16x2"], []⟩]
    ++ [⟨"pack", ["bf16x2", "f32"], rnd⟩, ⟨"unpk", ["f32", "bf16x2"], [numF 3 "el" 0 1 0 (some 0)]⟩, ⟨"cvt", ["f32", "i32"], rnd⟩]
    ++ [⟨"cvt", ["f32", "n32"], rnd⟩, ⟨"cvt", ["i32", "f32"], rnd⟩, ⟨"cvt", ["n32", "f32"], rnd⟩, ⟨"icmp", ["i32"], cmp⟩]
    ++ [⟨"icmp", ["n32"], cmp⟩, ⟨"fcmp", ["f32"], cmp⟩]

/-- Takes the suffixes that a row always has, in their order, out of a head's suffixes. -/
def dropFixed : List String → List (List Char) → Option (List (List Char))
  | [], segs => some segs
  | _ :: _, [] => none
  | f :: fs, s :: segs => if f.toList == s then dropFixed fs segs else (dropFixed (f :: fs) segs).map (s :: ·)

/-- The 8-bit field that names a vector register in a slot (R144). -/
def slotField (hi : Bool) (n : Nat) : Option Nat :=
  if 512 ≤ n ∨ (n / 4 % 2 == 1) ≠ hi then none else some (n / 8 * 4 + n % 4)

/-- Pair opcodes that also read their destination: the pair arithmetic of two operands. -/
def popReadsD (c : Nat) : Bool :=
  (1 ≤ c && c ≤ 7) || (10 ≤ c && c ≤ 12) || (18 ≤ c && c ≤ 20) || (28 ≤ c && c ≤ 38) || 44 ≤ c

/-- A slot by one row, with its reads and its writes. -/
def slotBy (e : Env) (hi : Bool) (segs : List (List Char)) (os : List Opd) (c : Nat) (r : PRow) :
    Option (Slot × List (Char × Nat) × List (Char × Nat)) :=
  (dropFixed r.fixed segs).bind fun segs =>
    let ps := (List.range 8).map fun k => ("p" ++ (Nat.repr k), k)
    (sufCodes (r.sufs ++ [⟨6, ps, none, some 0⟩]) segs).bind fun cs =>
      let m := (cs.filter fun x => x.1 < 6).foldl (fun w x => w + x.2 * 2 ^ x.1) 0
      let g := (cs.filter fun x => x.1 == 6).foldl (fun _ x => x.2) 0
      let slot := fun (d s m : Nat) => (⟨popList.getD c .pnop, ⟨BitVec.ofNat 3 g, BitVec.ofNat 8 d, BitVec.ofNat 8 s, BitVec.ofNat 6 m⟩⟩ : Slot)
      let gr := if g = 0 then [] else [('p', g)]
      match os with
      | [] => if c = 0 then some (slot 0 0 0, [], []) else none
      | [.reg 'v' d, .reg 'v' s] =>
        if c = 0 ∨ c = 26 then none
        else (slotField hi d).bind fun fd => (slotField hi s).bind fun fs =>
          let wr := if 44 ≤ c then (if m / 8 = 0 then [] else [('p', m / 8)]) else [('v', d)]
          some (slot fd fs m, gr ++ [('v', s)] ++ (if popReadsD c then [('v', d)] else []), wr)
      | [.reg 'v' d, .ex x] =>
        if c ≠ 26 then none
        else (slotField hi d).bind fun fd => match x.eval e.p with
          | some (.abs v) =>
            if -8192 ≤ v.toInt ∧ v.toInt < 8192 then some (slot fd (v.toNat % 256) (v.toNat / 256 % 64), gr, [('v', d)]) else none
          | _ => none
      | _ => none

/-- A slot. -/
def asmSlot (e : Env) (hi : Bool) (head : List Char) (ops : List Tok) : Option (Slot × List (Char × Nat) × List (Char × Nat)) :=
  (headParts head).bind fun (m, segs) => (opdsOf e.niches ops).bind fun os =>
    (pairRows.zipIdx.filter fun r => r.1.name.toList == m).findSome? fun r => slotBy e hi segs os r.2 r.1

/-- Assembles a pair. -/
def asmPair (e : Env) (ha : List Char) (oa : List Tok) (hb : List Char) (ob : List Tok) : Option AUnit :=
  (asmSlot e false ha oa).bind fun (a, ra, wa) => (asmSlot e true hb ob).bind fun (b, rb, wb) =>
    let w : Word := (0b01#2 ++ a.word ++ b.word : BitVec (2 + 31 + 31))
    (unitIns e true (fun c => decodePair c w) (ra ++ rb ++ wa ++ wb)).map fun i => ⟨.none, w, i, none, ra ++ rb, wa ++ wb, 128⟩

end Sys2Proof.Joryan
end

