-- ==== Sys2Proof/Machine/Disasm.lean ====
section
/-! DEFINITION. The disassembler (R12, R155 to R157, R420): a unit's words as a line of source that assembles to them again, the suffixes in the order
of their fields from the high bit to the low. A suffix whose field holds its default is left out; numbers are decimal, a branch target is
relative to `.` (log 35). -/

namespace Sys2Proof.Joryan

/-! ### Suffixes -/

/-- Bits of a field: enough for its largest code. -/
def Suf.width (f : Suf) : Nat :=
  let top := (f.enums.map fun e => e.2).foldl max (max (f.dflt.getD 0) (match f.num with | some (_, _, hi, off) => hi - off | none => 0))
  Nat.log2 (top + 1) + if 2 ^ Nat.log2 (top + 1) = top + 1 then 0 else 1

/-- How the code of a field is written: nothing for its default. -/
def Suf.spell (f : Suf) (v : Nat) : Option (List (List Char)) :=
  if f.dflt = some v then some []
  else match f.enums.find? fun e => e.2 == v with
    | some e => some [e.1.toList]
    | none => match f.num with
      | some (n, lo, hi, off) => if lo ≤ v + off ∧ v + off ≤ hi then some [n.toList ++ ':' :: (Nat.repr (v + off)).toList] else none
      | none => none

/-- Puts a thing among others whose places fall. -/
def putDown {α : Type} (x : Nat × α) : List (Nat × α) → List (Nat × α)
  | [] => [x]
  | y :: ys => if y.1 < x.1 then x :: y :: ys else y :: putDown x ys

/-- Things by their places, the highest first. -/
def fallSort {α : Type} (xs : List (Nat × α)) : List (Nat × α) := xs.foldr putDown []

/-- The suffixes that a form's fields have in some bits, from the high field to the low one. -/
def spellAll (fs : List Suf) (bits : Nat) : Option (List (List Char)) :=
  (fs.mapM fun (f : Suf) => (f.spell (bits / 2 ^ f.at_ % 2 ^ f.width)).map fun t => (f.at_, t)).map fun l => (fallSort l).flatMap fun p => p.2

/-! ### Operands -/

/-- A number of some bits as a signed one. -/
def signed (n v : Nat) : Int := if v < 2 ^ (n - 1) then (v : Int) else (v : Int) - 2 ^ n

/-- The immediate of a word: in the payload of the word before it, or in the short field (R137, R148). -/
def immOf (c : Cls) (pay : Option Nat) (w : Nat) : Int :=
  match pay, c with
  | some p, .code => (p : Int)
  | some p, .fp => (p : Int)
  | some p, .bf => (p : Int)
  | some p, _ => signed 48 p
  | none, .code => (w / 1024 % 2 ^ 20 : Nat)
  | none, .fp => (w / 1024 % 2 ^ 20 * 4096 : Nat)
  | none, .bf => (w / 1024 % 65536 * 65537 : Nat)
  | none, _ => signed 20 (w / 1024 % 2 ^ 20)

/-- An integer as an expression. -/
def exInt (v : Int) : Ex := .num (BitVec.ofInt 64 v)

/-- The operand of one part of a form, if it has one. -/
def opdAt (arm u : Bool) (opc w : Nat) (pay : Option Nat) : Pat → Option Opd
  | .r at_ k => some (.reg (kindFor arm u k) (w / 2 ^ at_ % 1024))
  | .c k => if w / 256 % 4 = 3 then none else some (.reg (kindFor arm u k) (w / 1024 % 1024))
  | .sh =>
    let n := w / 2 ^ 20 % 1024
    if w / 256 % 4 = 0 then some (.reg (if arm then 'x' else if u then 's' else 'v') n)
    else if w / 256 % 4 = 1 then some (.reg 's' n)
    else if w / 256 % 4 = 2 then some (.reg 'n' n)
    else some (.ex (exInt (immOf (immCls opc w) pay w)))
  | .imm => some (.ex (exInt (immOf (immCls opc w) pay w)))
  | .rel => some (.ex (.bin '+' .here (exInt (8 * immOf (.int 64) pay w))))
  | .mem ix =>
    let b := w / 2 ^ 30 % 1024
    let k := kindFor arm false 's'
    if ix && w / 2 ^ 13 % 2 == 1 then some (.mem k b (some (w / 2 ^ 20 % 1024)) none)
    else match pay with
      | some p => some (.mem k b none (some (exInt (signed 48 p))))
      | none => if w / 2 ^ 20 % 1024 = 0 then some (.mem k b none none) else some (.mem k b none (some (exInt (signed 10 (w / 2 ^ 20 % 1024)))))

/-! ### Text -/

/-- An integer in decimal. -/
def intText (v : Int) : List Char := (if v < 0 then ['-'] else []) ++ (Nat.repr v.natAbs).toList

/-- An expression that the disassembler writes. -/
def Ex.text : Ex → List Char
  | .num v => intText v.toInt
  | .here => ['.']
  | .sym s => s
  | .tidx s => "tidx(".toList ++ s ++ [')']
  | .un op a => op :: a.text
  | .bin op a b => a.text ++ [' ', op, ' '] ++ b.text

/-- A register; a niche by its name, where the `.niche` section gives one (R420). -/
def regText (ns : Niches) (k : Char) (n : Nat) : List Char :=
  match if k == 'n' then ns[n]? else none with
  | some s => s
  | none => k :: (Nat.repr n).toList

/-- An operand. -/
def Opd.text (ns : Niches) : Opd → List Char
  | .reg k n => regText ns k n
  | .mem k n (some i) _ => '[' :: regText ns k n ++ " + ".toList ++ regText ns 'v' i ++ [']']
  | .mem k n none (some x) => '[' :: regText ns k n ++ " + ".toList ++ x.text ++ [']']
  | .mem k n none none => '[' :: regText ns k n ++ [']']
  | .ex x => x.text
  | .fp .. => []

/-- Pieces with a separator between them. -/
def joinText (sep : List Char) : List (List Char) → List Char
  | [] => []
  | [x] => x
  | x :: xs => x ++ sep ++ joinText sep xs

/-- A statement: its mnemonic, suffixes and operands. -/
def stmtText (ns : Niches) (name : String) (segs : List (List Char)) (os : List Opd) : List Char :=
  name.toList ++ (segs.flatMap fun s => '.' :: s) ++ (if os.isEmpty then [] else ' ' :: joinText [',', ' '] (os.map fun o => o.text ns))

/-! ### A unit -/

/-- The line by one form, if the form assembles to exactly these words. -/
def disRow (arm : Bool) (ns : Niches) (pre : Pre) (w : Word) (r : Row) : Option (List Char) :=
  let pay := match pre with | .wide p => some p.toNat | _ => none
  let bpm := match pre with | .bpm b => b.toNat | _ => 16
  let u := decide (0x20 ≤ r.opc) && decide (r.opc ≤ 0x5A) && w.getLsbD 7
  (spellAll (r.sufs ++ commonSufs r.opc) (w.toNat + bpm * 2 ^ 64)).bind fun segs =>
    let os := r.pat.filterMap (opdAt arm u r.opc w.toNat pay)
    let e : Env := ⟨⟨0, 0, []⟩, if arm then .armature else .full, ns, pay.isSome⟩
    match byRow e segs os false r with
    | some a => if a.pre = pre ∧ a.word = w then some (stmtText ns r.name segs os) else none
    | none => none

/-- A slot of a pair. -/
def disSlot (hi : Bool) (s : Slot) : Option (List Char) :=
  (pairRows[popList.idxOf s.op]?).bind fun r =>
    let reg := fun (f : BitVec 8) => Opd.reg 'v' (slotReg hi f).toNat
    let g := if s.a.prd = 0 then [] else ['p' :: (Nat.repr s.a.prd.toNat).toList]
    let os := if s.op = .pnop then []
      else [reg s.a.d, if s.op = .movi then .ex (exInt (signed 14 (s.a.m.toNat * 256 + s.a.s.toNat))) else reg s.a.s]
    (spellAll r.sufs s.a.m.toNat).map fun t => stmtText [] r.name ((r.fixed.map fun f => f.toList) ++ g ++ t) os

/-- A unit's words as a line of source; none where they do not decode. -/
def disasm (arm : Bool) (ns : Niches) (w0 w1 : Word) : Option (List Char) :=
  let form := w0.extractLsb' 62 2
  if (decodeUnit (if arm then .armature else .full) w0 w1).toOption.isNone then none
  else if form = 1 then
    (Slot.read (w0.extractLsb' 31 31)).bind fun a => (Slot.read (w0.extractLsb' 0 31)).bind fun b =>
      (disSlot false a).bind fun x => (disSlot true b).map fun y => x ++ " || ".toList ++ y
  else
    let pre : Pre := if form = 0 then .none else if w0.extractLsb' 58 4 = 0 then .wide (w0.extractLsb' 10 48) else .bpm (w0.extractLsb' 53 4)
    let w := if form = 0 then w0 else w1
    rows.findSome? fun r => if r.opc = w.toNat / 2 ^ 55 % 128 then disRow arm ns pre w r else none

end Sys2Proof.Joryan
end

