-- ==== Sys2Proof/Machine/Joryan.lean ====
section
/-! DEFINITION. The assembler `joryan-as` and its objects (R407 to R422): sections and directives, the sizes of issue units, kernels and
their descriptors, templates and niches, relocations and linking, the replay-safety check. -/

namespace Sys2Proof.Joryan

open Sys2Proof.Machine

/-! ### Sections (R410) -/

/-- The kinds of section that a source selects. -/
inductive Kind where
  | armcode | gangcode | data | zero | tmpl
  deriving DecidableEq, Repr

/-- The kind of a name. -/
def kindNames : List (String × Kind) := [("armcode", .armcode), ("gangcode", .gangcode), ("data", .data), ("zero", .zero), ("tmpl", .tmpl)]

/-- The name that a kind's section has by default. -/
def Kind.dfltName : Kind → String
  | .armcode => ".text.arm" | .gangcode => ".text.gang" | .data => ".data" | .zero => ".bss" | .tmpl => ".tmpl"

/-- `sh_type`. -/
def Kind.shType : Kind → Nat
  | .armcode => 0x70000001 | .gangcode => 0x70000002 | .data => 1 | .zero => 8 | .tmpl => 0x70000003

/-- `sh_flags`: WRITE 1, ALLOC 2, EXECINSTR 4. -/
def Kind.shFlags : Kind → Nat
  | .armcode => 6 | .gangcode => 6 | .data => 3 | .zero => 3 | .tmpl => 2

/-- The least alignment. -/
def Kind.align : Kind → Nat
  | .armcode => 8 | .gangcode => 8 | .data => 8 | .zero => 8 | .tmpl => 64

/-- A code section. -/
def Kind.code (k : Kind) : Bool := k == .armcode || k == .gangcode

/-- `sh_type`, `sh_flags` and alignment of the two sections that the assembler writes: `.note.joryan` and `.niche`. -/
def noteHead : Nat × Nat × Nat := (7, 0, 4)
/-- The same of `.niche`. -/
def nicheHead : Nat × Nat × Nat := (0x70000004, 0, 4)

/-! ### What a source holds -/

/-- One thing in a section, in source order. -/
inductive Body where
  | label (s : List Char)
  | instr (h : List Char) (o : List Tok)
  | pair (ha : List Char) (oa : List Tok) (hb : List Char) (ob : List Tok)
  /-- Values of a width in bytes. -/
  | data (w : Nat) (es : List Ex)
  | align (n : Nat)
  deriving DecidableEq, Repr

/-- A thing with its section, and for code its decoder's context, its kernel, the kernel's niches, whether the replay check is on. -/
structure Item where
  sec : Nat
  body : Body
  ctx : DCtx
  kern : Option Nat
  niches : Niches
  safe : Bool
  deriving DecidableEq, Repr

/-- A role's declarations (R413). -/
structure RoleD where
  /-- Where its first `.gang` stood: the number of the item that follows. -/
  entry : Option Nat
  slices : Nat
  regs : Nat
  tiles : Nat
  regsGiven : Bool
  tilesGiven : Bool
  deriving DecidableEq, Repr

/-- A kernel's declarations (R413). -/
structure KernD where
  name : List Char
  prog : Nat
  split : Nat
  niches : Niches
  aentry : Option Nat
  roles : List RoleD
  safe : Bool
  /-- The kernel contains `.replaysafe`. -/
  everSafe : Bool
  deriving DecidableEq, Repr

/-- What the assembler has read. -/
structure Src where
  secs : List (List Char × Kind)
  cur : Option Nat
  items : List Item
  /-- Kernels closed. -/
  kerns : List KernD
  /-- The kernel that is open. -/
  kern : Option KernD
  /-- Templates by name, each with the number of the item that follows its opening. -/
  tmpls : List (List Char × Nat)
  /-- Bytes that the template now open has received. -/
  tmplBytes : Option Nat
  globals : List (List Char)
  deriving DecidableEq, Repr

/-- An empty source. -/
def Src.start : Src := ⟨[], none, [], [], none, [], none, []⟩

/-- Selects a section by name and kind; the same name with another kind is an error (R410). -/
def Src.select (s : Src) (name : List Char) (k : Kind) : Option Src :=
  match s.secs.findIdx? fun p => p.1 == name with
  | some i => if (s.secs[i]?.map (·.2)) = some k then some { s with cur := some i } else none
  | none => some { s with secs := s.secs ++ [(name, k)], cur := some s.secs.length }

/-- The kind of the current section. -/
def Src.kind (s : Src) : Option Kind := s.cur.bind fun i => s.secs[i]?.map (·.2)

/-- The decoder's context of code that stands here: the allotments that the role has given (R413), else the largest. -/
def Src.ctx (s : Src) : DCtx :=
  if s.kind = some .armcode then .armature
  else match s.kern.bind fun k => k.roles.getLast? with
    | some r => ⟨false, if r.regsGiven then r.regs else 1024, if r.tilesGiven then r.tiles else 64, if r.entry.isSome then 4 * r.slices else 32⟩
    | none => .full

/-- Adds a thing to the current section. -/
def Src.add (s : Src) (b : Body) : Option Src :=
  s.cur.map fun i => { s with items := s.items ++ [⟨i, b, s.ctx, s.kern.map fun _ => s.kerns.length, (s.kern.map (·.niches)).getD [],
    (s.kern.map (·.safe)).getD false⟩] }

/-- Every name that a symbol has so far. -/
def Src.names (s : Src) : List (List Char) :=
  (s.items.filterMap fun i => match i.body with | .label n => some n | _ => none)
    ++ s.kerns.map (·.name) ++ (s.kern.map (·.name)).toList ++ s.tmpls.map (·.1)

/-- Whether a name may become a symbol: once, and not a reserved name (R407). -/
def Src.fresh (s : Src) (n : List Char) : Bool := !reserved n && !s.names.contains n

/-- Applies a change to the open kernel. -/
def Src.onKern (s : Src) (f : KernD → Option KernD) : Option Src := s.kern.bind fun k => (f k).map fun k => { s with kern := some k }

/-- Applies a change to the role that is open. -/
def Src.onRole (s : Src) (f : RoleD → Option RoleD) : Option Src :=
  s.onKern fun k => match k.roles.getLast? with
    | some r => (f r).map fun r => { k with roles := k.roles.dropLast ++ [r] }
    | none => none

/-! ### Directives (R410 to R414) -/

/-- The names and widths of the data directives (R412). -/
def dataWidths : List (String × Nat) := [("byte", 1), ("half", 2), ("word", 4), ("dword", 8)]

/-- The number that an operand is: an absolute expression without a symbol. -/
def constOf (ts : List Tok) : Option Nat :=
  match (exOf ts).bind fun e => e.eval ⟨0, 0, []⟩ with | some (.abs v) => some v.toNat | _ => none

/-- The name that an operand is. -/
def nameOf : List Tok → Option (List Char)
  | [.ident s] => some s
  | _ => none

/-- The section name that an operand is: `.` and an identifier. -/
def secName : List Tok → Option (List Char)
  | [.mark '.', .ident s] => some ('.' :: s)
  | _ => none

/-- A directive other than a data directive, with no template half filled (R414). -/
def Src.directive (s : Src) (d : List Char) (ts : List Tok) : Option Src :=
  let ops := splitTok ',' ts
  let one := ops.length == 1
  let is := fun (n : String) => n.toList == d
  let inK := s.kern.isSome
  let num := fun (lo hi : Nat) => (constOf ts).bind fun n => if lo ≤ n ∧ n ≤ hi then some n else none
  if is "section" then
    match ops with
    | [a, b] => (secName a).bind fun n => (nameOf b).bind fun k => (findS kindNames k).bind fun k => s.select n k
    | _ => none
  else if is "data" then (if ts.isEmpty then s.select ".data".toList .data else none)
  else if is "align" then
    (num 1 4096).bind fun n =>
      if n &&& (n - 1) ≠ 0 ∨ ((s.kind.map Kind.code) = some true ∧ n < 8) then none else s.add (.align n)
  else if is "global" then
    if ts.isEmpty then none else (ops.mapM nameOf).map fun ns => { s with globals := s.globals ++ ns }
  else if is "template" then
    if inK || !one then none
    else (nameOf ts).bind fun n => if !s.fresh n then none else
      (s.select ".tmpl".toList .tmpl).bind fun s => (s.add (.align 64)).map fun s =>
        { s with tmpls := s.tmpls ++ [(n, s.items.length)], tmplBytes := some 0 }
  else if is "kernel" then
    if inK || !one then none
    else (nameOf ts).bind fun n => if !s.fresh n then none else some { s with kern := some ⟨n, 0, 0, [], none, [], false, false⟩ }
  else if is "progress" then
    (nameOf ts).bind fun n => (findS [("weak", 0), ("parallel", 1), ("concurrent", 2)] n).bind fun p =>
      s.onKern fun k => some { k with prog := p }
  else if is "split" then (num 0 14).bind fun n => s.onKern fun k => some { k with split := n }
  else if is "niche" then
    (nameOf ts).bind fun n => s.onKern fun k =>
      if reserved n || k.niches.contains n || k.niches.length ≥ 64 then none else some { k with niches := k.niches ++ [n] }
  else if is "armature" then
    if !ts.isEmpty || !inK then none
    else (s.select ".text.arm".toList .armcode).bind fun s =>
      s.onKern fun k => some { k with aentry := match k.aentry with | some a => some a | none => some s.items.length }
  else if is "role" then
    (num 0 1).bind fun n => s.onKern fun k => if k.roles.length ≠ n then none else some { k with roles := k.roles ++ [⟨none, 0, 32, 0, false, false⟩] }
  else if is "gang" then
    (num 1 8).bind fun n => if !inK then none else
      (s.select ".text.gang".toList .gangcode).bind fun s => s.onRole fun r =>
        some (match r.entry with | some _ => r | none => { r with entry := some s.items.length, slices := n })
  else if is "regs" then
    (num 32 1024).bind fun n => if n % 32 ≠ 0 then none else s.onRole fun r => some { r with regs := n, regsGiven := true }
  else if is "tiles" then (num 0 64).bind fun n => s.onRole fun r => some { r with tiles := n, tilesGiven := true }
  else if is "replaysafe" then
    if ts.isEmpty then s.onKern fun k => some { k with safe := true, everSafe := true }
    else if constOf ts = some 0 then s.onKern fun k => some { k with safe := false } else none
  else if is "end" then
    if !ts.isEmpty then none
    else s.kern.bind fun k =>
      if k.roles.isEmpty || k.roles.any fun r => r.entry.isNone then none
      else some { s with kerns := s.kerns ++ [k], kern := none }
  else none

/-- A statement. -/
def Src.stmt (s : Src) : Line → Option Src
  | .empty => some s
  | .instr h o => if (s.kind.map Kind.code) = some true then s.add (.instr h o) else none
  | .pair ha oa hb ob => if s.kind = some .gangcode then s.add (.pair ha oa hb ob) else none
  | .directive d ts =>
    match findS dataWidths d with
    | some w =>
      if s.kind.isNone || (s.kind.map Kind.code) = some true then none
      else ((splitTok ',' ts).mapM exOf).bind fun es =>
        (s.add (.data w es)).map fun s => { s with tmplBytes := s.tmplBytes.map fun n => n + w * es.length }
    | none =>
      match s.tmplBytes with
      | some n => if n ≠ 64 then none else { s with tmplBytes := none }.directive d ts
      | none => s.directive d ts

/-- A line: its labels, then its statement (R407). -/
def Src.line (s : Src) (cs : List Char) : Option Src :=
  let (ls, r) := labelsGo (cs.length + 1) cs
  (ls.foldlM (fun (s : Src) n => if s.fresh n && decide (n.length ≤ 255) then s.add (.label n) else none) s).bind fun s => (statement r).bind s.stmt

/-- A source read whole; a file that ends inside a kernel or a template is an error. -/
def readSrc (src : List Char) : Option Src :=
  (sourceLines src).bind fun ls => (ls.foldlM Src.line Src.start).bind fun s =>
    if s.kern.isSome || (s.tmplBytes.any fun n => n != 64) then none else some s

/-! ### Sizes (R409, R411, R412) -/

/-- Bytes of a thing at an offset. -/
def Item.size (i : Item) (off : Nat) (grown : Bool) : Nat :=
  match i.body with
  | .label _ => 0
  | .instr _ _ => if grown then 16 else 8
  | .pair _ _ _ _ => 8
  | .data w es => w * es.length
  | .align n => (n - off % n) % n

/-- Every thing's offset in its section: `at_` holds the sections' locations so far. -/
def offsGo : List Item → List Bool → List (Nat × Nat) → List Nat
  | [], _, _ => []
  | i :: is, gs, at_ =>
    let o := assocD 0 at_ i.sec
    o :: offsGo is gs.tail (assocSet at_ i.sec (o + i.size o (gs.headD false)))

/-- The location in a section where the thing of a number was next, among things with their offsets and sizes. -/
def locOf (its : List (Nat × Nat × Nat)) (k sec : Nat) : Nat :=
  match (its.drop k).find? fun p => p.1 == sec with
  | some p => p.2.1
  | none => match (its.filter fun p => p.1 == sec).getLast? with | some p => p.2.1 + p.2.2 | none => 0

/-- The section that has a name. -/
def Src.secOf (s : Src) (n : String) : Nat := (s.secs.findIdx? fun p => p.1 == n.toList).getD 0

/-- The labels and the templates with their places. -/
def Src.labels (s : Src) (offs : List Nat) : List (List Char × Nat × Nat) :=
  ((s.items.zip offs).filterMap fun p => match p.1.body with | .label n => some (n, p.1.sec, p.2) | _ => none)
    ++ s.tmpls.map fun t => (t.1, s.secOf ".tmpl", locOf ((s.items.zip offs).map fun p => (p.1.sec, p.2, 0)) t.2 (s.secOf ".tmpl"))

/-- The unit that a thing assembles to at an offset. -/
def Item.unit (i : Item) (labels : List (List Char × Nat × Nat)) (off : Nat) (grown : Bool) : Option AUnit :=
  let e : Env := ⟨⟨i.sec, off, labels⟩, i.ctx, i.niches, grown⟩
  match i.body with
  | .instr h o => asmInstr e h o
  | .pair ha oa hb ob => asmPair e ha oa hb ob
  | _ => none

/-- Which things have grown after one round: those that had, and those that now need the long form. -/
def Src.grow (s : Src) (gs : List Bool) : Option (List Bool) :=
  let offs := offsGo s.items gs []
  let ls := s.labels offs
  ((s.items.zip offs).zip gs).mapM fun ((i, o), g) => match i.body with
    | .instr _ _ => (i.unit ls o g).map fun u => g || u.pre != .none
    | _ => some g

/-- Rounds until no size changes. -/
def Src.settle (s : Src) : Nat → List Bool → Option (List Bool)
  | 0, gs => some gs
  | f + 1, gs => (s.grow gs).bind fun hs => if hs = gs then some gs else s.settle f hs

/-! ### Bytes and relocations -/

/-- A relocation of a section: the offset of its place. -/
structure RelAt where
  off : Nat
  r : Reloc
  deriving DecidableEq, Repr

/-- A value of a data directive: its bytes' number, and its relocation (R412). -/
def dataVal (w : Nat) (zero : Bool) (v : Val) : Option (Nat × Option Reloc) :=
  match v with
  | .abs x =>
    let s := x.toInt
    if zero && x ≠ 0 then none
    else if w = 8 ∨ (-2 ^ (8 * w - 1) ≤ s ∧ s < 2 ^ (8 * w)) then some (x.toNat % 2 ^ (8 * w), none) else none
  | .rel r _ a => if zero then none else if w = 8 then some (0, some ⟨1, r, a⟩) else if w = 4 then some (0, some ⟨2, r, a⟩) else none
  | .prel r a => if !zero && w = 4 then some (0, some ⟨3, r, a⟩) else none
  | .tix t a => if !zero && w = 4 then some (0, some ⟨7, .sym t, a⟩) else none

/-- The values of a data directive, the location moving from one to the next. -/
def dataGo (i : Item) (zero : Bool) (labels : List (List Char × Nat × Nat)) (w : Nat) : Nat → List Ex → Option (List (BitVec 8) × List RelAt)
  | _, [] => some ([], [])
  | o, x :: xs => if x.bad i.niches then none else (x.eval ⟨i.sec, o, labels⟩).bind fun v => (dataVal w zero v).bind fun (n, r) =>
      (dataGo i zero labels w (o + w) xs).map fun (bs, rs) => (bytesN n w ++ bs, (r.toList.map fun r => ⟨o, r⟩) ++ rs)

/-- A thing's bytes and relocations, and its unit. -/
def Item.emit (i : Item) (zero : Bool) (labels : List (List Char × Nat × Nat)) (off : Nat) (grown : Bool) :
    Option (List (BitVec 8) × List RelAt × Option AUnit) :=
  match i.body with
  | .label _ => some ([], [], none)
  | .align n => some (List.replicate ((n - off % n) % n) 0, [], none)
  | .data w es => (dataGo i zero labels w off es).map fun (b, r) => (b, r, none)
  | .instr _ _ | .pair _ _ _ _ => (i.unit labels off grown).map fun u =>
      (u.words.flatMap fun w => bytesN w.toNat 8, (u.rel.toList.map fun r => ⟨off, r⟩), some u)

/-- A thing as assembled: its offset, bytes, relocations, unit. -/
structure Built where
  it : Item
  off : Nat
  bytes : List (BitVec 8)
  rels : List RelAt
  unit_ : Option AUnit
  deriving DecidableEq, Repr

/-- Every thing assembled. -/
def Src.build (s : Src) : Option (List Built) :=
  (s.settle (s.items.length + 1) (s.items.map fun _ => false)).bind fun gs =>
    let offs := offsGo s.items gs []
    let ls := s.labels offs
    ((s.items.zip offs).zip gs).mapM fun ((i, o), g) =>
      (i.emit ((s.secs[i.sec]?.map (·.2)) = some .zero) ls o g).map fun (b, r, u) => ⟨i, o, b, r, u⟩

/-! ### The replay-safety check (R421) -/

/-- A load that may fault. -/
def AUnit.faultable (u : AUnit) : Bool :=
  u.opc == 0x6B || ((u.opc == 0x64 || u.opc == 0x66) && !u.word.getLsbD 10) || (u.opc == 0x78 && !u.word.getLsbD 5)

/-- A unit that does not end a region. -/
def AUnit.stays (u : AUnit) : Bool :=
  (0x20 ≤ u.opc && u.opc ≤ 0x61) || u.opc == 128 || [0x00, 0x16, 0x6D, 0x64, 0x66, 0x78, 0x6E].contains u.opc

/-- Adds a unit's reads, each with the unit's offset, to what the region has read; the first of them that the unit writes, if any. -/
def readsThen (rd : List ((Char × Nat) × Nat)) (o : Nat) (u : AUnit) : List ((Char × Nat) × Nat) × Option Nat :=
  let rd := rd ++ u.reads.map fun r => (r, o)
  (rd, (rd.find? fun r => u.writes.contains r.1).map fun r => r.2)

/-- The first unit of a region that writes what a unit up to it has read: the offsets of the reading and the writing unit. -/
def regionBad : List ((Char × Nat) × Nat) → List (Nat × AUnit) → Option (Nat × Nat)
  | _, [] => none
  | rd, (o, u) :: us =>
    if !u.stays then none
    else match readsThen rd o u with
      | (_, some r) => some (r, o)
      | (rd, none) => regionBad rd us

/-- The first faultable load of a run of checked code whose region fails: the offsets of the load, the reading unit and the writing unit. -/
def runBad : List (Nat × AUnit) → Option (Nat × Nat × Nat)
  | [] => none
  | (o, u) :: us =>
    let here := if !u.faultable then none
      else match readsThen [] o u with
        | (_, some r) => some (r, o)
        | (rd, none) => regionBad rd us
    match here with
    | some d => some (o, d)
    | none => runBad us

/-- The runs of checked units of a section, each unit with its offset: unchecked code ends a run. -/
def safeRuns (bs : List Built) : List (List (Nat × AUnit)) :=
  bs.foldr (fun b acc => match b.unit_ with
    | none => acc
    | some u => if b.it.safe then (match acc with | r :: rs => ((b.off, u) :: r) :: rs | [] => [[(b.off, u)]]) else [] :: acc) [[]]

/-- The diagnosis of the check: the section, and the offsets in it of the load, the reading unit and the writing unit. -/
structure Diag where
  sec : Nat
  load : Nat
  reader : Nat
  writer : Nat
  deriving DecidableEq, Repr

/-- What the check says of the checked code of every section; none where it passes. -/
def replayDiag (n : Nat) (bs : List Built) : Option Diag :=
  (List.range n).findSome? fun k => ((safeRuns (bs.filter fun b => b.it.sec == k)).findSome? runBad).map fun d => ⟨k, d.1, d.2.1, d.2.2⟩

/-- The diagnosis of a source that is in error only by the check. -/
def diagnose (src : List Char) : Option Diag := (readSrc src).bind fun s => s.build.bind fun bs => replayDiag s.secs.length bs

/-! ### Objects (R416 to R420) -/

/-- A section of an object. -/
structure Section where
  name : List Char
  kind : Kind
  align : Nat
  bytes : List (BitVec 8)
  rels : List RelAt
  deriving DecidableEq, Repr

/-- A symbol: its type as R418 gives (3 for a section's), its section (`.note.joryan` and `.niche` count after the source's), value and size. -/
structure Symb where
  name : List Char
  typ : Nat
  sec : Option Nat
  value : Nat
  size : Nat
  glob : Bool
  deriving DecidableEq, Repr

/-- A kernel of an object: what its descriptor holds but NAME, with the entries as offsets. -/
structure Kern where
  name : List Char
  prog : Nat
  split : Nat
  nn : Nat
  rps : Bool
  aentry : Option Nat
  entries : List Nat
  /-- SLICES, REGS ÷ 32 and TILES of each role. -/
  roles : List (Nat × Nat × Nat)
  niches : Niches
  deriving DecidableEq, Repr

/-- A `.jo` object. -/
structure Obj where
  secs : List Section
  symbs : List Symb
  kerns : List Kern
  deriving DecidableEq, Repr

/-- Whether a kernel's check was on over each faultable load of its code (R419, R421). -/
def rpsOf (bs : List Built) (k : Nat) (d : KernD) : Bool :=
  d.everSafe && bs.all fun b => b.it.kern != some k || b.it.safe || (match b.unit_ with | some u => !u.faultable | none => true)

/-- A kernel's record. -/
def Src.kernOf (s : Src) (bs : List Built) (k : Nat) (d : KernD) : Kern :=
  let its := bs.map fun b => (b.it.sec, b.off, b.bytes.length)
  ⟨d.name, d.prog, d.split, d.niches.length, rpsOf bs k d, d.aentry.map fun a => locOf its a (s.secOf ".text.arm"),
    d.roles.map fun r => locOf its (r.entry.getD 0) (s.secOf ".text.gang"), d.roles.map fun r => (r.slices, r.regs / 32, r.tiles), d.niches⟩

/-- The names that the source uses and does not define (R418). -/
def undefinedOf (bs : List Built) (defs : List (List Char)) : List (List Char) :=
  ((bs.flatMap (·.rels)).filterMap fun r => match r.r.sym with | .sym n => if defs.contains n then none else some n | .sect _ => none).eraseDups

/-- The symbols of a source (R418): a section symbol for each section, then labels, kernels and templates, and what is undefined; the local ones
first, as ELF has them. -/
def Src.symbols (s : Src) (bs : List Built) : List Symb :=
  let gl := fun n => s.globals.contains n
  let its := bs.map fun b => (b.it.sec, b.off, b.bytes.length)
  let lab := bs.filterMap fun b => match b.it.body with
    | .label n => some (⟨n, if ((s.secs[b.it.sec]?.map (·.2.code)) = some true) then 2 else 0, some b.it.sec, b.off, 0, gl n⟩ : Symb)
    | _ => none
  let ker := s.kerns.zipIdx.map fun (k, i) => (⟨k.name, 13, some s.secs.length, 84 * i, 84, gl k.name⟩ : Symb)
  let tmp := s.tmpls.map fun t => (⟨t.1, 14, some (s.secOf ".tmpl"), locOf its t.2 (s.secOf ".tmpl"), 64, gl t.1⟩ : Symb)
  let named := lab ++ ker ++ tmp ++ (undefinedOf bs s.names).map fun n => (⟨n, 0, none, 0, 0, true⟩ : Symb)
  ((List.range (s.secs.length + 2)).map fun k => (⟨[], 3, some k, 0, 0, false⟩ : Symb)) ++ (named.filter fun y => !y.glob) ++ named.filter fun y => y.glob

/-- The object of a source: none where anything is in error (R422). -/
def assemble (src : List Char) : Option Obj :=
  (readSrc src).bind fun s => s.build.bind fun bs =>
    if (replayDiag s.secs.length bs).isSome then none
    else some ⟨s.secs.zipIdx.map fun ((n, k), i) =>
        let mine := bs.filter fun b => b.it.sec == i
        ⟨n, k, (mine.foldl (fun a b => match b.it.body with | .align n => max a n | _ => a) k.align), mine.flatMap (·.bytes), mine.flatMap (·.rels)⟩,
      s.symbols bs, s.kerns.zipIdx.map fun (d, i) => s.kernOf bs i d⟩

/-- The names of `.strtab`: each symbol's that has one, and each niche's. -/
def Obj.strings (o : Obj) : List (List Char) := ((o.symbs.map (·.name)).filter fun n => !n.isEmpty) ++ o.kerns.flatMap (·.niches)

/-- The bytes of a string table: a NUL, then each name with its NUL. -/
def strBytes (ns : List (List Char)) : List (BitVec 8) := 0 :: ns.flatMap fun n => (n.map fun c => BitVec.ofNat 8 c.toNat) ++ [0]

/-- The offset of a name in a string table; no name is the NUL at its start. -/
def strAt (ns : List (List Char)) (n : List Char) : Nat :=
  if n.isEmpty then 0 else 1 + ((ns.takeWhile fun m => m != n).map fun m => m.length + 1).sum

/-- The `.strtab` offset of a name. -/
def Obj.strOff (o : Obj) (n : List Char) : Nat := strAt o.strings n

/-- The index of a symbol in `.symtab`, whose first entry is the null one. -/
def Obj.symIndex (o : Obj) : RSym → Nat
  | .sect k => 1 + (o.symbs.findIdx? fun y => y.typ == 3 && y.sec == some k).getD 0
  | .sym n => 1 + (o.symbs.findIdx? fun y => y.typ != 3 && y.name == n).getD 0

/-- `e_machine` (R416). -/
def machineNo : Nat := 0x9D40

/-- `e_flags` (R416). -/
def Obj.flags (o : Obj) : Nat :=
  1 + (if o.secs.any fun s => s.kind == .armcode then 2 ^ 8 else 0) + (if o.kerns.all (·.rps) then 2 ^ 9 else 0)


/-- Whether a consumer takes a file (R416). -/
def accepts (machine flags : Nat) : Bool := machine == machineNo && flags % 256 == 1

/-- A kernel's descriptor, its entries still to be relocated (R419). -/
def Obj.descriptor (o : Obj) (k : Kern) : List (BitVec 8) :=
  let role := fun i => match k.roles[i]? with | some r => [BitVec.ofNat 8 r.1, BitVec.ofNat 8 r.2.1, BitVec.ofNat 8 r.2.2, 0] | none => [0, 0, 0, 0]
  bytesN (o.strOff k.name) 4 ++ [BitVec.ofNat 8 k.roles.length, BitVec.ofNat 8 k.prog, BitVec.ofNat 8 k.split, BitVec.ofNat 8 k.nn]
    ++ [(if k.aentry.isSome then 1 else 0) ||| (if k.rps then 2 else 0)] ++ bytesN 0 7 ++ bytesN 0 24 ++ role 0 ++ role 1 ++ bytesN 0 16

/-- A kernel's note: `namesz`, `descsz`, `type`, the name padded to 8, the descriptor (R419). -/
def Obj.note (o : Obj) (k : Kern) : List (BitVec 8) :=
  bytesN 7 4 ++ bytesN 64 4 ++ bytesN 1 4 ++ (("Joryan".toList.map fun c => BitVec.ofNat 8 c.toNat) ++ [0, 0]) ++ o.descriptor k

/-- The relocations of a kernel's note, by offset in the record: JOR_ABS64 of AENTRY and of each ENTRY against its section (R419). -/
def Obj.noteRels (o : Obj) (k : Kern) : List RelAt :=
  let sec := fun (n : String) => (o.secs.findIdx? fun s => s.name == n.toList).getD 0
  (k.aentry.toList.map fun a => ⟨20 + 16, ⟨1, .sect (sec ".text.arm"), BitVec.ofNat 64 a⟩⟩)
    ++ k.entries.zipIdx.map fun (a, i) => ⟨20 + 24 + 8 * i, ⟨1, .sect (sec ".text.gang"), BitVec.ofNat 64 a⟩⟩

/-- The `.niche` section: 16 bytes for each niche of each kernel (R420). -/
def Obj.nicheBytes (o : Obj) : List (BitVec 8) :=
  o.kerns.flatMap fun k => k.niches.zipIdx.flatMap fun (n, i) =>
    bytesN (o.strOff n) 4 ++ bytesN (o.symIndex (.sym k.name)) 4 ++ [BitVec.ofNat 8 i] ++ bytesN 0 7

/-! ### The file (R4, R410, R416 to R418) -/

/-- A section of the file: what its header says, and its bytes. -/
structure ESec where
  name : List Char
  typ : Nat
  flags : Nat
  align : Nat
  link : Nat
  info : Nat
  entsize : Nat
  bytes : List (BitVec 8)
  deriving DecidableEq, Repr

/-- An `Elf64_Sym`. -/
def Obj.symBytes (o : Obj) (y : Symb) : List (BitVec 8) :=
  bytesN (o.strOff y.name) 4 ++ bytesN ((if y.glob then 16 else 0) + y.typ) 1 ++ bytesN 0 1 ++ bytesN (match y.sec with | some k => k + 1 | none => 0) 2
    ++ bytesN y.value 8 ++ bytesN y.size 8

/-- An `Elf64_Rela`: the offset, the symbol's index over the type, the addend. -/
def Obj.relaBytes (o : Obj) (r : RelAt) : List (BitVec 8) :=
  bytesN r.off 8 ++ bytesN (o.symIndex r.r.sym * 2 ^ 32 + r.r.typ) 8 ++ bytesN r.r.add.toNat 8

/-- The sections that hold the object's own bytes, with their relocations: the source's, `.note.joryan` and `.niche`. -/
def Obj.content (o : Obj) : List (ESec × List RelAt) :=
  let made := fun (n : String) (h : Nat × Nat × Nat) (bs : List (BitVec 8)) => (⟨n.toList, h.1, h.2.1, h.2.2, 0, 0, 0, bs⟩ : ESec)
  (o.secs.map fun s => (⟨s.name, s.kind.shType, s.kind.shFlags, s.align, 0, 0, 0, s.bytes⟩, s.rels))
    ++ [(made ".note.joryan" noteHead (o.kerns.flatMap o.note), o.kerns.zipIdx.flatMap fun (k, i) => (o.noteRels k).map fun r => { r with off := 84 * i + r.off }),
      (made ".niche" nicheHead o.nicheBytes, [])]

/-- Every section of the file after the null one: those, a `.rela` section for each that has relocations, and the three tables. -/
def Obj.sections (o : Obj) : List ESec :=
  let cs := o.content
  let rel := cs.zipIdx.filter fun c => !c.1.2.isEmpty
  let symtab := 1 + cs.length + rel.length
  let relas := rel.map fun c => (⟨".rela".toList ++ c.1.1.name, 4, 0x40, 8, symtab, c.2 + 1, 24, c.1.2.flatMap o.relaBytes⟩ : ESec)
  let heads := (cs.map fun c => c.1) ++ relas
    ++ [⟨".symtab".toList, 2, 0, 8, symtab + 1, 1 + o.symbs.countP (fun y => !y.glob), 24, List.replicate 24 0 ++ o.symbs.flatMap o.symBytes⟩,
      ⟨".strtab".toList, 3, 0, 1, 0, 0, 0, strBytes o.strings⟩]
  let names := heads.map (fun s => s.name) ++ [".shstrtab".toList]
  heads ++ [⟨".shstrtab".toList, 3, 0, 1, 0, 0, 0, strBytes names⟩]

/-- A length rounded up. -/
def upTo (n a : Nat) : Nat := (n + a - 1) / a * a

/-- Where each section's bytes begin in the file, after some length; a NOBITS section has none. -/
def placeSecs : Nat → List ESec → List Nat × Nat
  | n, [] => ([], n)
  | n, s :: ss =>
    let at_ := upTo n s.align
    let r := placeSecs (at_ + if s.typ = 8 then 0 else s.bytes.length) ss
    (at_ :: r.1, r.2)

/-- A section's header, its bytes at an offset of the file. -/
def ESec.head (s : ESec) (names : List (List Char)) (at_ : Nat) : List (BitVec 8) :=
  bytesN (strAt names s.name) 4 ++ bytesN s.typ 4 ++ bytesN s.flags 8 ++ bytesN 0 8 ++ bytesN at_ 8 ++ bytesN s.bytes.length 8
    ++ bytesN s.link 4 ++ bytesN s.info 4 ++ bytesN s.align 8 ++ bytesN s.entsize 8

/-- The header of the file, from where the section headers begin and how many there are (R416). -/
def Obj.header (o : Obj) (shoff shnum : Nat) : List (BitVec 8) :=
  bytesN 0x464C457F 4 ++ bytesN 2 1 ++ bytesN 1 1 ++ bytesN 1 1 ++ bytesN 0 9 ++ bytesN 1 2 ++ bytesN machineNo 2 ++ bytesN 1 4
    ++ bytesN 0 8 ++ bytesN 0 8 ++ bytesN shoff 8 ++ bytesN o.flags 4 ++ bytesN 64 2 ++ bytesN 0 2 ++ bytesN 0 2 ++ bytesN 64 2 ++ bytesN shnum 2
    ++ bytesN (shnum - 1) 2

/-- The `.jo` file: the header, the sections in order, the section headers. What R416 to R418 leave to ELF is ELF's; the order is the model's
(log 35). -/
def Obj.file (o : Obj) : List (BitVec 8) :=
  let ss := o.sections
  let names := ss.map fun s => s.name
  let (ats, fin) := placeSecs 64 ss
  let shoff := upTo fin 8
  let pad := fun (bs : List (BitVec 8)) (n : Nat) => bs ++ List.replicate (n - bs.length) 0
  let body := (ss.zip ats).foldl (fun bs p => if p.1.typ = 8 then bs else pad bs p.2 ++ p.1.bytes) (o.header shoff (ss.length + 1))
  pad body shoff ++ List.replicate 64 0 ++ (ss.zip ats).flatMap fun p => p.1.head names p.2

/-! ### Linking (R417) -/

/-- What a relocation writes, from S, A, P and T: a value of some bytes, or a payload; none for a link error. -/
def relocValue (typ : Nat) (S P : Nat) (A : Word) (T : Nat) : Option Nat :=
  let sa := (BitVec.ofNat 64 S + A)
  let sap := (sa - BitVec.ofNat 64 P).toInt
  let fits := fun (n : Nat) (x : Int) => decide (-2 ^ (n - 1) ≤ x) && decide (x < 2 ^ (n - 1))
  let ta := (BitVec.ofNat 64 T + A).toInt
  match typ with
  | 1 => some sa.toNat
  | 2 => if decide (-2 ^ 31 ≤ sa.toInt) && decide (sa.toInt < 2 ^ 32) then some (sa.toNat % 2 ^ 32) else none
  | 3 => if fits 32 sap then some ((BitVec.ofInt 32 sap).toNat) else none
  | 4 => if sap % 8 = 0 ∧ fits 48 (sap / 8) then some ((BitVec.ofInt 48 (sap / 8)).toNat) else none
  | 5 => if fits 48 sa.toInt then some (sa.toNat % 2 ^ 48) else none
  | 6 => if T < 4096 ∧ fits 48 ta then some ((BitVec.ofInt 48 ta).toNat) else none
  | 7 => if T < 4096 ∧ 0 ≤ ta ∧ ta < 2 ^ 32 then some ta.toNat else none
  | _ => none

/-- Writes a relocated value at an offset of a section's bytes: data of the type's width, or bits [57:10] of a word. -/
def patch (typ : Nat) (v off : Nat) (bs : List (BitVec 8)) : List (BitVec 8) :=
  let n := if typ = 2 ∨ typ = 3 ∨ typ = 7 then 4 else 8
  let old := ofBytes ((bs.drop off).take 8)
  let x := if 4 ≤ typ ∧ typ ≤ 6 then old / 2 ^ 58 * 2 ^ 58 + v * 2 ^ 10 + old % 2 ^ 10 else v
  bs.take off ++ bytesN x n ++ bs.drop (off + n)

/-- Where a linker puts an object: the address of each section, the offset of its `.tmpl` in the linked one, and the addresses and the
template offsets of names that other objects define. -/
structure Layout where
  base : List Nat
  tmplOff : Nat
  exts : List (List Char × Nat)
  extTmpls : List (List Char × Nat)
  deriving DecidableEq, Repr

/-- A symbol's address. -/
def Obj.symAddr (o : Obj) (l : Layout) : RSym → Option Nat
  | .sect k => l.base[k]?
  | .sym n => match o.symbs.find? fun s => s.name == n && s.typ != 3 with
    | some s => match s.sec with
      | some k => (l.base[k]?).map fun b => b + s.value
      | none => (l.exts.find? fun e => e.1 == n).map (·.2)
    | none => none

/-- A template's index in the linked table (R414). -/
def Obj.tidx (o : Obj) (l : Layout) : RSym → Option Nat
  | .sect _ => none
  | .sym n => match o.symbs.find? fun s => s.name == n && s.typ == 14 with
    | some s => some ((l.tmplOff + s.value) / 64)
    | none => (l.extTmpls.find? fun e => e.1 == n).map fun e => e.2 / 64

/-- Applies one relocation to a section's bytes. -/
def Obj.apply (o : Obj) (l : Layout) (base : Nat) (bs : List (BitVec 8)) (r : RelAt) : Option (List (BitVec 8)) :=
  if r.r.typ = 0 then some bs
  else
    let byIdx := r.r.typ == 6 || r.r.typ == 7
    let S := if byIdx then some 0 else o.symAddr l r.r.sym
    let T := if byIdx then o.tidx l r.r.sym else some 0
    S.bind fun S => T.bind fun T => (relocValue r.r.typ S (base + r.off) r.r.add T).map fun v => patch r.r.typ v r.off bs

/-- The object linked: each section's address and bytes (R417). -/
def Obj.link (o : Obj) (l : Layout) : Option (List (Nat × List (BitVec 8))) :=
  (o.secs.zip l.base).mapM fun (s, b) => (s.rels.foldlM (o.apply l b) s.bytes).map fun bs => (b, bs)

/-- A kernel's entries linked: AENTRY and each ENTRY. -/
def Obj.linkKern (o : Obj) (l : Layout) (k : Kern) : Option (List (BitVec 8)) := (o.noteRels k).foldlM (o.apply l 0) (o.note k)

end Sys2Proof.Joryan
end

