-- ==== Sys2Proof/Tests/Slice0.lean ====
section
/-! SUPPORT. Tests of the model on small states: words of the manual's encodings, one step at a time, ill-formed instructions refused, and for each
claim a state that meets its hypotheses. -/

namespace Sys2Proof.Tests

open Sys2Proof.Machine

-- One test at a time: together they would fill the memory that the check allows.
set_option Elab.async false

/-! ### Small states -/

/-- A supervisor gang of eight slices, about to issue at 0x10000. -/
def gang : State := State.reset.layFetch false 0
/-- An armature thread there. -/
def arm : State := State.reset.layFetch true 0
/-- A thread of one lane, which checks no tags and whose registers s1 and s3 point at its page. -/
def solo : State := gang.onCur fun t => { t with
  nsl := 1
  ctl := { t.ctl with tagchk := false }
  regs := (t.regs.wrR 1 0x10100).wrR 3 0x10200
  slices := [⟨0x10000, 1, 1, [], 0, 0, .none⟩] }
/-- The same of a tenant. -/
def tenant : State := solo.onCur fun t => { t with pasid := 7 }
/-- The head of an unguarded vector word. -/
def plain : Hd := ⟨0, false, false⟩

/-- A run of a meaning's part ends as a decidable property says. -/
theorem okW {ε α σ : Type} (x : Except ε (α × σ)) (P : α → σ → Prop) [∀ a s, Decidable (P a s)]
    (h : (match x with | .ok (a, s) => decide (P a s) | .error _ => false) = true) : ∃ a s, x = .ok (a, s) ∧ P a s := by
  match x, h with
  | .ok (a, s), h => exact ⟨a, s, rfl, of_decide_eq_true h⟩

theorem solo_acts (free : Bool) : solo.Acts free noGd := by
  unfold State.Acts State.Clear; cases free <;> decide +kernel

theorem solo_clear : solo.Clear false noGd := (solo_acts false).1

/-- Sources of the thread that checks no tags. -/
theorem solo_takes (srcs : List (Opd × (BitVec 4 → Bool))) (hn : nichesOf srcs = [])
    (hp : (srcs.any fun p => p.1.poisoned solo.cur.regs) = false) {ok : List (BitVec 4) → Bool} : solo.Takes solo srcs ok :=
  ⟨by rw [hn]; rfl, hp, by rw [hn]; rfl, Or.inl (by decide +kernel)⟩

/-! ### Hypotheses that are met: register instructions -/

theorem wit_IntegerSums : solo.Acts true (hdGd plain) ∧
    solo.Takes solo [(regOpd false 1, isTag tI32), (srcOpd false (.int 32) 1 (.reg 2), isTag tI32), (.p 1, anyTag)] :=
  ⟨solo_acts true, solo_takes _ rfl (by decide +kernel)⟩
theorem wit_IntegerProducts : solo.Acts true (hdGd plain) ∧ itW 0 = 32 ∧
    solo.Takes solo [(regOpd false 1, isTag tI32), (srcOpd false (.int 32) 1 (.imm 5), isTag tI32), (regOpd false 2 2, isTag tI32)] :=
  ⟨solo_acts true, rfl, solo_takes _ rfl (by decide +kernel)⟩
theorem wit_IntegerDivision : solo.Acts true (hdGd plain) ∧
    solo.Takes solo [(regOpd false 1, isTag tI32), (srcOpd false (.int 32) 1 (.imm 0), isTag tI32)] :=
  ⟨solo_acts true, solo_takes _ rfl (by decide +kernel)⟩
theorem wit_IntegerOrder : solo.Acts true (hdGd plain) ∧
    solo.Takes solo [(regOpd false 1, isTag tI32), (srcOpd false (.int 32) 1 (.sreg 1), isTag tI32)] ∧ solo.Takes solo [(regOpd false 1, isTag tI32)] :=
  ⟨solo_acts true, solo_takes _ rfl (by decide +kernel), solo_takes _ rfl (by decide +kernel)⟩
theorem wit_BitwiseLogic : solo.Acts true (hdGd plain) ∧
    solo.Takes solo [(regOpd false 1, anyTag), (srcOpd false (.int 32) 1 (.reg 1), anyTag)] ∧ solo.Takes solo [(regOpd false 1, anyTag)] :=
  ⟨solo_acts true, solo_takes _ rfl (by decide +kernel), solo_takes _ rfl (by decide +kernel)⟩
theorem wit_ShiftsAndAddresses : solo.Acts true (hdGd plain) ∧
    solo.Takes solo [(regOpd false 1, anyTag), (srcOpd false (.int 32) 1 (.imm 32), anyTag)] ∧
    solo.Takes solo [(regOpd false 1, isTag tI32), (srcOpd false (.int 32) 1 (.imm 32), isTag tI32)] :=
  ⟨solo_acts true, solo_takes _ rfl (by decide +kernel), solo_takes _ rfl (by decide +kernel)⟩
theorem wit_BitFields : solo.Acts true (hdGd plain) ∧
    solo.Takes solo [(regOpd false 8, anyTag), (regOpd false 1, anyTag), (.const 255, anyTag), (.const 0, anyTag)] ∧
    solo.Takes solo [(regOpd false 1, anyTag), (srcOpd false (.int 32) 1 (.reg 2), anyTag), (regOpd false 3, anyTag)] ∧
    solo.Takes solo [(regOpd false 1, anyTag)] :=
  ⟨solo_acts true, solo_takes _ rfl (by decide +kernel), solo_takes _ rfl (by decide +kernel), solo_takes _ rfl (by decide +kernel)⟩
theorem wit_PackedSums : solo.Acts true (hdGd plain) ∧
    solo.Takes solo [(regOpd false 1, isTag tI8), (srcOpd false (.int 32) 1 (.reg 2), isTag tI8), (regOpd false 3, isTag tI32)] :=
  ⟨solo_acts true, solo_takes _ rfl (by decide +kernel)⟩
theorem wit_Moves : solo.Acts true (hdGd plain) ∧ solo.Acts true noGd ∧ solo.Takes solo [(srcOpd false (.int 64) 2 (.reg 2), anyTag)] ∧
    solo.Takes solo [(regOpd false 1, anyTag)] ∧ solo.Takes solo [(regOpd false 1, anyTag), (srcOpd false (.int 32) 1 (.reg 2), anyTag), (.p 15, anyTag)]
      (fun ts => match ts.filter (· != tNIL) with | [t, u] => t == u | _ => true) :=
  ⟨solo_acts true, solo_acts true, solo_takes _ rfl (by decide +kernel), solo_takes _ rfl (by decide +kernel),
    ⟨rfl, by decide +kernel, rfl, Or.inl (by decide +kernel)⟩⟩
theorem wit_PredicatesAndIdentities : solo.Acts true noGd ∧ solo.Takes solo [(.p 0, anyTag), (.p 15, anyTag)] ∧
    solo.cur.regs.pPoison 15 = false ∧ solo.cur.regs.tag 1023 ≠ tPSN ∧ solo.cur.regs.rpois.getLsbD 63 = false :=
  ⟨solo_acts true, solo_takes _ rfl (by decide +kernel), by and_intros <;> decide +kernel⟩
theorem wit_FloatArithmetic : solo.Acts true (hdGd plain) ∧
    solo.Takes solo [(regOpd false 1, isTag tFP32), (srcOpd false (ftCls false) 1 (.imm 0x3F800), isTag tFP32)] ∧
    solo.Takes solo [(regOpd false 1, isTag tBF), (srcOpd false (ftCls true) 1 (.reg 2), isTag tBF), (regOpd false 3, isTag tBF)] :=
  ⟨solo_acts true, solo_takes _ rfl (by decide +kernel), solo_takes _ rfl (by decide +kernel)⟩
theorem wit_FloatOrder : solo.Acts true (hdGd plain) ∧
    solo.Takes solo [(regOpd false 1, isTag tBF), (srcOpd false (ftCls true) 1 (.reg 2), isTag tBF)] ∧ solo.Takes solo [(regOpd false 1, isTag tBF)] :=
  ⟨solo_acts true, solo_takes _ rfl (by decide +kernel), solo_takes _ rfl (by decide +kernel)⟩
theorem wit_FloatFunctions : solo.Acts true (hdGd plain) ∧ solo.Takes solo [(regOpd false 1, isTag tFP32)] ∧
    solo.Takes solo [(regOpd false 1, isTag tFP32), (srcOpd false (.int 32) 1 (.imm 3), orNil tI32)] ∧
    solo.Takes solo [(regOpd false 1, isTag tBF), (srcOpd false .bf 1 (.reg 2), isTag tBF), (regOpd false 3, isTag tFP32)] :=
  ⟨solo_acts true, solo_takes _ rfl (by decide +kernel), solo_takes _ rfl (by decide +kernel), solo_takes _ rfl (by decide +kernel)⟩
theorem wit_Conversions : solo.Acts true (hdGd plain) ∧ solo.Takes solo [(regOpd false 1, isTag (cvtTags 0).1)] ∧
    solo.Takes solo [(regOpd false 1, isTag (packTags 0).1), (srcOpd false (packTags 0).2.2 1 (.reg 2), isTag (packTags 0).1)] ∧
    solo.Takes solo [(regOpd false 1, isTag (unpkTags 0).1)] :=
  ⟨solo_acts true, solo_takes _ rfl (by decide +kernel), solo_takes _ rfl (by decide +kernel), solo_takes _ rfl (by decide +kernel)⟩
theorem wit_LaneInstructions : solo.Acts true noGd ∧ solo.Takes solo [(.p 15, anyTag)] ∧
    solo.Takes solo [(.v 1 1, anyTag), (srcOpd false (.int 32) 1 (.imm 31), orNil tI32)] ∧
    solo.Takes solo [(.v 1 1, anyTag), (srcOpd false (.int 32) 1 (.reg 2), anyTag), (.v 3 1, anyTag)] ∧
    solo.Takes solo [(.v 1 1, isTag (redTag 2))] :=
  ⟨solo_acts true, solo_takes _ rfl (by decide +kernel), solo_takes _ rfl (by decide +kernel), solo_takes _ rfl (by decide +kernel),
    solo_takes _ rfl (by decide +kernel)⟩

/-- The first slice of the thread, changed. -/
def soloWith (f : Slice → Slice) : State := solo.onCur fun t => { t with slices := t.slices.map f }

theorem wit_PairWords : solo.Clear true noGd ∧ solo.cur.arm = false ∧ (∀ k < 16, solo.cur.regs.pPoison k = false) ∧
    solo.SlotRuns false ⟨.iadd, 0, 4, 5, 0⟩ ∧ solo.SlotRuns true ⟨.icmpI, 7, 4, 5, 0x38⟩ ∧ solo.SlotRuns true ⟨.pnop, 0, 0, 0, 0⟩ ∧
    (solo.onRegs fun r => { r with vtag := r.vtag.set (slotReg false 5).toNat tPSN }).SlotRuns false ⟨.iadd, 0, 4, 5, 0⟩ ∧
    (soloWith fun c => { c with active := 0 }).SlotRuns false ⟨.iadd, 0, 4, 5, 0⟩ ∧
    Dst.p 7 ∈ slotDst true ⟨.icmpI, 7, 4, 5, 0x38⟩ ∧ ∀ k, Dst.p k ∉ slotDst false ⟨.iadd, 0, 4, 5, 0⟩ :=
  ⟨(solo_acts true).1, by decide +kernel, by decide +kernel, .inr (.inr ⟨_, _, _, rfl, .inr ⟨solo_takes _ rfl (by decide +kernel), rfl⟩⟩),
    .inr (.inr ⟨_, _, _, rfl, .inr ⟨solo_takes _ rfl (by decide +kernel), rfl⟩⟩), .inl rfl,
    .inr (.inr ⟨_, _, _, rfl, .inl (by decide +kernel)⟩), .inr (.inl (by decide +kernel)), by decide +kernel, fun k h => by simp [slotDst] at h⟩

/-- Whether a meaning's next state has a property. -/
def nextIs (o : Out) (P : State → Bool) : Bool := match o with
  | .next t => P t
  | _ => false

theorem nextIs_spec {o : Out} {P : State → Bool} (h : nextIs o P = true) : ∃ t, o = .next t ∧ P t = true := by
  match o, h with
  | .next t, h => exact ⟨t, rfl, h⟩

/-- v1 poisoned, and strict checking. -/
def spoiled : State := solo.onCur fun t => { t with ctl := { t.ctl with tagchk := true }, regs := { t.regs with vtag := t.regs.vtag.set 1 tPSN } }

theorem wit_SourcesAreChecked : spoiled.Acts true noGd ∧
    (∃ o, aluForm spoiled (.not plain 8 1 0) = some (8, noGd, o) ∧ (nichesOf o.srcs).any spoiled.nicheBad = false ∧
      (o.srcs.any fun p => p.1.poisoned spoiled.cur.regs) = true) ∧
    (∃ o, aluForm spoiled (.imin plain 8 2 (.reg 3) 0) = some (8, noGd, o) ∧ nichesOf o.srcs = [] ∧ spoiled.cur.ctl.tagchk = true ∧
      (o.srcs.any fun p => p.1.poisoned spoiled.cur.regs) = false ∧
      (o.srcs.all (fun p => (p.1.tags spoiled.cur.regs).all p.2) && o.okAll (o.srcs.map fun p => p.1.tags spoiled.cur.regs).flatten) = false) :=
  ⟨by unfold State.Acts State.Clear; decide +kernel, ⟨_, rfl, by and_intros <;> decide +kernel⟩,
    ⟨_, rfl, by and_intros <;> decide +kernel⟩⟩
theorem wit_PassingAndGuards : solo.Clear true ⟨15, false⟩ ∧ solo.lanes ⟨15, false⟩ = 0 ∧
    (∃ o, aluForm solo (.not ⟨15, false, false⟩ 8 1 0) = some (8, ⟨15, false⟩, o)) ∧
    (let s := solo.onRegs fun r => { r with ppois := 2 }
     s.cur.mask s.curGrp ≠ 0 ∧ s.cur.regs.pPoison 1 = true) :=
  ⟨by unfold State.Clear; decide +kernel, by decide +kernel, ⟨_, rfl⟩, by decide +kernel⟩

/-! ### Hypotheses that are met: control flow, traps, the system -/

/-- Whether a part of a meaning completes, and where and with what. -/
def isOk {α : Type} (m : M α) (s : State) : Bool := match m.run s with
  | .ok _ => true
  | .error _ => false
/-- The state in which it completes. -/
def after {α : Type} (m : M α) (s : State) : State := match m.run s with
  | .ok (_, t) => t
  | .error _ => s
/-- What it answers. -/
def got {α : Type} [Inhabited α] (m : M α) (s : State) : α := match m.run s with
  | .ok (a, _) => a
  | .error _ => default

theorem ran {α : Type} [Inhabited α] {m : M α} {s : State} (h : isOk m s = true) : m.run s = .ok (got m s, after m s) := by
  unfold isOk at h
  unfold got after
  split at h
  · rename_i p e; obtain ⟨a, t⟩ := p; rw [e]
  · cases h

/-- Pieces found without a missing page. -/
theorem ranAll {m : M (List Pc × List (Nat × Page × Nat))} {s : State} (h : isOk m s = true) (h2 : (got m s).2 = []) :
    m.run s = .ok (((got m s).1, []), after m s) := by
  have := ran h
  rw [this, ← h2]

/-- A part that answers nothing and leaves the state. -/
theorem ranUnit {m : M Unit} {s t : State} (h : isOk m s = true) (h2 : after m s = t) : m.run s = .ok ((), t) := h2 ▸ ran h

theorem wit_Branches : (let s := soloWith fun c => { c with pc := 0x10004 }
     s.Clear false noGd ∧ s.lanes noGd ≠ 0 ∧ (s.cur.pcOf s.curGrp + BitVec.ofInt 64 (8 * offVal (.i20 4))).toNat % 8 ≠ 0) ∧
    solo.Clear false noGd ∧ solo.lanes noGd ≠ 0 ∧ solo.cur.pcOf solo.curGrp = 0x10000 ∧
    (spaceOf (0x10000 + BitVec.ofInt 64 (8 * offVal (.i20 0xFFFFE))).toNat = 0 ∧ (0x10000 + BitVec.ofInt 64 (8 * offVal (.i20 0xFFFFE))).toNat % 8 = 0) ∧
    spaceOf (0x10000 + BitVec.ofInt 64 (8 * offVal (.i48 0x800000000000))).toNat ≠ 0 ∧ (0x10000 + BitVec.ofInt 64 (8 * offVal (.i48 0x800000000000))).toNat % 8 = 0 ∧
    (∀ c ∈ solo.cur.slices, c.stack.length < 16) ∧
    (solo.cur.regs.rpois.getLsbD 1 = false ∧ spaceOf (solo.cur.regs.rdR 1).toNat = 0 ∧ (solo.cur.regs.rdR 1).toNat % 8 = 0) ∧
    solo.cur.arm = false ∧ solo.cur.regs.tag 2 ≠ tPSN ∧ solo.cur.regs.tag 3 ≠ tPSN ∧
    (∀ l ∈ lanesOf (solo.lanes noGd), spaceOf (solo.cur.regs.rdV 3 l ++ solo.cur.regs.rdV 2 l : Word).toNat = 0) ∧
    (∀ c ∈ solo.cur.slices, (c.branch 1 (fun _ => 0) (solo.cur.pcOf 0 + 8)).isSome) ∧ spoiled.cur.regs.tag 1 = tPSN ∧ spoiled.Clear false noGd :=
  ⟨by unfold State.Clear; decide +kernel, solo_clear, by and_intros <;> decide +kernel⟩

theorem wit_CallAndReturn : solo.Clear false noGd ∧ solo.lanes noGd ≠ 0 ∧ (soloWith fun c => { c with active := 0 }).lanes noGd = 0 ∧
    ctlPois solo (.sreg 1) = false ∧ rPois solo 1 = false ∧ spaceOf (solo.cur.regs.rdR 1).toNat = 0 ∧ (solo.cur.regs.rdR 1).toNat % 8 = 0 ∧
    (let s := solo.onRegs fun r => { r with rpois := 2 }
     rPois s 1 = true ∧ s.lanes noGd ≠ 0) :=
  ⟨solo_clear, by and_intros <;> decide +kernel⟩

/-- A stack with a BREAK and a JOIN entry, and a full one. -/
theorem wit_TokenStack : solo.Acts false noGd ∧
    (let tgt := solo.cur.pcOf solo.curGrp + BitVec.ofInt 64 (8 * offVal (.i20 4))
     spaceOf tgt.toNat = 0 ∧ tgt.toNat % 8 = 0) ∧
    (∀ c ∈ solo.cur.slices, c.stack.length < 16 ∧ ¬ ∃ k ∈ c.stack, k.mask ≠ 0) ∧
    (∀ c ∈ (soloWith fun (c : Slice) => { c with stack := List.replicate 16 ⟨0, 1, 0⟩ }).cur.slices, ¬ c.stack.length < 16) ∧
    (∀ c ∈ (soloWith fun (c : Slice) => { c with stack := [⟨1, 1, 0x2000⟩, ⟨0, 1, 0x2000⟩] }).cur.slices,
      (∃ k ∈ c.stack, k.mask ≠ 0) ∧ (∃ e ∈ c.stack, e.kind = 1) ∧ ¬ (∃ e ∈ c.stack, e.kind = 2)) ∧
    (∃ k ∈ ((⟨0x10000, 1, 1, [⟨1, 1, 0x2000⟩, ⟨0, 1, 0x2000⟩], 0, 0, .none⟩ : Slice).above 1 1), k.mask ≠ 0) :=
  ⟨solo_acts false, by and_intros <;> decide +kernel⟩

theorem wit_ExitEndsLanes : solo.Clear false noGd ∧ solo.lanes noGd ≠ 0 ∧ solo.cur.saved = false ∧ solo.cur.resident = true ∧
    (∀ c ∈ solo.cur.slices, c.wait ≠ .regang) ∧ solo.cur.memb = [] ∧ (∀ c ∈ solo.cur.slices, c.live &&& ~~~1 = 0) :=
  ⟨solo_clear, by and_intros <;> decide +kernel⟩

/-- Two slices in groups of their own. -/
def parted : State := solo.onCur fun t => { t with nsl := 2, slices := t.slices ++ t.slices.map fun c => { c with grp := 1 } }

theorem wit_RegangGathers : parted.Clear false noGd ∧ (∃ c ∈ parted.cur.slices, ¬ (c.live = 0 ∨ c.inGrp parted.curGrp = true ∨ c.wait = .regang)) ∧
    ∀ c ∈ solo.cur.slices, c.live = 0 ∨ c.inGrp solo.curGrp = true ∨ c.wait = .regang :=
  ⟨by unfold State.Clear; decide +kernel, by and_intros <;> decide +kernel⟩

/-- The thread and lane 5 of another are members of a cohort of key 4. -/
def joined : State := { solo.onCur (fun t => { t with memb := [⟨0, 2, 4⟩] }) with
  cohorts := [⟨0, 0, 2, 4, 0, [(1, 0), (9, 5)], [], [], false⟩] }

theorem wit_CohortInstructions : solo.Acts false noGd ∧ keyPois solo (.imm 4) = false ∧ keyTagBad solo (.imm 4) = false ∧
    ctlPois solo (.imm 2) = false ∧ solo.cohort? solo.cur 2 = none ∧ joined.Acts false noGd ∧
    (∃ c, joined.cohort? joined.cur 2 = some c ∧ c.late = [] ∧ c.waits.all (fun w => !w.late) = true ∧ c.members.contains (joined.cur.id, 0) = true ∧
      (9, 5) ∈ c.members) ∧
    joined.cur.resident = true ∧ (⟨0, 2, 4⟩ : Memb) ∈ joined.cur.memb ∧
    (joined.cohorts.find? fun c => c.die == 0 && c.core == joined.cur.coreNo 0 && c.key == 4 && c.task == joined.cur.task).isSome = true ∧
    (solo.joinLane solo.cur.id 0 4) ≠ (solo, 0xFFFFFFFF) ∧
    ((joined.cur.memb.filter fun m => m.lane == 1).length < 4 ∧ ∀ m ∈ joined.cur.memb, m.lane = 1 → m.handle ≠ 2) :=
  ⟨solo_acts false, by decide +kernel, by decide +kernel, by decide +kernel, by decide +kernel, by unfold State.Acts State.Clear; decide +kernel,
    ⟨_, rfl, by and_intros <;> decide +kernel⟩, by and_intros <;> decide +kernel⟩

/-- A trap handler at 0x20000. -/
def handled : State := solo.onDie 0 fun x => { x with trapvec := 0x20000 }

theorem wit_TrapInstructionsEnterHandler : handled.Acts false noGd ∧ handled.cur.handler = false ∧
    (let r := handled.areaTouch handled.cur 1
     r.2 = true ∧ r.1.cur.handler = false ∧ vecPc (r.1.die r.1.cur.loc.die).trapvec ≠ 0) ∧ solo.Clear false ⟨15, false⟩ ∧ solo.lanes ⟨15, false⟩ = 0 :=
  ⟨by unfold State.Acts State.Clear; decide +kernel, by decide +kernel, by decide +kernel, by unfold State.Clear; decide +kernel, by decide +kernel⟩
theorem wit_HandlerEntryAndDoubleTrap : solo.cur.frs.length ≤ 4 ∧ (255 < 256) ∧
    (let s := solo.onDie 0 fun x => { x with wlk := { x.wlk with st := 2 } }
     (s.areaTouch s.cur 1).2 = false) ∧
    (let s := solo.onCur fun t => { t with handler := true }
     (s.areaTouch s.cur 1).2 = true ∧ (s.areaTouch s.cur 1).1.cur.handler = true) ∧
    (let r := solo.areaTouch solo.cur 1
     r.2 = true ∧ r.1.cur.handler = false ∧ vecPc (r.1.die r.1.cur.loc.die).trapvec = 0) ∧ (solo.onCur fun t => { t with halted := true }).cur.halted = true := by
  decide +kernel
theorem wit_PrivilegeIsChecked : tenant.Acts false noGd ∧ tenant.cur.pasid ≠ 0 ∧ tenant.cur.handler = false ∧ rPois tenant 1 = false ∧
    (¬ (immRaw (.i20 0x24) % 4096 ≤ 0x23 ∧ immRaw (.i20 0x24) % 4096 ≠ 0x1A)) ∧ ¬ immRaw (.i20 6) % 4096 ≤ 5 :=
  ⟨by unfold State.Acts State.Clear; decide +kernel, by and_intros <;> decide +kernel⟩

/-- A save area at 0x10100 with a CODE. -/
def savedAs (code : BitVec 8) : State := { solo with mem := solo.mem.set 0x10100 code }
/-- The same of a PREEMPT, with RESTORE. -/
def restored : State := { savedAs 0x14 with mem := (savedAs 0x14).mem.set 0x10103 2 }

/-- The area of `rett` at 0x10100 can be read and lets the thread go on: the record has a code and RESTORE, the copies it names have room. -/
def rettMeets (s : State) (code : Nat) (restore skip : Bool) : Bool :=
  match (resolve .load 0 0 1 [(0, 0x10100, 0x1C00)]).run s with
  | .ok ((_, []), s1) =>
    let r := s1.areaLines s1.cur.loc.die (tlbKey s1.cur) 0x10100 112
    let a : Area := ⟨r.2⟩
    let u := if skip then r.1.unitLenAt s1.cur a.pc else (r.1, some 0)
    let c := u.1.copyRecs s1.cur 0x10100
    a.code == code && a.restore == restore && !a.flags.testBit 3 && !s.clusterTask s1.cur.task && c.1.chanRoom s1.cur.loc.die s1.cur.loc.cl c.2 &&
      match u.2 with
      | some n => pcBad (s1.cur.resume a n).slices == none
      | none => false
  | _ => false

theorem wit_TrapReturnResumes : (savedAs 1).Acts false noGd ∧ (savedAs 1).cur.super = true ∧ (savedAs 1).cur.regs.rpois.getLsbD 1 = false ∧
    ((savedAs 1).cur.regs.rdR 1).toNat = 0x10100 ∧ spaceOf 0x10100 = 0 ∧ fieldN 0x10100 57 3 = 0 ∧ rettMeets (savedAs 1) 1 false true = true :=
  ⟨by unfold State.Acts State.Clear; decide +kernel, by and_intros <;> decide +kernel⟩
theorem wit_TrapReturnResumes_preempt : rettMeets restored 0x14 true false = true := by decide +kernel
theorem wit_TrapReturnResumes_declined : rettMeets (savedAs 0x14) 0x14 false false = true := by decide +kernel

theorem wit_ControlWords : solo.Acts true noGd ∧ solo.Acts false noGd ∧ solo.cur.super = true ∧ rPois solo 1 = false ∧ solo.cur.loc.die < solo.dies.length ∧
    csrUserR 0x3D = true ∧ csrUserR 0x23 = true ∧ csrUserR 0x24 = false ∧ csrRead solo 0x34 = 0 :=
  ⟨solo_acts true, solo_acts false, by and_intros <;> decide +kernel⟩

/-- The page is tracked. -/
def tracked : State := { solo with tlb := solo.tlb.map fun p => (p.1, { p.2 with ent := p.2.ent ||| 0x20000000000 }) }

theorem wit_WatchSleepPause : solo.Acts false noGd ∧ rPois solo 1 = false ∧
    (watchTrap false [(0, 0x10100, 64)]).run tracked = .ok ((), tracked) ∧
    (∃ a s1, (resolve .load 0 0 1 [(0, 0x10100, 64)] (fun sp => sp ≤ 1)).run tracked = .ok (a, s1) ∧
      (a.2 = [] ∧ a.1.length = 1 ∧ (a.1.all fun p => p.sp != 0 || p.trk) = true ∧
        (a.1.all fun p => match (readPc p).run s1 with | .ok (some _, _) => true | _ => false) = true)) ∧
    solo.cur.watch = none ∧ ctlPois solo (.imm 0xFFFFF) = false ∧ solo.cur.resident = true ∧
    (solo.onCur fun t => { t with watch := some ⟨0x404, true⟩ }).cur.watch = some ⟨0x404, true⟩ ∧
    ((soloWith fun c => { c with wait := .pause 0 }).cur.slices.map fun c => c.wait) = [.pause 0] :=
  ⟨solo_acts false, by decide +kernel, ranUnit (by decide +kernel) (by decide +kernel), okW _ _ (by decide +kernel), by and_intros <;> decide +kernel⟩

/-- A task with a count of 64 niches. -/
def manyNiches : Task := ⟨solo.cur.task, 0, 0, 0, 0, 64 <<< 32, .placed, 0, 0, 0, false, [], 0, [0], 0, 0, 0, 0, ⟨0, 0, 0, 0, 0⟩, none⟩
/-- Niches of the task: one FULL in BCAST mode, one in GATHER mode. -/
def niched : State := { solo with
  tasks := [manyNiches]
  clusters := [{ solo.cluster 0 0 with nn := 64 }]
  niches := [⟨0, 0, 1, 5, true, false, 0, 0, 0, 2, 0, 0, []⟩, ⟨0, 0, 2, 0, false, true, 0, 2, 2, 2, 0, 0, []⟩] }

theorem wit_NicheInstructions : niched.Acts false noGd ∧ niched.nicheOff = false ∧ 63 < niched.nicheCount ∧ ctlPois niched (.imm 2) = false ∧
    ((niched.myNiche 0).gather = false ∧ (niched.myNiche 0).full = false ∧ (niched.myNiche 0).writers = []) ∧
    ((niched.myNiche 1).full = true ∧ (niched.myNiche 1).used.getLsbD niched.cur.consumedBit = false) ∧
    ((niched.myNiche 2).gather = true ∧ (niched.myNiche 2).gop = 0 ∧ (niched.myNiche 2).gty = 2 ∧ (niched.myNiche 2).full = false) ∧
    niched.cur.ctl.tagchk = false ∧ niched.cur.regs.tag 1 ≠ tPSN ∧ rPois niched 1 = false ∧
    (match (release 1).run niched with | .ok _ => true | .error _ => false) = true ∧
    (match (acquire 1 0 true).run niched with | .ok _ => true | .error _ => false) = true ∧
    solo.nicheCount ≤ 0 ∧ niched.cur.super = true :=
  ⟨by unfold State.Acts State.Clear; decide +kernel, by and_intros <;> decide +kernel⟩

/-! ### Hypotheses that are met: memory -/

/-- A condition in a run of hypotheses: the run goes on only where it is met. -/
def need (b : Bool) : M Unit := stopIf (!b) (.park 0)

/-- The accesses of the one lane to the line that s1 points at. -/
def reqs (s : State) (w : Nat) : List Ea := (accLanes false (s.lanes noGd)).map (eaOf s 1 (.off 0) w)

/-- What a load of the line needs, and whether a page is missing. -/
def loads (ty : BitVec 5) (missing : Bool) : M Unit := do
  let s ← getS
  let rs := eaReqs (reqs s (tyBits ty))
  let r ← resolve .load 0 (bpmOf s none) (tyAlign ty) rs (adr := apLoad) (ap8 := tyBits ty == 64)
  watchTrap false rs
  if missing then do
    need (!r.2.isEmpty && !s.cur.handler)
    deferLoad 0 8 r.2 0x10000
  else do
    need r.2.isEmpty
    let xs ← readPcs r.1
    need (xs.all fun x => x.2.isSome)

/-- The thread with s1 at another address. -/
def toward (p : Word) : State := solo.onRegs fun r => r.wrR 1 p

theorem wit_LoadsReadMemory : solo.Acts true noGd ∧ addrPois solo 1 (.off 0) = false ∧ (idxTag (.off 0)).run solo = .ok ((), solo) ∧
    isOk (loads 0x0A false) solo = true ∧ isOk (loads 0x0A true) (toward 0x20000) = true ∧
    isOk (loads 0x0B false) (toward 0x6000000000000010) = true ∧ (reqs (toward 0x6000000000000010) 64).map (fun e => spaceOf e.ptr) = [6] ∧
    (let s := solo.onCur fun t => { t with outs := [.load] }
     s.cur.resident = true ∧ OutOp.load ∈ s.cur.outs) ∧
    addrPois (solo.onRegs fun r => { r with rpois := 2 }) 1 (.off 0) = true ∧
    (∀ q ∈ reqs (toward 0x4000000000000000) 8, spaceOf q.ptr = 4) ∧ (∀ q ∈ reqs (toward 0x8000000000000000) 8, ptrBad (toward 0x8000000000000000) q.ptr 1 = true) ∧
    (∀ q ∈ reqs solo 8, spaceOf q.ptr ≠ 6) ∧ isOk (eachM (prefetchLane true) (reqs solo 8)) solo = true :=
  ⟨solo_acts true, by decide +kernel, rfl, by and_intros <;> decide +kernel⟩

/-- What a store of 32 bits needs. -/
def stores : M Unit := do
  let s ← getS
  let es := (reqs s 32).map fun e => (e, 7)
  let r ← resolve .store 0 (bpmOf s none) (tyAlign 0x0A) (eaReqs (reqs s 32)) (adr := apStore) (ap8 := (32 : Nat) == 64)
  need r.2.isEmpty
  watchTrap true (eaReqs (reqs s 32))
  apTemplates es
  prepareStore r.1
  release 2
  let s ← getS
  need (s.holdsAll r.1)
  eachM apCommand es
  let s ← getS
  need (s.holdsAll r.1)

theorem wit_StoresWriteMemory : solo.Acts false noGd ∧ addrPois solo 1 (.off 0) = false ∧ dataPois solo false 8 1 = false ∧
    (idxTag (.off 0)).run solo = .ok ((), solo) ∧ (dataTag false 0x0A 8 1).run solo = .ok ((), solo) ∧
    solo.lanes noGd &&& ~~~solo.cur.apDone ≠ 0 ∧ isOk stores solo = true ∧
    (let s := solo.onCur fun t => { t with apDone := 1 }
     s.lanes noGd &&& ~~~s.cur.apDone = 0) ∧
    addrPois (solo.onRegs fun r => { r with rpois := 2 }) 1 (.off 0) = true ∧
    (let s := solo.onCur fun t => { t with outs := [.store] }
     s.cur.resident = true ∧ OutOp.store ∈ s.cur.outs) ∧
    (∀ w ∈ storeWrs 32 [⟨0, 4, scratchKey 0 0 0, 0, 4, 1, false, false, false, 0⟩] [] [(⟨0, 0, 4, 0⟩, 7)], w.p.sp = 4 ∨ w.p.sp = 5) :=
  ⟨solo_acts false, by decide +kernel, by decide +kernel, rfl, ranUnit (by decide +kernel) (by decide +kernel), by and_intros <;> decide +kernel⟩

theorem wit_StoredBytesAreRead : (let p : Pc := ⟨0, 4, scratchKey 0 0 0x7FC, 0, 4, 1, false, false, false, 0⟩
     p.sp = 4 ∧ solo.marked p.pa p.n = false) ∧ solo.mem.wf = true ∧
    (let p : Pc := ⟨0, 0, 0x1013C, 0, 4, 1, false, false, false, 0x1013C⟩
     p.sp = 0 ∧ p.trk = false ∧ p.cmp = false ∧ p.pol = 1 ∧ p.pa % 64 + p.n ≤ 64 ∧ solo.cline? 0 0 (p.pa / 64) = none) ∧
    (let s := { solo with clines := [⟨0, 0, 0x404, 0, .untracked 3 false, 5⟩, ⟨0, 0, 0x405, 0, .tracked .m false, 5⟩] }
     s.cline? 0 0 0x404 = some ⟨0, 0, 0x404, 0, .untracked 3 false, 5⟩ ∧ s.home 0x404 = .dev 0 ∧ s.homeFree 0x404 = true ∧ s.lineLost 0x404 = false ∧
     (∀ z ∈ s.clines, z.la = 0x404 → z.kind.moesi? = none) ∧ s.cline? 0 0 0x405 = some ⟨0, 0, 0x405, 0, .tracked .m false, 5⟩) := by decide +kernel

/-- The thread's scratchpad, to which s1 points. -/
def scratch : State := { toward 0x4000000000000000 with clusters := [{ solo.cluster 0 0 with spk := 1 }] }
/-- What an atomic of one lane needs at a scope, and which of its pieces a home performs. -/
def atomics (scope : BitVec 3) (far : Bool) : M Unit := do
  let s ← getS
  let es := reqs s 32
  let r ← resolve (.atomic (aopClass 2 0x06) (scope = 4)) 0 (bpmOf s none) (tyAlign 0x06) (eaReqs es) (spcOk := atomSpc)
  need (r.2.isEmpty && r.1.length == 1)
  watchTrap true (eaReqs es)
  prepareStore (r.1.filter fun p => p.coherent || p.sp == 2)
  let s ← getS
  need (r.1.all fun p => !s.marked p.pa p.n && !s.lineLost (p.pa / 64) && !s.homeGone 0 (p.pa / 64) && (atomAt scope p == .home) == far)
  let near ← readHeld (r.1.filter fun p => atomAt scope p == .cluster && !p.coherent)
  need (near.all fun x => x.2.isSome)
  release scope
  let s ← getS
  need (s.holdsAll r.1)
  let _ ← mapM' (fun p => do
    let v ← atomLane far (r.1.map fun p => offKey 1 p.lane (p.pa / 64)) scope 2 0x06 1 0 (offKey 1 p.lane (p.pa / 64)) p
    pure (p.lane, v)) r.1

theorem wit_Atomics : scratch.Acts false noGd ∧ addrPois scratch 1 (.off 0) = false ∧ dataPois scratch false 8 1 = false ∧
    (dataTag false 0x06 8 1).run scratch = .ok ((), scratch) ∧ isOk (atomics 1 false) scratch = true ∧ isOk (atomics 3 true) solo = true ∧
    (let s := { solo with sdir := [⟨0, 9, [], .i, false, some ⟨0, .atu, 4096, false, 0, some 5, false, 0, 0, 0⟩, []⟩] }
     (s.sent 0 9).req = some ⟨0, .atu, 4096, false, 0, some 5, false, 0, 0, 0⟩) :=
  ⟨by unfold State.Acts State.Clear; decide +kernel, by decide +kernel, by decide +kernel, ranUnit (by decide +kernel) (by decide +kernel),
    by and_intros <;> decide +kernel⟩

/-- The thread with a line of its own at 0x10100. -/
def owning (st : LineKind) : State := { tracked with
  clines := [⟨0, 0, 0x404, 0, st, 5⟩, ⟨0, 0, 0x405, 0, st, 6⟩]
  sdir := [⟨0, 0x404, [(0, .m)], .m, false, none, []⟩, ⟨0, 0x405, [(0, .m)], .m, false, none, []⟩] }

/-- What `srel`, and `sacq` with CLR, need of an object at 0x10100. -/
def depositsAt (fresh : Bool) : M Unit := do
  let r ← syncObj .store 1 (.off 0)
  match r.1 with
  | [v, p] => do
    need r.2.isEmpty
    watchTrap true [(0, 0x10100, 128)]
    deposit v p (offKey 1 0 (p.pa / 64)) 2 fresh
    let f ← permit v
    need (match f with | .ok _ => true | _ => false)
    let x ← readPc { v with n := 8 }
    need x.isSome
  | _ => need false
def acquiresAt (clr : Bool) : M Unit := do
  let r ← syncObj (if clr then .atomic 0 false else .load) 1 (.off 0)
  match r.1 with
  | [v, p] => do
    need r.2.isEmpty
    watchTrap false [(0, 0x10100, 128)]
    watchTrap true [(0, 0x10140, 64)]
    let s ← getS
    need (s.sent 0 (offKey 1 0 (v.pa / 64))).req.isNone
    let x ← valueOf (offKey 1 0 (v.pa / 64)) { v with n := 8 }
    need x.isSome
    let f ← if clr then permit p else pure (.ok 0)
    need (match f with | .ok _ => true | _ => false)
    let y ← readPc p
    let s ← getS
    need (y.isSome && (!clr || s.holdsAll [p]))
  | _ => need false

theorem wit_SynchronisationObjects : tracked.Acts false noGd ∧ tracked.Acts true noGd ∧ rPois tracked 1 = false ∧ rPois tracked 8 = false ∧
    isOk (depositsAt false) (owning (.tracked .m false)) = true ∧ isOk (acquiresAt true) (owning (.tracked .m false)) = true ∧
    isOk (acquiresAt false) tracked = true ∧ (owning (.tracked .m false)).Acts false noGd ∧
    (release 2).run tracked = .ok ((), tracked) ∧
    (let s := solo.onCur fun t => { t with cntCp := 63 }
     ¬ ((63 : BitVec 6) ≠ 63 ∧ (63 : BitVec 6).toNat < s.cur.cntCp) ∧ ((62 : BitVec 6) ≠ 63 ∧ (62 : BitVec 6).toNat < s.cur.cntCp)) :=
  ⟨by unfold State.Acts State.Clear; decide +kernel, by unfold State.Acts State.Clear; decide +kernel, by decide +kernel, by decide +kernel,
    by decide +kernel, by decide +kernel, by decide +kernel, by unfold State.Acts State.Clear; decide +kernel,
    ranUnit (by decide +kernel) (by decide +kernel), by decide +kernel⟩

/-- The line at 0x10100 is LOST. -/
def lostLine : State := tracked.setJent { tracked.jent (tracked.dirDie 0x404) 0x404 with st := .lost }
/-- A compressed page, seen through space 7. -/
def comp : State := { solo.onRegs (fun r => (r.wrR 1 0x7000000000010000).wrR 2 256) with
  tlb := solo.tlb.map fun p => (p.1, { p.2 with spc := 7, ent := p.2.ent ||| 0x800000000000 }) }
/-- A page table of 1024 buckets at 0x20000 whose bucket for page 1 of PASID 7 has an entry for frame 3 that may be read and written. -/
def paged : State :=
  let key := 0 + 7 * 2 ^ 38
  let h := key * 0x9E3779B97F4A7C15 % 2 ^ 64 / 2 ^ 54
  let ent := 3 + 2 ^ 36 + 2 ^ 37 + 2 ^ 38
  let s := solo.onDie 0 fun x => { x with ptb0 := 0x2000A }
  { s with mem := putLine s.mem (0x20000 / 64 + h) fullMask (BitVec.ofNat 512 (7 * 2 ^ 38 + 2 ^ 63 + ent * 2 ^ (64 + 56))) }
/-- What `pclr` needs of the line at 0x10100; whether it is LOST. -/
def reclaims (lost : Bool) : M Unit := do
  let r ← resolve .store 0 0 64 [(0, 0x10100, 64)]
  watchTrap true [(0, 0x10100, 64)]
  release 3
  let s ← getS
  need (r.2.isEmpty && r.1.length == 1 && r.1.all fun p => p.trk && ((s.jent (s.dirDie (p.pa / 64)) (p.pa / 64)).st == JSt.lost) == lost)
/-- What `dcf` needs of the granule at the start of the compressed page. -/
def changesForm : M Unit := do
  let r ← liftS fun u => translate u 0 7 0x10000 (.atomic 0 false)
  need (match r with | .ok _ e _ => entCmp e | _ => false)
  watchRange true 7 0x10000 256
  let s ← getS
  need (!s.unperformed 0)

theorem wit_LinesAndPages : solo.Acts false noGd ∧ addrPois solo 1 (.off 0) = false ∧ (idxTag (.off 0)).run solo = .ok ((), solo) ∧
    isOk (resolve .load 0 0 1 (eaReqs (reqs solo 8))) solo = true ∧
    (rPois comp 2 = false ∧ ptrBad comp 0x7000000000010000 0 = false ∧ comp.Acts false noGd ∧ (rVal comp 1).toNat = 0x7000000000010000 ∧
      (rVal comp 2).toNat = 256 ∧ (rVal comp 8).toNat = 0 ∧ spaceOf 0x7000000000010000 = 7 ∧ isOk changesForm comp = true) ∧
    (lostLine.Acts false noGd ∧ lostLine.cur.super = true ∧ (∀ i, i < 8 → lostLine.cur.regs.rpois.getLsbD (8 + i) = false) ∧
      isOk (reclaims true) lostLine = true ∧ isOk (reclaims false) tracked = true ∧ tracked.cur.super = true) ∧
    (∃ t pa e sz, walk paged 0 7 0 0x10040 false .store = (t, .ok pa e sz) ∧ pa = 0x30040) :=
  ⟨solo_acts false, by decide +kernel, rfl, by decide +kernel,
    ⟨by decide +kernel, by decide +kernel, by unfold State.Acts State.Clear; decide +kernel, by and_intros <;> decide +kernel⟩,
    ⟨by unfold State.Acts State.Clear; decide +kernel, by and_intros <;> decide +kernel⟩,
    by
      have h : (match walk paged 0 7 0 0x10040 false .store with | (_, .ok pa _ _) => pa == 0x30040 | _ => false) = true := by decide +kernel
      split at h
      · rename_i t pa e sz hh; exact ⟨t, pa, e, sz, hh, by simpa using h⟩
      · cases h⟩

/-- Barriers of the supervisor's context at 0x10000 and 0x2010000. -/
def barred : State := { solo.onRegs (fun r => r.wrR 1 1) with
  ctxs := [(0, { Ctx.unset with cbarBase := 0x10001 })]
  tlb := solo.tlb ++ solo.tlb.map fun p => (p.1, { p.2 with page := 0x201, ent := p.2.ent + 0x200 }) }
/-- What the forms of `cbar` need of barrier 1: its FLIPS is the register's, or not, or its line is LOST. -/
def findsBar (flips lost : Bool) : M Unit := do
  let r ← findBar 1 2 false
  let s ← getS
  need (((s.cbar r.1).flips == (rVal s 2).toNat) == flips && (s.lineLost (r.1 / 64) || s.homeGone 0 (r.1 / 64)) == lost)
def armsBar : M Unit := do
  let _ ← findBar 1 2 true
  let s ← getS
  need (!s.unperformed 0)
def arrivesBar : M Unit := do
  let r ← findBar 1 2 true
  release 2
  let s ← getS
  need ((s.sent 0 (offKey 1 0 (r.2 / 64))).req.isNone)
  need (!(((s.barUpdate 0 r.2 3 s.cur.ctl.patina.toNat).settle settleBound).keepAtom (offKey 1 0 (r.2 / 64)) 0).barPending 0 (r.2 / 64))

theorem wit_CountBarriers : barred.Acts false noGd ∧ isOk (findsBar true false) barred = true ∧
    isOk (findsBar false false) (barred.onRegs fun r => r.wrR 2 1) = true ∧
    isOk (findsBar true true) (barred.setJent { barred.jent (barred.dirDie 0x400) 0x400 with st := .lost }) = true ∧
    isOk armsBar barred = true ∧ isOk arrivesBar barred = true ∧
    rPois barred 1 = false ∧ 2 ^ cbLogn (solo.ctx solo.cur.pasid).cbarBase ≤ (rVal solo 1).toNat :=
  ⟨by unfold State.Acts State.Clear; decide +kernel, by and_intros <;> decide +kernel⟩

/-- A template of one byte from 0x10100 to 0x10200, in s8 to s15. -/
def tmplRegs : State := solo.onRegs fun r => (r.wrR 8 0x10100).wrR 9 0x10200
/-- A command of that template, by thread 1. -/
def cmd1 : Copy := { Copy.fresh solo.cur Ctx.unset 0x102000000000000010100 0 with running := true }
/-- Commands on channel 0, which has translated their page. -/
def copying (cs : List Copy) : State := solo.setChan ⟨0, 0, 0, cs, some fetchTlb, some fetchTlb, []⟩
/-- A command alone on channel 0 that no error of its own or of another one stops. -/
def onlyCmd (k : Copy) : Bool := ((copying [k]).chan 0 0 0).cmds == [k] && k.running && k.stopped == none && k.lostLine == none && k.ending == none
/-- Its close for an error can be found. -/
def closes (s : State) (k : Copy) : Bool := match (s.closeAt 0 0 k).2 with
  | .busy => false
  | _ => true
/-- The channel's engine has translated the barriers' pages. -/
def engineSees : State := { barred with tlb := barred.tlb.map fun p => (10000, p.2) }
/-- A start by the thread finds the first template and passes the checks. -/
def startsHere (s : State) : Bool := match s.tmplFind s.cur 0 with
  | (s1, .here pa trk) =>
    let p : Pc := ⟨0, 0, pa, 0, 64, 3, trk, false, false, 0⟩
    decide ((s1.chan 0 0 0).cmds.length < 16) && match s1.engineLine 0 0 p with
      | (s2, .ok x) => (s2.doneLines 0 0 [p]).copyCheck 0 0 (Copy.fresh s.cur (s2.ctx s.cur.pasid) x 0) == none
      | _ => false
  | _ => false
/-- The command with a close in barrier 0. -/
def cmdCk : Copy := { cmd1 with tmpl := cmd1.tmpl ||| BitVec.ofNat 512 (2 ^ 340), ctx := barred.ctx 0 }

theorem wit_CopyCommands : tmplRegs.Acts false noGd ∧ rPois tmplRegs 2 = false ∧ (∀ i, i < 8 → tmplRegs.cur.regs.rpois.getLsbD (8 + i) = false) ∧
    (tmplRegs.chan 0 0 0).cmds.length < 16 ∧ (rVal tmplRegs 2).toNat % 4096 = 0 ∧ (rVal tmplRegs 1).toNat % 4096 ≠ 0 ∧
    (let q := Copy.fresh tmplRegs.cur (tmplRegs.ctx 0) (BitVec.ofNat 512 ((List.range 8).map fun i => (tmplRegs.cur.regs.rdR (8 + i)).toNat * 2 ^ (64 * i)).sum) 0
     tmplRegs.copyCheck 0 0 q = none ∧ closes tmplRegs q = true) ∧
    16 ≤ ((solo.setChan ⟨0, 0, 7, List.replicate 16 cmd1, none, none, []⟩).chan 0 0 7).cmds.length ∧
    (let s := { solo with ctxs := [(0, { Ctx.unset with tmplBase := 0x10001 })] }
     s.cur.resident = true ∧ startsHere s = true) ∧
    onlyCmd cmd1 = true ∧ cmd1.t ≠ 0 ∧ cmd1.resv = none ∧ cmd1.sent = none ∧ cmd1.committed < (geoOf cmd1.tmpl cmd1.data).total ∧
    (let s := copying [cmd1]
     (match s.sectorRead 0 0 0 cmd1 (geoOf cmd1.tmpl cmd1.data) (rowSegs (geoOf cmd1.tmpl cmd1.data).rowBytes 257 0 1) with
      | (s2, .ok _ xs) => !xs.isEmpty && (match (s2.sectorWrite 0 0 xs).2 with | .ok _ => true | _ => false)
      | _ => false) = true ∧ s.unperformed 0 = false ∧ (geoOf cmd1.tmpl cmd1.data).ck % 2 = 0 ∧ closes s cmd1 = true) ∧
    (let s := { copying [{ cmd1 with sent := some (1, 0, false) }] with sdir := [⟨0, wrKey 0 7, [], .i, false, some ⟨0, .wru, 9, false, 0, none, false, 0, 1, 0⟩, []⟩] }
     s.unperformed 0 = true) ∧
    ((geoOf cmdCk.tmpl cmdCk.data).ck % 2 = 1 ∧
      (match (engineSees.copyBarrier 0 0 cmdCk (geoOf cmdCk.tmpl cmdCk.data)).2 with | some (.ok _ _) => true | _ => false) = true) ∧
    (let k := { cmd1 with committed := 1 }
     (geoOf k.tmpl k.data).total ≤ k.committed) :=
  ⟨by unfold State.Acts State.Clear; decide +kernel, by and_intros <;> decide +kernel⟩

/-! ### Hypotheses that are met: tiles and residue arrays -/

def tstR : M (List Pc × List (Nat × Page × Nat)) :=
  resolve .store 0 0 4 ((List.range 16).map fun i => (i, ptrAdd 0x10100 (64 * i), 64)) (spcOk := atomSpc)
def tldR : M (List Pc × List (Nat × Page × Nat)) :=
  resolve .load 0 0 4 ((List.range 16).map fun i => (i, ptrAdd 0x10100 (64 * i), 64)) (spcOk := atomSpc)
/-- Rows of 64 bytes follow each other: x0 holds the stride. -/
def tiled : State := solo.onRegs fun r => r.wrR 0 64

theorem wit_TileInstructions : solo.Acts false noGd ∧ solo.Acts true noGd ∧ ctlPois solo (.imm 64) = false ∧ solo.cur.claims = [] ∧
    (∀ k, OutOp.tile k ∉ solo.cur.outs) ∧ ctlVal solo (.imm 65) % 2 ^ 32 > solo.cur.resv ∧ ctlVal solo (.imm 64) % 2 ^ 32 ≤ solo.cur.resv ∧
    solo.cur.resvHeld = true ∧
    (let s := solo.onCur fun t => { t with resvHeld := false, resv := 1537 }
     s.cur.resvHeld = false ∧ s.freeTiles 0 0 0 < s.cur.resv) ∧
    (∀ k, k < 64 → solo.cur.claimed k = false ∧ solo.cur.tileOut k = false) ∧ solo.cur.nlanes ≤ 32 ∧
    (let s := solo.onCur fun t => { t with claims := [(63, none)] }
     s.cur.claimed 63 = true ∧ s.cur.claims ≠ []) ∧
    (solo.cur.regs.tTag 63 ≠ tPSN ∧ ∀ k, k < 64 → solo.cur.regs.tag (8 + k) ≠ tPSN) ∧ solo.Takes solo [(srcOpd true .fp 1 (.imm 0x3F800), anyTag)] ∧
    (∀ i : Nat, i < 16 → ptrAdd (rVal tiled 1).toNat (offOf tiled (.off 0) 0 + sextN (tiled.cur.regs.rdR 0).toNat 32 * i) = ptrAdd 0x10100 (64 * i)) ∧
    tiled.Acts false noGd ∧ tiled.Acts true noGd ∧
    tstR.run tiled = .ok (((got tstR tiled).1, []), after tstR tiled) ∧
    (watchTrap true ((List.range 16).map fun i => (i, ptrAdd 0x10100 (64 * i), 64))).run (after tstR tiled) = .ok ((), after tstR tiled) ∧
    isOk (prepareStore (got tstR tiled).1) (after tstR tiled) = true ∧ (∀ p ∈ (got tstR tiled).1, p.lane < 16) ∧
    tldR.run tiled = .ok (((got tldR tiled).1, []), after tldR tiled) ∧
    (∀ x ∈ got (readPcs (got tldR tiled).1) (after tldR tiled), x.2 ≠ none) ∧
    (solo.onCur fun t => { t with outs := [.tile 3, .load] }).cur.outs = .tile 3 :: [.load] :=
  ⟨solo_acts false, solo_acts true, by decide +kernel, by decide +kernel, fun k h => by simp [show solo.cur.outs = [] from rfl] at h, by decide +kernel,
    by decide +kernel, by decide +kernel, by decide +kernel, by decide +kernel, by decide +kernel, by decide +kernel, by decide +kernel,
    solo_takes _ rfl (by decide +kernel), by decide +kernel, by unfold State.Acts State.Clear; decide +kernel,
    by unfold State.Acts State.Clear; decide +kernel, ranAll (by decide +kernel) (by decide +kernel),
    ranUnit (by decide +kernel) (by decide +kernel), by decide +kernel, by decide +kernel, ranAll (by decide +kernel) (by decide +kernel),
    by and_intros <;> decide +kernel⟩

/-- s16 to s18 hold a layout of E4M3 elements at scratchpad byte 0. -/
def matS : State := scratch.onRegs fun r => r.wrR 18 0x1800
/-- A command of one block in the queue of partition 0, at a number. -/
def mcmd (tile seq : Nat) (started : Bool) (blk : Nat) : MCmd :=
  ⟨1, 0, layReg matS 16, layReg matS 16, 32, 1, 0x10, false, false, false, 0, tile, none, blk, started, false, false, seq⟩
def queued (cs : List MCmd) : State := matS.setMq ⟨0, 0, 0, cs⟩

theorem wit_MatrixCommands : matS.Acts false noGd ∧
    (∀ i, i < 3 → matS.cur.regs.rpois.getLsbD (16 + i) = false) ∧
    layCheck (layOf (layReg matS 16)) (layOf (layReg matS 16)) (fmtOfTy 0x10) 32 1 false false (matS.tcl matS.cur).scratch = none ∧
    layCheck (layOf (layReg matS 16)) (layOf (layReg matS 17)) (fmtOfTy 0x10) 32 1 false false (matS.tcl matS.cur).scratch ≠ none ∧
    matS.cur.tileOut 63 = false ∧ (matS.mq 0 0 0).cmds.length < 16 ∧ matS.cur.batches.length < 16 ∧ matS.cur.nextBat ∉ matS.cur.batches ∧
    (let s := (queued [mcmd 5 0 false 0]).onCur fun t => { t with batches := List.replicate 16 1 }
     16 ≤ s.cur.batches.length ∧ ∃ q ∈ s.mqs, ∃ x ∈ q.cmds, x.t = s.cur.id ∧ x.bat = none) ∧
    ((queued [mcmd 5 0 false 0]).mq 0 0 0).cmds = [mcmd 5 0 false 0] ∧
    (¬ ∃ y ∈ (queued [mcmd 5 0 false 0]).mqs, ∃ x ∈ y.cmds, x.t = 1 ∧ x.tile = 5 ∧ x.seq < 0) ∧
    (∃ y ∈ (queued [mcmd 5 1 false 0, mcmd 5 0 false 0]).mqs, ∃ x ∈ y.cmds, x.t = 1 ∧ x.tile = 5 ∧ x.seq < 1) ∧
    (¬ ∃ z ∈ (List.range 16).map (rowKeys 0 (mcmd 5 0 true 0)), (queued [mcmd 5 0 true 0]).keysBad false z = true) ∧
    (let s := { queued [mcmd 5 0 true 0] with bad := [scratchKey 0 0 0] }
     ∃ z ∈ (List.range 16).map (rowKeys 0 (mcmd 5 0 true 0)), s.keysBad false z = true) ∧
    (mcmd 5 0 true 1).nb ≤ (mcmd 5 0 true 1).blk ∧
    (let cs := (List.range 5).map fun i => mcmd i i false 0
     let s := queued cs
     (s.mq 0 0 0).cmds[4]? = some (mcmd 4 4 false 0) ∧ s.mayMove (mcmd 4 4 false 0) 4 = true ∧ (∀ j, j < 4 → s.mayMove (mcmd j j false 0) j = false) ∧
     (s.mq 0 0 1).cmds = []) :=
  ⟨by unfold State.Acts State.Clear; decide +kernel, by and_intros <;> decide +kernel⟩

/-! ### Hypotheses that are met: coherence -/

/-- The thread in a package of four dies, each joined to every other. -/
def pack : State := { solo with maq := { solo.maq with
  ndies := 4
  dies := (rangeFrom 0 4).map fun a => ⟨0, BitVec.ofNat 4 ((a + 1) % 4), (rangeFrom 0 3).map fun p =>
    ⟨1, BitVec.ofNat 2 (2 - p), BitVec.ofNat 4 ((a + p + 1) % 4), 0, false⟩⟩
  routes := (rangeFrom 0 64).map fun i => BitVec.ofNat 8 ((i % 16 + 3 - i / 16) % 4) } }
/-- A tracked line in a cluster store. -/
def lined (d cl : Nat) (st : Moesi) : CLine := ⟨d, cl, 0x404, 0, .tracked st false, 9⟩
def withLines (cs : List CLine) : State := { pack with clines := cs }
/-- A request of a die to die 0 as transaction 5, which nothing has answered. -/
def req5 (op : Mop) : SReq := ⟨0, op, 5, false, 2, none, false, 0, 0, 0⟩
/-- Die 0 awaits it under a key. -/
def awaiting (key : Nat) (op : Mop) : State := { pack with sdir := [⟨0, key, [], .i, false, some (req5 op), []⟩] }
/-- Sixteen lines of one set of a slice. -/
def fullSlice : State := { pack with sdir := (rangeFrom 1 16).map fun i => ⟨0, 0x404 + i * 2 ^ 18, [(0, .s)], .s, false, none, []⟩ }

theorem wit_SliceRequests : (pack.sent 0 0x404).req = none ∧ pack.dpOf 0 0x404 = .m ∧ pack.dpOf 1 0x404 = .i ∧ pack.cline? 0 0 0x404 = none ∧
    (let set := fullSlice.sdir.filter fun z => z.die == 0 && !z.pres.isEmpty && sliceOf z.la == sliceOf 0x404 && sliceSet z.la == sliceSet 0x404
       && fullSlice.homedAt 0 z.la == fullSlice.homedAt 0 0x404
     16 ≤ set.length ∧ (∀ z ∈ set, z.la ≠ 0x404) ∧ (set.find? fun z => z.req.isNone) = set.head? ∧ set.head?.isSome = true ∧
     (∀ z ∈ set, (fullSlice.sent 0 z.la).req = none)) ∧ (∃ n, n < 4096 ∧ pack.txBusy 0 n = false) ∧
    ((awaiting 0x404 .rds).sent 0 0x404).req = some (req5 .rds) ∧
    ((withLines [lined 0 0 .m]).cline? 0 0 0x404 = some (lined 0 0 .m) ∧ (lined 0 0 .m).kind.moesi? = some .m ∧ pack.home 0x404 = .dev 0 ∧
      (pack.sent 0 0x404).exp = false) ∧
    ((withLines [lined 1 0 .o]).cline? 1 0 0x404 = some (lined 1 0 .o) ∧ pack.home 0x404 ≠ .dev 1 ∧ pack.cut 1 (pack.dirDie 0x404) = false) ∧
    (withLines [lined 1 0 .s]).cline? 1 0 0x404 = some (lined 1 0 .s) :=
  ⟨by decide +kernel, by decide +kernel, by decide +kernel, by decide +kernel, by decide +kernel, ⟨0, by decide, by decide +kernel⟩,
    by and_intros <;> decide +kernel⟩

/-- A directory entry of the line at its junction. -/
def entry (f : JEnt → JEnt) : State := pack.setJent (f (pack.jent 0 0x404))
/-- A request of die 1 for the line, as transaction 5. -/
def req1 : Msg := mkMsg 0 1 0x404 5
/-- A transaction that awaits die 2. -/
def tx2 : JTx := ⟨.rds, req1, [2], false, false, 0, none, 5, some 2⟩
/-- A full set of the junction, its lines in a state. -/
def fullSet (st : JSt) : State := { pack with jdir := (rangeFrom 1 16).map fun i => ⟨0, 0x404 + i * 65536, st, [2], 2, false, false, i, none, [], 0, [], []⟩ }

theorem wit_JunctionRequests : pack.dead req1.dst = false ∧ req1.toSlice = false ∧ pack.inCensus 0 0x404 = false ∧
    (pack.jent 0 0x404).st = .absent ∧ (pack.jent 0 0x404).tx = none ∧ (pack.jent 0 0x404).holders = [] ∧ pack.host.filter.contains 0x404 = false ∧
    (pack.jset 0 0x404).length < 16 ∧ ({ pack with host := { pack.host with filter := [0x404] } }.host.filter.contains 0x404 = true) ∧
    ((entry fun j => { j with st := .lost }).jent 0 0x404).st = .lost ∧
    ((entry fun j => { j with st := .sh, holders := [2], tx := some tx2 }).jent 0 0x404).tx ≠ none ∧
    (let set := (fullSet .sh).jset 0 0x404
     16 ≤ set.length ∧ (fullSet .sh).home 0x404 ≠ .host ∧ ∃ v ∈ set, (v.tx = none ∧ v.st ≠ .lost) ∧ ∀ z ∈ set, z ≠ v → v.seq < z.seq) ∧
    (let set := (fullSet .lost).jset 0 0x404
     16 ≤ set.length ∧ (∀ z ∈ set, z.st = .lost) ∧ ({ req1 with pri := true } : Msg).pri = true ∧ req1.pri = false) ∧
    (let s := entry fun j => { j with st := .sh, holders := [1, 2] }
     (s.jent 0 0x404).st = .sh ∧ req1.req ∈ (s.jent 0 0x404).holders ∧ s.nearest 1 ((s.jent 0 0x404).holders.filter (· != 1)) = some 2 ∧
     s.home 0x404 ≠ .host ∧ req1.src ∉ (s.jent 0 0x404).fenced ∧ req1.src ∈ (s.jent 0 0x404).holders) ∧
    (let s := entry fun j => { j with st := .own, holders := [2], owner := 2 }
     (s.jent 0 0x404).st = .own ∧ (s.jent 0 0x404).owner ≠ req1.req) ∧
    (let s := entry fun j => { j with st := .os, holders := [2, 3], owner := 2 }
     (s.jent 0 0x404).st = .os ∧ (s.jent 0 0x404).owner ≠ req1.req) ∧
    (let s := entry fun j => { j with st := .own, holders := [1], owner := 1 }
     (s.jent 0 0x404).owner = { req1 with lines := [(fullMask, 9)] }.src ∧ ({ req1 with lines := [(fullMask, 9)] } : Msg).mir = false) := by
  decide +kernel

theorem wit_SnoopsAndAnswers : pack.dead 0 = false ∧ pack.cut 0 1 = false ∧
    (let s := withLines [lined 0 0 .m]
     s.holds 0 0x404 = true ∧ s.dieDirty 0 0x404 = true ∧ s.home 0x404 = .dev 0) ∧
    (let s := withLines [lined 1 0 .s]
     s.holds 1 0x404 = true ∧ s.dieDirty 1 0x404 = false ∧ s.cut 1 0 = false) ∧
    (pack.holds 1 0x404 = false ∧ (pack.sent 1 0x404).dp = .i) ∧ ({ req1 with toSlice := true } : Msg).toSlice = true ∧
    (let s := awaiting 0x404 .rds
     let e : SEnt := ⟨0, 0x404, [], .i, false, some (req5 .rds), []⟩
     s.sdir.find? (fun z => z.die == 0 && z.la % 2 ^ 46 == 0x404 && z.req.any fun p => p.txid == req1.txid) = some e ∧ s.inCensus 0 0x404 = false ∧
     s.cut 0 0 = false ∧ 1 ∉ (s.jent (s.dirDie 0x404) 0x404).fenced) ∧
    ((entry fun j => { j with st := .sh, holders := [2], fenced := [1] }).jent 0 0x404).fenced = [1] ∧
    (let e : SEnt := ⟨0, wrKey 0 0x404, [], .i, false, some (req5 .wru), []⟩
     (awaiting (wrKey 0 0x404) .wru).sdir.find? (fun z => z.die == 0 && z.la % 2 ^ 46 == 0x404 && z.req.any fun p => p.txid == req1.txid) = some e ∧
     e.endsOnly = true) ∧
    (let s := entry fun j => { j with st := .own, holders := [2], owner := 2, tx := some tx2 }
     (s.jent 0 0x404).tx = some tx2 ∧ tx2.acks = [(mkMsg 0 2 0x404 5).src] ∧ 2 ∉ (s.jent 0 0x404).fenced ∧ (s.jent 0 0x404).st = .own ∧
     tx2.txid = (mkMsg 0 2 0x404 5).txid ∧ ∀ z ∈ s.sdir, z.req = none) ∧
    (let s := entry fun j => { j with st := .sh, holders := [2, 3], tx := some { tx2 with acks := [2, 203] } }
     (s.jent 0 0x404).tx = some { tx2 with acks := [2, 203] } ∧ 200 + 3 ∈ [2, 203] ∧ 3 ∉ [2, 203] ∧ 203 ∈ [2, 203].erase 2 ∧ 203 < 300 ∧ 200 + 2 ∉ [2, 203]) ∧
    (let s := entry fun j => { j with st := .os, holders := [2, 3], owner := 2, tx := some { tx2 with op := .rdx, acks := [2, 303] } }
     (s.jent 0 0x404).tx = some { tx2 with op := .rdx, acks := 2 :: [3].map (fun y => 300 + y) } ∧ 2 ∉ (s.jent 0 0x404).fenced ∧ s.cut 0 3 = false) := by
  decide +kernel

/-- The line at 0x10100 is LOST, in the package. -/
def packLost : State := entry fun j => { j with st := .lost }
/-- A line that a host caches. -/
def hosted : State := { pack with host := { pack.host with filter := [0x404] } }

theorem wit_HomeMessages : pack.dead req1.dst = false ∧ pack.cut 0 req1.req = false ∧ pack.cut 0 req1.src = false ∧
    (packLost.lineLost 0x404 = true ∧ (∀ w ∈ packLost.hws, w.la ≠ 0x404) ∧ (packLost.sent 0 0x404).req = none) ∧
    (pack.lineLost 0x404 = false ∧ (∀ w ∈ pack.hws, w.la ≠ 0x404) ∧ (pack.sent 0 0x404).req = none ∧ pack.home 0x404 = .dev 0 ∧
      (pack.sent 0 0x404).exp = false ∧ pack.host.filter.contains 0x404 = false) ∧
    (hosted.host.filter.contains 0x404 = true ∧ (∀ b ∈ hosted.host.bis, b.1 ≠ 0x404) ∧ hosted.lineLost 0x404 = false) ∧
    (let s := pack.setSent { pack.sent 0 0x404 with exp := true }
     s.home 0x404 = .dev 0 ∧ (s.dpOf 0 0x404).covers .rdx = false ∧ (s.sent 0 0x404).wq = [] ∧ (s.sent 0 0x404).req = none) ∧
    ((6 : BitVec 5) ∈ [(0x02 : BitVec 5), 0x03, 0x06, 0x07, 0x0A, 0x0B, 0x0D] ∧ 60 + tyBits 6 / 8 ≤ 64) ∧
    (∀ x ∈ [(remKey 0x404, Mop.remrd, false), (wrKey 0 0x404, .remwr, true), (mirKey 0 0x404, .mirror, false)],
      let s := awaiting x.1 x.2.1
      let e : SEnt := ⟨0, x.1, [], .i, false, some (req5 x.2.1), []⟩
      s.sdir.find? (fun z => z.die == 0 && z.la % 2 ^ 46 == 0x404 && z.req.any fun p => p.txid == req1.txid) = some e ∧ e.endsOnly = x.2.2) ∧
    (pack.clines = [] ∧ pack.l2 = []) ∧ (0 < 4 ∧ (7 : Nat) < 8 ∧ (3 : Nat) < 4 ∧ (2 ^ 20 - 1 : Nat) < 2 ^ 20) := by
  and_intros <;> decide +kernel

/-- A message of die 1 to die 0 whose ARG names epoch `ep`, die `who` and a form. -/
def jMsg (ep who form : Nat) : Msg := { mkMsg 0 1 0x404 5 with arg := BitVec.ofNat 46 (ep % 2 ^ 32 + who % 16 * 2 ^ 32 + form * 2 ^ 42) }
/-- Die 0 leads. -/
def leads : State := pack.onDie 0 fun x => { x with lease := { x.lease with leader := true } }
/-- Die 2 owns the line and does not acknowledge a snoop for die 1. -/
def silent (st : JSt) : State := entry fun j => { j with st := st, holders := [2, 3], owner := 2, tx := some tx2 }
/-- Die 0 is the shadow of every bucket of die 2, which has failed; die 1 waits for the line. -/
def shadow : State :=
  let s := pack.onDie 2 fun x => { x with failed := true }
  { s with maq := { s.maq with buckets := List.replicate 256 2 }, sdir := [⟨1, 0x400, [], .i, false, some (req5 .rds), []⟩] }

theorem wit_JunctionFailure : ((pack.onDie 0 fun x => { x with failed := true }).dead 0 = true ∧ pack.dead 0 = false ∧
    (2 ^ 32 - 1 < ((pack.onDie 0 fun x => { x with epochSeen := 2 ^ 32 }).die 0).epochSeen) ∧ (pack.die 0).epochSeen ≤ 0 ∧ pack.cut 0 1 = false ∧
    (fieldN (jMsg 0 2 0).arg.toNat 32 4 < pack.dies.length) ∧
    (let u := ((awaiting (remKey 0x404) .remrd).markFailed 2).monitor 0 0x0D
     (∀ z ∈ u.jdir, z.die ≠ 0) ∧ (∀ z ∈ u.sdir, z.endsOnly = false)) ∧
    (shadow.maq.buckets.any fun b => b.toNat % 16 == 2 && b.toNat / 16 == 0) = true ∧ (pack.die 2).failed = false ∧ 0 < pack.maq.ndies ∧
    ((jMsg 0 2 1).arg.toNat / 2 ^ 42 % 16 = 1 ∧ (jMsg 0 2 2).arg.toNat / 2 ^ 42 % 16 = 2 ∧ (jMsg 0 2 3).arg.toNat / 2 ^ 42 % 16 = 3 ∧
      (jMsg 0 2 6).arg.toNat / 2 ^ 42 % 16 = 6 ∧ (jMsg 0 2 7).arg.toNat / 2 ^ 42 % 16 = 7) ∧
    (pack.die 0).lease.leader = false ∧ (leads.die 0).lease.leader = true ∧ (leads.die 2).failed = false ∧ leads.cut 0 2 = false ∧ leads.sdir = []) ∧
    (((pack.onDie 0 fun x => { x with census := [2] }).die 0).census.all pack.dead = false ∧ (shadow.die 0).census.all shadow.dead = true ∧
      shadow.orphans 0 = [] ∧ (∀ z ∈ shadow.stalled 0, z.2.data = none ∧ shadow.cut z.1.die 0 = false) ∧ (shadow.stalled 0).length = 1) ∧
    (leads.cut 0 (let l := (leads.die 0).lease; if l.leader then 0 else fieldN l.word.toNat 28 4) = false ∧
      ((awaiting 0x404 .rds).sdir.find? fun z => z.die == 0 && z.req.any fun p => p.txid == 5) = some ⟨0, 0x404, [], .i, false, some (req5 .rds), []⟩ ∧
      (∀ z ∈ (silent .own).sdir, z.req = none) ∧
      (∃ z ∈ (silent .own).jdir, ((silent .own).jdir.find? fun z => z.die == 0 && z.tx.any fun p => p.txid == 5) = some z ∧ z.tx = some tx2) ∧
      leads.jdir = [] ∧ (let s := leads.onDie 0 fun x => { x with sdBusy := true, sdTx := 5 }
        (s.die 0).sdBusy = true ∧ (s.die 0).sdTx = 5) ∧ (leads.die 0).sdBusy = false) ∧
    (pack.jent 0 0x404).tx = none ∧ ((silent .sh).jent 0 0x404).st = .sh ∧
    (let s := silent .own
     (s.jent 0 0x404).tx = some tx2 ∧ (s.jent 0 0x404).st = .own ∧ 2 ∈ tx2.acks ∧ 200 + 2 ∉ tx2.acks ∧ tx2.op ≠ .recall ∧ tx2.sup = some 2 ∧
     (s.mirrors.find? fun z => z.la == 0x404 && z.owner == 2 && !s.cut 0 z.die && !s.dead z.die) = none ∧ s.dirDie 0x404 = 0) ∧
    (let s := { silent .own with mirrors := [⟨3, 0x404, 2, 1, 7⟩] }
     (s.mirrors.find? fun z => z.la == 0x404 && z.owner == 2 && !s.cut 0 z.die && !s.dead z.die) = some ⟨3, 0x404, 2, 1, 7⟩ ∧
     s.home 0x404 = .dev 0 ∧ s.cut 0 0 = false) ∧
    (let s := { silent .os with clines := [lined 3 0 .s] }
     (s.jent 0 0x404).st = .os ∧ ((s.jent 0 0x404).holders.filter fun z => z ≠ 2 ∧ s.cut 0 z = false ∧ s.holds z 0x404 = true) = [3] ∧ 3 ≠ tx2.m.req) ∧
    (pack.die 0).heldLoss = [] ∧
    (let s := pack.onDie 0 fun x => { x with heldLoss := [⟨0x404, 1, 2, 0, 0, 0⟩] }
     (s.die 0).heldLoss = [⟨0x404, 1, 2, 0, 0, 0⟩] ∧ s.ringPut (s.die 0).lrbase 1 = none ∧ (s.ringPut 0x50000 1).isSome = true) := by
  and_intros <;> decide +kernel
/-- The line's region may be shared with the host. -/
def hdmS : State := { pack with maq := { pack.maq with regions := [⟨0, 0, 0, 0, 0, true⟩] } }
/-- A read of the line by the host. -/
def hRead : HostReq := ⟨0x404, false, fullMask, 0⟩
/-- A snoop of the host that die 1's request awaits. -/
def hostTx (op : Mop) : State := { entry fun j => { j with tx := some { tx2 with op := op, acks := [99] } } with
  maq := { pack.maq with regions := [⟨0, 0, 1, 0, 0, false⟩] } }
/-- The filter's set of the line is full; the home waits for an answer about some lines. -/
def fullFilter (bis : List Nat) : State := { hdmS with host := { hdmS.host with
  filter := (rangeFrom 1 16).map fun i => 0x404 + 16384 * i
  bis := bis.map fun la => (la, .wru, req1) } }
/-- The host's requests wait for nothing. -/
def idles (s : State) : Bool := s.host.yielded.isEmpty && s.host.snps.isEmpty
/-- What a host request for the line finds in progress. -/
def busyAt (s : State) : List Bool :=
  [s.host.bis.any fun b => b.1 == 0x404, s.hws.any fun w => w.la == 0x404, (s.jent (s.dirDie 0x404) 0x404).tx.isSome,
    s.msgs.any fun p => p.2.la == 0x404 && (p.1 == .rdx || p.1 == .upg) && p.2.dst == s.dirDie 0x404 && !p.2.toSlice]
/-- Whether a request for the line finds no way of the filter. -/
def noWay (s : State) : Bool := !s.host.filter.contains 0x404 && decide (16 ≤ (s.host.filter.filter fun z => z % 16384 == 0x404 % 16384).length)

theorem wit_HostLink_dead : (hdmS.onDie 0 fun x => { x with failed := true }).dead hdmS.maq.hostDie = true ∧ hdmS.dead hdmS.maq.hostDie = false ∧
    ((entry fun j => { j with tx := some tx2 }).jent 0 0x404).tx ≠ none ∧ (hdmS.jent hdmS.maq.hostDie 0x404).tx = none := by
  and_intros <;> decide +kernel

theorem wit_HostLink_request : idles pack = true ∧ (pack.region hRead.la).map (·.hdm) ≠ some true ∧ idles hdmS = true ∧
    hdmS.region hRead.la = some ⟨0, 0, 0, 0, 0, true⟩ ∧ hdmS.lineLost hRead.la = false ∧
    busyAt hdmS = [false, false, false, false] ∧ busyAt { hdmS with host := { hdmS.host with bis := [(0x404, .wru, req1)] } } = [true, false, false, false] ∧
    busyAt { hdmS with msgs := [(.upg, req1)] } = [false, false, false, true] ∧ hdmS.home 0x404 = .dev 0 ∧ hdmS.dead 0 = false ∧
    (hdmS.sent 0 0x404).exp = false ∧ (hdmS.sent 0 0x404).req = none ∧ noWay hdmS = false := by
  and_intros <;> decide +kernel

theorem wit_HostLink_full : (∀ bis ∈ [[], [0x404 + 16384]], let s := fullFilter bis
      idles s = true ∧ s.region 0x404 = some ⟨0, 0, 0, 0, 0, true⟩ ∧ s.lineLost 0x404 = false ∧ busyAt s = [false, false, false, false] ∧ noWay s = true ∧
      (s.host.filter.filter fun z => z % 16384 == 0x404 % 16384).head? = some (0x404 + 16384)) ∧
    (fullFilter []).host.bis = [] ∧ ((fullFilter [0x404 + 16384]).host.bis.any fun b => b.1 == 0x404 + 16384) = true := by
  and_intros <;> decide +kernel

theorem wit_HostLink_answers : (((hdmS.host.bis.filter fun b => b.1 == 0x404 && b.2.1 != Mop.wru).map fun b => b.2) = [] ∧ hdmS.msgs = [] ∧ hdmS.hws = [] ∧
      (hdmS.jent (hdmS.dirDie 0x404) 0x404).tx = none) ∧ (pack.jent 0 0x404).tx = none ∧
    ((entry fun j => { j with tx := some tx2 }).jent 0 0x404).tx = some tx2 ∧ 99 ∉ tx2.acks ∧
    (∀ op ∈ [Mop.rds, .rdx], let s := hostTx op
      (s.jent s.maq.hostDie 0x404).tx = some { tx2 with op := op, acks := [99] } ∧ 99 ∉ (s.jent s.maq.hostDie 0x404).fenced ∧ s.home 0x404 = .host ∧
      s.cut s.maq.hostDie tx2.m.req = false ∧ (s.jent s.maq.hostDie 0x404).st = .absent ∧ tx2.kept = false) ∧
    (0xFFF < 4096 ∧ 4096 ≤ 4096 + 0x1210 ∧ 4096 + 0x124C - 4096 = 0x1210 + 0x20 * 1 + 28 ∧ 0x120C < 0x1210) := by
  and_intros <;> decide +kernel

/-- The port has sent a flit that is not acknowledged. -/
def flitA : BitVec 2048 := mkFlit 0 3 4095 0 0 (slotsOf .ack (mkMsg 0 1 0x404 5))
/-- An idle flit and a replay request. -/
def flitI : BitVec 2048 := mkFlit 1 0 4095 0 0 []
def flitR : BitVec 2048 := mkFlit 2 0 4095 0 0 []
/-- A flit whose SEQ is not the next. -/
def flitO : BitVec 2048 := mkFlit 0 3 4095 0 7 (slotsOf .ack (mkMsg 0 1 0x404 5))
/-- A flit for a die that it may not go on to. -/
def flitN : BitVec 2048 := mkFlit 0 3 4095 0 0 (slotsOf .ack { mkMsg 3 1 0x404 5 with hops := 0 })
/-- A flit of a message for a standalone junction, which may go on. -/
def flitT : BitVec 2048 := mkFlit 0 3 4095 0 0 (slotsOf .ack { mkMsg 15 1 0x404 5 with hops := 1 })
/-- Port 2 of die 0 is up, changed by `f`. -/
def onP (f : Port → Port) : State := pack.onPort 0 2 fun x => f { x with trained := true }
def goodFlit (f : Nat) : Bool := decide
  (fieldN f 124 4 = 1 ∧ fieldN f 122 2 ≠ 3 ∧ crc64 ((rangeFrom 0 248).map fun i => f / 2 ^ (8 * i) % 256) = fieldN f 1984 64)
/-- Where a flit's messages go, and the hops that they have left. -/
def heads (f : BitVec 2048) : List (Nat × Nat × Option (Nat × Nat)) := (flitMsgs f.toNat 14 0).map fun z => (z.1, z.2.1, z.2.2.map fun y => (y.2.dst, y.2.hops))

theorem wit_LinkPorts_up : 0 < pack.dies.length ∧ 2 < (pack.die 0).ports.length ∧ (pack.port 0 2).trained = false ∧
    ((onP fun x => { x with down := true }).port 0 2).down = true ∧ ((onP id).port 0 2).trained = true ∧ ((onP id).port 0 2).down = false ∧
    ((onP id).mport 0 2).host = false ∧ (onP id).dead 0 = false ∧ ((onP id).mport 0 2).kind = 1 ∧ (pack.mport 0 3).kind ≠ 1 := by
  and_intros <;> decide +kernel

theorem wit_LinkPorts_flits : [0, flitI.toNat, flitR.toNat, flitA.toNat, flitO.toNat, flitN.toNat, flitT.toNat].map goodFlit =
      [false, true, true, true, true, true, true] ∧
    [flitI, flitR, flitA].map (fun f => fieldN f.toNat 122 2) = [1, 2, 0] ∧
    (let x := (onP fun x => { x with rpSeq := 4095, rpCnt := 15 }).port 0 2
     x.rpSeq = BitVec.ofNat 12 (fieldN flitR.toNat 68 12) ∧ 16 ≤ x.rpCnt + 1) ∧ ((onP id).port 0 2).rpCnt + 1 < 16 := by
  and_intros <;> decide +kernel

theorem wit_LinkPorts_order : fieldN flitO.toNat 1920 12 ≠ ((onP id).port 0 2).rxSeq.toNat ∧ fieldN flitA.toNat 1920 12 = ((onP id).port 0 2).rxSeq.toNat ∧
    ((onP fun x => { x with resync := true }).port 0 2).resync = true ∧ ((onP id).port 0 2).resync = false ∧
    heads flitA = [(3, 1, some (0, 7))] ∧ heads flitT = [(3, 1, some (15, 1))] ∧ heads flitN = [(3, 1, some (3, 0))] := by
  and_intros <;> decide +kernel

theorem wit_LinkPorts_timers : ((onP id).port 0 2).flits = [] ∧ ((onP fun x => { x with flits := [flitA] }).port 0 2).flits ≠ [] ∧
    ((onP fun x => { x with down := true }).port 0 2).retrained = false := by
  and_intros <;> decide +kernel

theorem wit_LinkPorts_message : (let m : Msg := { mkMsg 15 0 (2 ^ 46 - 1) 4095 with lines := [(1, 2), (3, 4)] }
     m.dst < 16 ∧ m.src < 16 ∧ m.hops < 8 ∧ m.txid < 4096 ∧ m.la < 2 ^ 46 ∧ m.at_ = m.src ∧ m.buf = none ∧ 2 < mopClass .datam ∧ mopClass .datam ≠ 5 ∧
       m.req = m.src ∧ m.rtx = m.txid ∧ m.toSlice = false ∧ masked .datam = true ∧ m.lines.length ≤ 2) ∧
    (mopClass .rds ≤ 2 ∧ req1.req < 16 ∧ req1.rtx < 4096 ∧ req1.arg.toNat < 2 ^ 29 ∧ masked .rds = false ∧ req1.lines.length ≤ 3) := by
  and_intros <;> decide +kernel

/-- A package whose die 0 has a port to die 1, a host port and two unconnected ports, and whose die 1 has one port to die 0. -/
def joinedDies : State := { pack with
  maq := { pack.maq with
    ndies := 2
    dies := [⟨0, 0, [⟨1, 0, 1, 0, false⟩, ⟨0, 0, 0, 0, true⟩, ⟨0, 0, 0, 0, false⟩, ⟨0, 0, 0, 0, false⟩]⟩, ⟨0, 0, [⟨1, 0, 0, 0, false⟩]⟩] }
  dies := pack.dies.modify 0 fun x => { x with
    lease := { x.lease with leader := true }
    boot := { x.boot with mode := 0, stage := 1 } } }
/-- Its ports have trained and answered. -/
def upDies : State := (joinedDies.onPort 0 0 fun x => { x with trained := true, discovered := true }).onPort 0 1 fun x => { x with trained := true }
/-- What die 1 says of itself. -/
def disc (w : Nat) : Msg := { mkMsg 0 1 0 0 with
  arg := BitVec.ofNat 46 w, lines := [(fullMask, BitVec.ofNat 512 ((Config.digest joinedDies.maqBytes).toNat % 2 ^ 64))] }

theorem fits (n j k : Nat) (h : j ≤ k) : (BitVec.ofNat k (n % 2 ^ j)).toNat % 2 ^ j = n % 2 ^ j := by
  rw [BitVec.toNat_ofNat, Nat.mod_mod_of_dvd _ (Nat.pow_dvd_pow 2 h), Nat.mod_mod]

theorem wit_StartAndRestart_ports : ((disc 65).dst = 0 ∧ ((pack.onDie 0 fun x => { x with boot := { x.boot with stage := 0 } }).die 0).boot.stage = 0) ∧
    ((joinedDies.die 0).boot.mode ≠ 2 ∧ (joinedDies.die 0).boot.stage ≠ 0 ∧ (disc 65).arg.toNat % 16 = (joinedDies.mport 0 0).pid.toNat ∧
      fieldN (disc 65).arg.toNat 4 2 = (joinedDies.mport 0 0).pport.toNat ∧ fieldN (disc 65).arg.toNat 6 2 = (joinedDies.mport 0 0).kind.toNat) ∧
    fieldN (disc 66).arg.toNat 0 4 ≠ (joinedDies.mport 0 0).pid.toNat ∧ (joinedDies.mport 0 1).host = true ∧
    ((joinedDies.mport 0 2).host = false ∧ (joinedDies.mport 0 2).kind = 0) ∧ ((joinedDies.mport 0 0).host = false ∧ (joinedDies.mport 0 0).kind ≠ 0) ∧
    joinedDies.portsUp 0 = false ∧ upDies.portsUp 0 = true ∧ (upDies.die 0).boot.mode = 0 ∧ (upDies.die 0).boot.stage = 1 ∧ 0 < upDies.dies.length ∧
    (upDies.die 0).lease.leader = true ∧ upDies.dead 0 = false ∧ 0 < upDies.maq.ndies ∧ upDies.tasks.all (fun k => k.die != 0) = true := by
  and_intros <;> decide +kernel

theorem wit_StartAndRestart_digest :
    (∃ k x r, (disc 65).lines = (k, x) :: r ∧ x.toNat % 2 ^ 64 = (Config.digest joinedDies.maqBytes).toNat % 2 ^ 64) ∧
    (¬ ∃ k x r, ({ disc 65 with lines := [] } : Msg).lines = (k, x) :: r ∧ x.toNat % 2 ^ 64 = (Config.digest joinedDies.maqBytes).toNat % 2 ^ 64) := by
  refine ⟨⟨_, _, _, rfl, fits _ 64 512 (by decide)⟩, ?_⟩
  rintro ⟨k, x, r, h, -⟩; cases h

/-- The maquette's flash says that the package has eight dies. -/
def eight : State := { pack with flash := [(0x3000004, 7)] }

/-- What verifies is a free value of Config: `ok` may be so or not. -/
theorem wit_StartAndRestart_start : 7 < pack.dies.length ∧ 1 ≤ fieldN (eight.flashN 0x3000000 64) 32 4 ∧ ¬ 7 ≤ fieldN (pack.flashN 0x3000000 64) 32 4 ∧
    (pack.die 7).boot.mode = 0 ∧ (pack.die 0).boot.mode ≠ 0 ∧
    (3 ≤ ((pack.onDie 7 fun x => { x with boot := { x.boot with att := 3 } }).die 7).boot.att.toNat ∧ (pack.die 7).boot.att.toNat < 3) ∧
    (2 ^ 24 - 1 < 2 ^ 24) ∧ eight.flash.wf = true := by
  and_intros <;> decide +kernel
/-- Two dies with regions of their own, and a lease line that is LOST. -/
def lostLease (lead : Bool) : State :=
  let s := { pack with maq := { pack.maq with ndies := 2, regions := [⟨0, 0, 0, 0, 0, false⟩, ⟨1, 1, 0, 1, 0, false⟩] } }
  (s.setJent { s.jent (s.dirDie (s.atePage 0 / 64)) (s.atePage 0 / 64) with st := .lost }).onDie 0 fun x => { x with lease := { x.lease with leader := lead } }
/-- Die 0 has read a word that is no longer the line's. -/
def stale (lead : Bool) (w : Word) : State := pack.onDie 0 fun x => { x with lease := { x.lease with leader := lead, word := w } }
/-- What decides a step of the lease of die 0: whether it leads, its line is lost, the line's word is the one read, and so are HB and EPOCH. -/
def leaseCase (s : State) : Bool × Bool × Bool × Bool :=
  let l := (s.die 0).lease
  let w := (s.die l.line).leaseLine
  (l.leader, s.lineLost (s.atePage l.line / 64) || s.cut 0 l.line || s.dead l.line, w == l.word,
    w.toNat % 2 ^ 28 == l.word.toNat % 2 ^ 28 && w.toNat / 2 ^ 32 == l.word.toNat / 2 ^ 32)

theorem wit_Lease : 0 < pack.dies.length ∧ [lostLease true, lostLease false, stale true 0, stale false 0, stale true 1, stale false 1, stale false (2 ^ 28)].map leaseCase =
      [(true, true, true, true), (false, true, true, true), (true, false, true, true), (false, false, true, true), (true, false, false, false),
        (false, false, false, false), (false, false, false, true)] ∧
    (let ok := (lostLease true).lineDies.filter fun x => x ∉ [0]
     ((ok.filter fun x => 0 < x) ++ ok).headD 0 = 1) ∧
    ((lostLease true).lineLost ((lostLease true).atePage 1 / 64) = false ∧ (lostLease true).cut 0 1 = false ∧ (lostLease true).dead 1 = false) ∧
    ((lostLease true).onDie 1 fun x => { x with failed := true }).dead 1 = true := by
  and_intros <;> decide +kernel

/-- A voted machine of die 0, changed. -/
def voting (f : Mach → Mach) : State := pack.onDie 0 fun x => { x with sch := f x.sch }
/-- Its state once a window that is over has ended: the state, the copy, and which copies' next outputs are inverted. -/
def machCase (s : State) : BitVec 2 × BitVec 2 × List Bool :=
  let x := (s.die 0).sch
  let z := if x.st = 1 ∧ x.till ≤ (s.die 0).fclk.toNat then { x with st := 0, inj := x.inj ++ x.held.map fun k => (k, x.till), held := [] } else x
  (z.st, z.copy, (rangeFrom 0 3).map fun k => z.inj.countP (fun p => p.1 == k) % 2 == 1)

theorem wit_ControlVoters : machCase (voting fun m => { m with st := 2 }) = (2, 3, [false, false, false]) ∧
    ((rangeFrom 0 3).map fun k => machCase (voting fun m => { m with st := 1, copy := BitVec.ofNat 2 k, till := 10000 })) =
      (rangeFrom 0 3).map (fun k => (1, BitVec.ofNat 2 k, [false, false, false])) ∧
    machCase (voting fun m => { m with st := 1, copy := 2, till := 10000, inj := [(0, 0)] }) = (1, 2, [true, false, false]) ∧
    machCase (voting fun m => { m with st := 1, copy := 2, till := 10000, inj := [(1, 0)] }) = (1, 2, [false, true, false]) ∧
    machCase (voting fun m => { m with st := 1, till := 0, held := [0] }) = (0, 3, [true, false, false]) ∧
    machCase (voting fun m => { m with inj := [(2, 0), (2, 5)] }) = (0, 3, [false, false, false]) ∧
    ((1 : Word) ≠ 2 ∧ (1 : Word) ≠ 3 ∧ (2 : Word) ≠ 3) ∧ (2 < 3 ∧ ¬ ((3 : Nat) < 3 ∧ (0 : Nat) < 3)) := by
  and_intros <;> decide +kernel

/-- A ring's word; a held record; a die that has tripped. -/
def ringed (w : Word) : State := pack.onDie 0 fun x => { x with monring := w, pfring := w, heat := 3, monFull := true, heldPf := [⟨⟨0, 0, 0⟩, 1, 2, 3⟩] }
/-- A ring of sixty-four records whose lines no transaction holds, and how many it holds. -/
def ringCase (s : State) : Nat × Nat × Bool :=
  let w : Word := 0x50006
  let base := fieldN w.toNat 12 40 * 4096
  let size := 2 ^ max 6 (w.toNat % 16)
  (size, (s.physRead base 8 + 2 ^ 64 - s.physRead (base + 64) 8) % 2 ^ 64,
    (rangeFrom (base / 64) ((base + 128 + 32 * size) / 64 - base / 64 + 1)).all fun l => s.homeFree l && !s.lineLost l)

theorem wit_ErrorsAndHeat_units : (let u := pack.monitor 0 0x10
      (u.thread? 1).isSome = true ∧ u.thread? 99 = none ∧ (u.jent (u.dirDie 0x404) 0x404).st ≠ .lost) ∧
    (pack.die 0).heat ≠ 3 ∧ ((ringed 0).die 0).heat = 3 ∧ (90 ≤ 90 ∧ 89 < 90) := by
  and_intros <;> decide +kernel

theorem wit_ErrorsAndHeat_rings : ringCase pack = (64, 0, true) ∧ ringCase { pack with mem := pack.mem.set 0x50000 64 } = (64, 64, true) ∧
    fieldN (0x50006 : Word).toNat 12 40 * 4096 ≠ 0 ∧ fieldN (6 : Word).toNat 12 40 * 4096 = 0 ∧ ((ringed 0x50006).die 0).monring = 0x50006 ∧
    ((ringed 0x50006).die 0).monFull = true ∧ (pack.die 0).monFull = false ∧ ((ringed 0x50006).ringPut 0x50006 5).isSome = true ∧
    ((ringed 0).ringPut 0 5).isNone = true ∧ ((ringed 0x50006).die 0).heldPf = [⟨⟨0, 0, 0⟩, 1, 2, 3⟩] ∧ (pack.die 0).heldPf = [] ∧
    (0 < pack.dies.length ∧ 2 ^ 16 - 1 < 2 ^ 16) := by
  and_intros <;> decide +kernel

/-- The thread of a task, pre-empted, with a handler at 0x20000. -/
def preempted (f : Thread → Thread) : State := handled.onCur fun t => f { t with preempt := true }
/-- Its step of the pre-emption: pre-empted, halted, in its handler or with a wait that must end. -/
def preemptCase (s : State) : Option (Bool × Bool × Bool × Bool) := (s.thread? 1).map fun x => (x.preempt, x.halted, x.handler, s.preemptWaits x)
/-- Parked on page 2 of its context. -/
def pageParked : State := solo.onCur fun t => { t with missing := [⟨0, 0, 2⟩], parked := true, parkPc := [0x10000] }
/-- The thread saved away, of a task whose record asks for nothing but one gang. -/
def away : State :=
  let r := handled.newTask 0 0 0 0 (BitVec.ofNat 2048 (1 + 2 ^ 8 + 2 ^ (8 * 76) + 2 ^ (8 * 77))) 0 true 0 .unset
  { r.1 with cur := .nobody, savedT := [{ solo.cur with resident := false, saved := true, task := r.2, allot := 32, resv := 0, resvHeld := false }] }
/-- Where the saved thread would go, once its area is there and its turn has come. -/
def awayPlace (s : State) : Option (Bool × Bool × Option (Nat × Nat)) :=
  match s.savedT.head?.bind fun x => (s.task? x.task).map fun k => (x, k) with
  | none => none
  | some (x, k) =>
    let a := s.areaTouch x 1
    let r := a.1.restoreClusters x k.image
    let q := r.1.copyRecs x (r.1.csaAddr x)
    some (s.restoreTurn x, a.2, findMap (fun c => (q.1.restoreFit x c q.2).map fun b => (c, b)) r.2)
/-- Whether the placement of the saved thread is let out, and its area is there at its new place. -/
def awayOut (s : State) : Option (Bool × Bool) :=
  match s.savedT.head?.bind fun x => (s.task? x.task).map fun k => (x, k) with
  | none => none
  | some (x, k) =>
    let r := (s.areaTouch x 1).1.restoreClusters x k.image
    let v := (r.1.copyRecs x (r.1.csaAddr x)).1.output x.loc.die 1
    some (v.2, (v.1.areaTouch { x with resident := true } 1).2)

theorem wit_SupervisorRequests_shoot : 0 < solo.dies.length ∧ solo.cur.resident = true ∧ solo.cur.loc.die = 0 ∧
    (∀ z ∈ (rangeFrom 0 pack.maq.ndies).filter (fun z => z ≠ 0 ∧ pack.dead z = false), pack.cut 0 z = false) ∧
    ((rangeFrom 0 pack.maq.ndies).filter fun z => z ≠ 0 ∧ pack.dead z = false) ≠ [] := by
  and_intros <;> decide +kernel

theorem wit_SupervisorRequests_page : pageParked.cur.resident = true ∧ (pageParked.die 0).wlk.st = 0 ∧ (pageParked.die 0).wlk.inj = [] ∧
    pageParked.cur.parked = true ∧ pageParked.cur.missing = [⟨0, 0, 2⟩] ∧ (pageParked.awaitedPages 0).any (fun p => p.pasid == 0 && p.spc == 0) = true ∧
    0 ∈ (pageParked.walkAgain 0 0).2 ∧ ((pageParked.onDie 0 fun x => { x with wlk := { x.wlk with st := 2 } }).die 0).wlk.st = 2 := by
  and_intros <;> decide +kernel

theorem wit_SupervisorRequests_preempt : solo.thread? 99 = none ∧ preemptCase solo = some (false, false, false, false) ∧
    [preempted fun t => { t with halted := true }, preempted fun t => { t with handler := true }, preempted id].map preemptCase =
      [some (true, true, false, false), some (true, false, true, false), some (true, false, false, false)] ∧
    (let u := (preempted id).focus 1
     (u.areaTouch u.cur 1).2 = true ∧ vecPc (((u.areaTouch u.cur 1).1).die 0).trapvec ≠ 0) ∧ vecPc (solo.die 0).trapvec = 0 := by
  and_intros <;> decide +kernel

theorem wit_SupervisorRequests_restore : (away.savedT.find? fun z => z.id == 99).isNone = true ∧ (away.savedT.find? fun z => z.id == 1).isSome = true ∧
    (away.die 0).dsp.st ≠ 2 ∧ awayPlace away = some (true, true, some (0, 0)) ∧ awayPlace { away with clusters := [] } = some (true, true, none) ∧
    awayOut away = some (true, true) ∧ awayOut (away.onDie 0 fun x => { x with dsp := { x.dsp with st := 2 } }) = some (false, true) ∧
    vecPc (away.die 0).trapvec ≠ 0 := by
  and_intros <;> decide +kernel
/-- Memory with lines put in. -/
def withMem (s : State) (xs : List (Nat × LineData)) : State := { s with mem := xs.foldl (fun m x => putLine m (x.1 / 64) fullMask x.2) s.mem }
/-- The first line of a control block: context record at 0x90000, ring at 0x70000, one record in it; CMPL at 0x80000. -/
def qcbLine (bits rlogn head tail : Nat) : LineData := BitVec.ofNat 512
  (2 ^ 63 + bits + rlogn * 2 ^ 53 + 0x90000 * 2 ^ 128 + 0x70000 * 2 ^ 192 + head * 2 ^ 256 + tail * 2 ^ 320 + 0x80000 * 2 ^ 448)
/-- Die 0 has a table of 64 control blocks at 0x60000 whose first is queue 0 of the supervisor's context, with a record. -/
def queueOf (q : LineData) (im : Nat) : State := withMem (solo.onDie 0 fun x => { x with svcring := 0x50000 })
  [(0x50000, BitVec.ofNat 512 (0x60006 * 2 ^ 64)), (0x60000, q), (0x70000, BitVec.ofNat 512 im), (0x70040, BitVec.ofNat 512 (im / 2 ^ 512)),
    (0x70080, BitVec.ofNat 512 (im / 2 ^ 1024)), (0x700C0, BitVec.ofNat 512 (im / 2 ^ 1536))]
def queueS (im : Nat) : State := queueOf (qcbLine 0 4 0 1) im
/-- A spawn record of one gang of one slice and 32 registers. -/
def spawnIm : Nat := 1 + 2 ^ 8 + 2 ^ (8 * 72) + 2 ^ (8 * 76) + 2 ^ (8 * 77)
/-- What the next record of queue 0 is, and the state after. -/
def nrOf (s : State) : State × NextRec := (s.freshQueue 0 0 0).nextRec 0 0 0
/-- The image, when one is read, as an outcome in numbers: 0 none, 1 bad, 2 perm, 3 absent, 4 a record. -/
def nrKind (s : State) : Nat := match (nrOf s).2 with
  | .none => 0
  | .bad _ => 1
  | .perm _ => 2
  | .absent _ => 3
  | .ok _ im => 4 + recF im 0 1
/-- A list of two records, at page 1 or at a page not present. -/
def listed (a : Nat) (s : State) : State := s.setQueue { s.queue 0 0 0 with lists := [(BitVec.ofNat 64 a, 2, 0)] }
/-- Page 1 of the supervisor's context as the walker finds it, which may be read or not. -/
def ptPage (s : State) (r : Nat) : State :=
  withMem (s.onDie 0 fun x => { x with ptb0 := 0x2000A }) [(0x20000, BitVec.ofNat 512 (2 ^ 63 + (7 + 2 ^ 36 + r * 2 ^ 37 + 2 ^ 38) * 2 ^ (64 + 56)))]

/-- The scheduler's voter lets nothing out: its two copies that agree no longer do. -/
def mute (s : State) : State := s.onDie 0 fun x => { x with sch := { x.sch with st := 1, copy := 0, till := 100, inj := [(1, 0)] } }
/-- Whether the scheduler's next output is let out once the record is read. -/
def letOut (s : State) : Bool := ((nrOf s).1.output 0 0).2
/-- The kind of the queue's next record when the step of a record looks again. -/
def againKind (s : State) : Nat := nrKind (nrOf s).1
/-- Lines that no transaction, copy or mirror holds. -/
def plainLines (s : State) (a n : Nat) : Bool := (rangeFrom (a / 64) n).all fun l =>
  s.homeFree l && !s.lineLost l && (s.clines.all fun z => z.la != l) && s.mirrors.all fun z => z.la != l
/-- The context record of queue 0 names barriers at 0x10000. -/
def ctxd (s : State) (base : Nat) : State := withMem s [(0x90000, BitVec.ofNat 512 base)]
/-- A copy task's record, a barrier wait's on barrier `k`, and a list's. -/
def copyIm : Nat := 2 + 7 * 2 ^ 8
def waitIm (k : Nat) : Nat := 3 + k * 2 ^ 128
def listIm : Nat := 4 + 0x10000 * 2 ^ 128 + 2 * 2 ^ 192
/-- The context record as the queue reads it, and the open lists then. -/
def ctxOf (s : State) : Option (Ctx × BitVec 3) := (nrOf s).1.ctxRec (s.qcb 0x60000)

theorem wit_QueueRecords_ring : (let w := queueS spawnIm
      (w.queue 0 0 0).lists = [] ∧ w.schedQueue 0 0 0 = some (w.qcb 0x60000) ∧ (w.qcb 0x60000).halt = false ∧ (w.die 0).sch.st ≠ 2 ∧
        (w.qcb 0x60000).bad = false ∧ (w.qcb 0x60000).tail ≠ (w.qcb 0x60000).head ∧ (w.queue 0 0 0).page = none ∧ w.tasks = []) ∧
    nrKind solo = 0 ∧ nrKind (queueS spawnIm) = 5 ∧ nrKind (listed 0x10000 (ptPage (queueS 0) 0)) = 2 ∧ nrKind (listed 0 (queueS 0)) = 3 ∧
    nrKind (queueOf (qcbLine 0 17 0 1) 0) = 1 ∧
    againKind solo = 0 ∧ againKind (queueS spawnIm) = 5 ∧ againKind (queueS 5) = 9 ∧ againKind (queueS 0) = 4 ∧ againKind (listed 0x10000 (ptPage (queueS 0) 0)) = 2 ∧
    againKind (listed 0 (queueS 0)) = 3 ∧ letOut (queueS spawnIm) = true ∧ letOut (mute (queueS spawnIm)) = false ∧
    letOut (listed 0x10000 (ptPage (queueS 0) 0)) = true ∧ letOut (queueOf (qcbLine 0 17 0 1) 0) = true := by
  and_intros <;> decide +kernel
theorem wit_QueueRecords_kinds : nrKind (queueS 0) = 4 ∧ nrKind (queueS 5) = 9 ∧ nrKind (queueS copyIm) = 6 ∧ nrKind (queueS (waitIm 0)) = 7 ∧
    nrKind (queueS listIm) = 8 ∧
    (let im := BitVec.ofNat 2048 spawnIm
     let s := ((queueS spawnIm).newTask 0 0 0 0 im 0 true 0 .unset).1
     (s.tasks.find? fun t => t.bySpawn && t.st == .accepted && t.die == 0 && t.qpasid == 0 && t.qn == 0 && t.pos == 0).isSome = true ∧ nrKind s = 5 ∧
     (queueS spawnIm).tasks = [] ∧ spawnStatus im 0 true = 0 ∧ (queueS spawnIm).progressOk 0 im 0 = true) ∧
    spawnStatus (BitVec.ofNat 2048 1) 0 true ≠ 0 ∧
    (let im := BitVec.ofNat 2048 (spawnIm + 2 * 2 ^ 16)
     let s := { queueS (spawnIm + 2 * 2 ^ 16) with clusters := [] }
     nrKind s = 5 ∧ spawnStatus im 0 true = 0 ∧ s.progressOk 0 im 0 = false) ∧
    (let f := fun (im a n : Nat) => fieldN im (8 * a) (8 * n)
     (f copyIm 1 1 ≤ 7 ∧ f copyIm 2 10 = 0 ∧ f copyIm 24 40 = 0 ∧ f copyIm 224 32 = 0) ∧ ¬ f (copyIm + 2 ^ 8) 1 1 ≤ 7 ∧
       (f (waitIm 0) 1 15 = 0 ∧ f (waitIm 0) 24 232 = 0) ∧ f (waitIm 0 + 2 ^ 8) 1 15 ≠ 0 ∧
       (f listIm 1 11 = 0 ∧ f listIm 28 100 = 0 ∧ f listIm 224 32 = 0 ∧ f listIm 24 4 = 2 ∧ f listIm 16 8 = 0x10000)) ∧
    ctxOf (queueS copyIm) = some (⟨0, 0, 0, 0, 0⟩, 0) ∧ ctxOf (withMem (queueS copyIm) [(0x90000, BitVec.ofNat 512 (5 * 2 ^ 192))]) = none ∧
    (2 ^ cbLogn 0 ≤ (2 ^ cbLogn 0 : Nat) ∧ 0 < 2 ^ cbLogn 0) ∧
    (let q := { (queueS listIm).queue 0 0 0 with lists := [(0x20000, 2, 0), (0x30000, 2, 0), (0x40000, 2, 0), (0x10000, 2, 0)] }
     4 ≤ q.lists.length ∧ ∃ l ∈ q.lists, l.1.toNat = 0x10000) ∧ ∀ l ∈ ((queueS listIm).queue 0 0 0).lists, l.1.toNat ≠ 0x10000 := by
  and_intros <;> decide +kernel

/-- The state with a task of a record, changed; its handle is 1. -/
def tasked (im : Nat) (f : Task → Task) : State :=
  let r := (queueS 0).newTask 0 0 0 0 (BitVec.ofNat 2048 im) 0 true 0 .unset
  r.1.onTask r.2 f
/-- A barrier wait whose barrier's pages a scheduler's TLB holds. -/
def waiting (flips : Nat) (err : Nat) : State :=
  let s := tasked (3 + flips * 2 ^ 160) fun t => { t with st := .window, ctx := { t.ctx with cbarBase := 0x10001 } }
  { withMem s [(0x10000, BitVec.ofNat 512 (err * 2 ^ 62))] with
    tlb := [(10015, fetchTlb), (10015, { fetchTlb with page := 0x201, ent := fetchTlb.ent + 0x200 })] }
def barOf (s : State) : State × BarAt := s.barrier 0 10015 0 true 0x10001 0 .load
/-- What the barrier's place reads as: flips and error, or none. -/
def barKind (s : State) : Option (Nat × Bool) := match barOf s with
  | (u, .ok o _) => some ((u.cbar o).flips, (u.cbar o).err)
  | _ => none

theorem wit_QueueRecords_tasks :
    (let s := tasked copyIm fun t => { t with st := .ready }
     (s.tasks.find? fun t => t.die == 0 && t.qpasid == 0 && t.qn == 0 && t.kind == 2 && t.st == .ready).isSome = true ∧
       s.leastBusy 0 7 (s.liveClusters 0) = some 0 ∧ s.chanFull 0 0 7 = false) ∧
    (let s := (tasked copyIm fun t => { t with st := .ready }).setChan ⟨0, 0, 7, List.replicate 16 cmd1, none, none, []⟩
     s.leastBusy 0 7 (s.liveClusters 0) = some 0 ∧ s.chanFull 0 0 7 = true) ∧
    ((solo.qcb 0x60000).halt = false ∧ ((queueOf (qcbLine (2 ^ 62) 4 0 1) 0).qcb 0x60000).halt = true ∧ 0x60000 % 64 = 0 ∧
      ((queueS 0).qcb 0x60000).cmpl / 64 ≠ 0x60000 / 64 ∧ (((queueS 0).qcb 0x60000).cmpl + 64) / 64 ≠ 0x60000 / 64 ∧
      fieldN (solo.die 0).monring.toNat 12 40 = 0 ∧ (queueS 0).clines = []) ∧
    (let s := tasked (waitIm 0) id
     s.task? 1 = s.tasks.head? ∧ (s.tasks.countP fun t => t.h == 1) = 1 ∧ s.tasks.any (fun t => t.kind == 3) = true) ∧
    (let s := tasked spawnIm id
     s.tasks.any (fun k => k.kind != 3 && k.xout == 0 && !s.tasks.any fun t => t.inWin) = true ∧ (s.output 0 0).2 = true) ∧
    solo.task? 1 = none ∧ (tasked spawnIm id).tasks.any (fun k => k.kind != 3 && k.h == 1) = true ∧
    barKind (waiting 0 0) = some (0, false) ∧ (waiting 0 0).tasks.all (fun k => k.kind == 3 && k.st == .window && k.page.isNone && k.ended == 0) = true ∧
    recF (BitVec.ofNat 2048 (3 + 0 * 2 ^ 160)) 20 4 = 0 ∧ recF (BitVec.ofNat 2048 (3 + 9 * 2 ^ 160)) 20 4 ≠ 0 ∧ barKind (waiting 9 1) = some (0, true) ∧
    (match (barOf { waiting 0 0 with tlb := [] }).2 with | .absent _ => true | _ => false) = true ∧
    (match (barOf (ptPage { waiting 0 0 with tlb := [] } 0)).2 with | .perm => true | _ => false) = true ∧
    ((tasked spawnIm fun t => { t with st := .placed, ended := 1 }).tasks.all fun k => k.kind == 1 && k.st == .placed && k.ended == recThreads k.image) = true ∧
    ((tasked copyIm fun t => { t with st := .placed, ended := 1 }).tasks.all fun k => k.kind == 2 && k.st == .placed && k.ended == 1) = true ∧
    ((tasked (waitIm 0) fun t => { t with st := .window, ended := 1 }).tasks.all fun k => k.kind == 3 && k.st == .window && k.ended == 1 && k.preds == []) = true ∧
    plainLines (queueS 0) 0x80000 2 = true ∧ ((queueS 0).qcb 0x60000).cmpl % 128 = 0 ∧ ((queueS 0).qcb 0x60000).cmpl < 2 ^ 52 := by
  and_intros <;> decide +kernel

/-- The record that `spawn` reads through s1. -/
def spawnS (im : Nat) : State := withMem (queueS 0) [(0x10100, BitVec.ofNat 512 im), (0x10140, BitVec.ofNat 512 (im / 2 ^ 512))]
def spR : M (List Pc × List (Nat × Page × Nat)) := resolve .load 0 0 64 [(0, 0x10100, 256)] (fun _ => true) (fun y => spaceOf y == 0)
/-- The record read, its submission, and what a release leaves then. -/
def spXs (s : State) : List (Pc × Option Nat) := got (readPcs (got spR s).1) (after spR s)
def spSub (im : Nat) : State × Nat × Option Qcb :=
  let s := after (readPcs (got spR (spawnS im)).1) (after spR (spawnS im))
  s.submit 0 (BitVec.ofNat 2048 (laneVal (spXs (spawnS im)) 0)) 0 true 0

theorem wit_QueueRecords_calls :
    ((queueS 0).Acts false noGd ∧ rPois (queueS 0) 1 = false ∧ ctlPois (queueS 0) (.imm 0) = false ∧ isOk (release 2) (queueS 0) = true ∧
      (after (release 2) (queueS 0)).cur.regs = (queueS 0).cur.regs ∧ (after (release 2) (queueS 0)).cur.sleep = none) ∧
    (plainLines (after (release 2) (queueS 0)) 0x50000 131 = true ∧ solo.Acts false noGd ∧ isOk (release 2) solo = true ∧ fieldN (solo.die 0).svcring.toNat 12 40 = 0) ∧
    ((after (release 2) (queueS 0)).physRead 0x50000 8 + 2 ^ 64 - (after (release 2) (queueS 0)).physRead 0x50040 8) % 2 ^ 64 < 16 ∧
    ((spawnS spawnIm).Acts false noGd ∧ (rVal (spawnS spawnIm) 1).toNat = 0x10100 ∧ isOk spR (spawnS spawnIm) = true ∧ (got spR (spawnS spawnIm)).2 = [] ∧
      isOk (watchTrap false [(0, 0x10100, 256)]) (after spR (spawnS spawnIm)) = true ∧
      isOk (readPcs (got spR (spawnS spawnIm)).1) (after spR (spawnS spawnIm)) = true ∧ ((spXs (spawnS spawnIm)).any fun y => y.2.isNone) = false) ∧
    ((spSub spawnIm).2.2.isSome = true ∧ isOk (release 3) (spSub spawnIm).1 = true ∧ (after (release 3) (spSub spawnIm).1).cur.sleep = none) ∧
    ((spSub 0).2.2 = none ∧ (spSub 0).2.1 = 1) ∧
    (let im := BitVec.ofNat 2048 (spawnIm + 9 * 2 ^ 64)
     spawnStatus im 7 false = 2 ∧ recF im 8 4 ≠ 0 ∧ recF im 8 4 ≠ 7) ∧ recBad (BitVec.ofNat 2048 spawnIm) = false :=
  ⟨⟨by unfold State.Acts State.Clear; decide +kernel, by and_intros <;> decide +kernel⟩,
    ⟨by decide +kernel, solo_acts false, by and_intros <;> decide +kernel⟩, by decide +kernel,
    ⟨by unfold State.Acts State.Clear; decide +kernel, by and_intros <;> decide +kernel⟩,
    by and_intros <;> decide +kernel⟩
/-- A task of a record, ready to be placed. -/
def readyT (im : Nat) : State := (tasked im fun t => { t with st := .ready }).onDie 0 fun x => { x with trapvec := 0 }
def rIm (im : Nat) : BitVec 2048 := BitVec.ofNat 2048 im
/-- The candidates of the supervisor's context. -/
def cands (im : Nat) : State × List Nat := (readyT im).candidates 0 (rIm im) 0
/-- What a thread 1 and a thread 2 that has waited long look like. -/
def two (f : Thread → Thread) : State := { solo.onDie 0 (fun x => { x with aclk := 300 }) with
  others := [f { solo.cur with id := 2, loc := { solo.cur.loc with slot := 1 }, act := false, rdy := true, readySince := 0 }] }
/-- Nine gangs, eight of them active. -/
def nine : State := { two id with others := (two id).others ++ (rangeFrom 3 7).map fun i =>
  { solo.cur with id := i, loc := { solo.cur.loc with slot := i }, act := true, actSince := i, rdy := true, readySince := 299 } }
def dueIn (s : State) (t : Thread) : Bool := !t.act && !t.arm && t.rdy && decide (t.readySince + 256 ≤ (s.die t.loc.die).aclk.toNat)

/-- A thread that waits for its restore since before the task became ready. -/
def savedFirst : State := { (readyT spawnIm).onTask 1 (fun t => { t with readySeq := 1 }) with savedT := [{ solo.cur with id := 9, resident := false, saved := true }] }
/-- A task whose armature is placed, and whose threads must stand together. -/
def together : State := (readyT (spawnIm + 2 ^ 40 + 2 ^ 16)).onTask 1 fun t => { t with placed := [0] }

theorem wit_PlacementAndIssue_held : (readyT spawnIm).oldestReady 0 ≠ none ∧ (readyT spawnIm).firstSaved 0 = none ∧ ((readyT spawnIm).die 0).boot.mode ≠ 2 ∧
    (((readyT spawnIm).onDie 0 fun x => { x with boot := { x.boot with mode := 2 } }).die 0).boot.mode = 2 ∧
    ((savedFirst.oldestReady 0).bind fun t => (savedFirst.firstSaved 0).map fun z => decide (z.readySince < t.readySeq)) = some true ∧
    ((together.oldestReady 0).any fun k => recCluster k.image && !k.placed.isEmpty && recArm k.image) = true := by
  and_intros <;> decide +kernel
theorem wit_PlacementAndIssue_place : (solo.oldestReady 0 = none ∧ ((solo.onDie 0 fun x => { x with dsp := { x.dsp with st := 2 } }).die 0).dsp.st = 2) ∧
    ((readyT spawnIm).die 0).dsp.st ≠ 2 ∧ ((readyT spawnIm).oldestReady 0).any (fun k => k.placed == [] && k.image == rIm spawnIm) = true ∧
    (cands spawnIm).2 = [0] ∧ ({ readyT spawnIm with clusters := [] }.candidates 0 (rIm spawnIm) 0).2 = [] ∧
    recF (rIm spawnIm) 2 1 ≠ 2 ∧ recF (rIm (spawnIm + 2 * 2 ^ 16)) 2 1 = 2 ∧
    (cands (spawnIm + 2 * 2 ^ 16)).1.csaRoom 0 < recThreads (rIm (spawnIm + 2 * 2 ^ 16)) ∧
    ((cands spawnIm).1.tasks.head?.any fun k => (cands spawnIm).1.placeOne k [0] == none) = true ∧ recThreads (rIm spawnIm) = 1 ∧
    (let s := { (cands spawnIm).1 with ctxs := [(0, { Ctx.unset with csaBase := 3 })] }
     let r := s.output 0 1
     r.2 = true ∧ (r.1.tasks.head?.any fun k => s.placeOne k [0] != none && r.1.placeOne k [0] != none && k.placed == []) = true ∧
       (r.1.freeCsa 0).isSome = true ∧ recArm (rIm spawnIm) = false ∧ (recGangs (rIm spawnIm))[0]? = some (false, 0) ∧
       (seek (r.1.occ 0) [0] false (recRole (rIm spawnIm) false) 0).isSome = true) ∧
    recArm (rIm (spawnIm + 2 ^ 40)) = true ∧
    ((fitPart (solo.occ 0) 0 0 0 false (recRole (rIm spawnIm) false)).isSome = false ∧
      (fitPart (solo.occ 0) 0 0 1 false (recRole (rIm spawnIm) false)).isSome = true ∧
      (fitPart (solo.occ 0) 0 0 1 true (recRole (rIm spawnIm) false)).any (fun o => o.rbase == 992) = true) := by
  and_intros <;> decide +kernel
theorem wit_PlacementAndIssue_issue :
    solo.thread? 99 = none ∧ (solo.thread? 1).any (fun x => x.slices.any fun c => c.live != 0) = true ∧
    (let s := soloWith fun c => { c with live := 0, active := 0 }
     (s.thread? 1).any (fun x => x.slices.all (fun c => c.live == 0) && x.cntCp == 0 && x.cntMx == 0 && x.outs == [] && !x.saved) = true ∧
       ((s.releaseAct 0 0 3 0).settle settleBound).unperformed 0 = false ∧
       (({ s with sdir := [⟨0, 0x404, [], .i, false, some (req5 .atu), []⟩] }.releaseAct 0 0 3 0).settle settleBound).unperformed 0 = true ∧ (s.threads.countP fun z => z.id == 1) = 1) ∧
    (let s := (soloWith fun c => { c with live := 0, active := 0 }).onCur fun t => { t with saved := true }
     (s.thread? 1).any (fun x => x.saved && x.slices.all fun c => c.live == 0) = true) ∧
    (solo.threads.map fun t => t.id).Nodup ∧ ((two id).threads.map fun t => t.id).Nodup ∧ (nine.threads.map fun t => t.id).Nodup ∧
    solo.winner = some solo.cur ∧ (soloWith fun c => { c with wait := .sleep }).winner = none ∧
    (solo.lookReady.threads.all fun t => !dueIn solo t) = true ∧
    ((two id).lookReady.threads.filter (dueIn (two id))).map (fun t => t.id) = [2] ∧
    (nine.lookReady.threads.filter (dueIn nine)).map (fun t => t.id) = [2] ∧
    ((two id).lookReady.threads.filter fun z => z.act).length = 1 ∧ (nine.lookReady.threads.filter fun z => z.act).length = 8 := by
  and_intros <;> decide +kernel

/-- The thread at a word that decodes, at one that does not, at a page that is not present, and one that is not ready. -/
def atWord (w : Nat) : State := State.reset.layFetch false w

theorem wit_StepRunsDecoded : gang.agenda = [] ∧ ({ gang with agenda := [.issueSelect] }.agenda = .issueSelect :: []) ∧ gang.phase = .issue ∧
    ({ gang with phase := .engine }.phase = .engine) ∧ ({ gang with phase := .select }.phase = .select) ∧ gang.curReady = true ∧ gang.stepDue = false ∧
    (gang.onCur fun t => { t with halted := true }).curReady = false ∧
    ((gang.onCur fun t => { t with slices := t.slices.map fun c => { c with wait := .step } }).stepDue = true) ∧
    (match ({ gang with phase := .engine }).fetchUnit with
      | (u, .unit w0 w1) => decodeUnit u.cur.dctx w0 w1 == .ok (.nop noGd)
      | _ => false) = true ∧
    (match (atWord 0x0F00000000000000).fetchUnit with
      | (u, .unit w0 w1) => decodeUnit u.cur.dctx w0 w1 == .error .illOpc
      | _ => false) = true ∧
    (match ({ gang with tlb := [] }).fetchUnit with
      | (_, .stop _) => true
      | _ => false) = true ∧
    (let p := gang.cur.pcOf 0
     (match gang.fetchWord p p with | (_, .ok w0) => unitBytes w0 == 8 | _ => false) = true ∧
     (match (atWord (0x80 * 2 ^ 56)).fetchWord p p with
       | (u, .ok w0) => unitBytes w0 == 16 && (match u.fetchWord p (p + 8) with | (_, .ok _) => true | _ => false)
       | _ => false) = true) ∧
    (spaceOf 0x10000 = 0 ∧ fieldN 0x10000 57 3 = 0 ∧
      (gang.tlb.find? fun y => y.1 == tlbKey gang.cur && y.2.serves gang gang.cur.tpasid.toNat 0 0x10000 gang.cur.super .fetch) = some (tlbKey gang.cur, fetchTlb) ∧
      (gang.jent (gang.dirDie 0x400) 0x400).st ≠ .lost ∧ gang.home 0x400 = .dev gang.cur.loc.die ∧ gang.dead gang.cur.loc.die = false ∧
      (gang.sent 0 0x400).exp = false ∧ entTrk fetchTlb.ent = false ∧ entPol fetchTlb.ent ≤ 1 ∧ (∀ y ∈ gang.hws, y.la ≠ 0x400) ∧ (∀ y ∈ gang.mirrors, y.la ≠ 0x400) ∧
      (∀ y ∈ gang.clines, y.la ≠ 0x400) ∧ (∀ y ∈ gang.ilines, y.la ≠ 0x400) ∧ entPa fetchTlb.ent 0 0x10000 % 8 = 0) := by
  and_intros <;> decide +kernel

theorem wit_EncodeDecode : DCtx.full.ok = true ∧ DCtx.armature.ok = true ∧ (⟨false, 32, 0, 4⟩ : DCtx).ok = true ∧
    (Instr.iadd ⟨15, true, true⟩ 1023 1022 (.imm 0xFFFFF) 0 0 0).wf .full = false ∧ (Instr.iadd ⟨15, true, false⟩ 1023 1022 (.imm 0xFFFFF) 0 0 0).wf .full = true ∧
    decodeUnit .full 0x8048D159E26AF000 0x1C80020000000310 = .ok (.movi plain 2 (.i48 0x123456789ABC) 1) := by
  and_intros <;> decide +kernel

theorem wit_ResetValues : (7 : Nat) < 8 ∧ (3 : Nat) < 4 := by decide

theorem wit_EveryStepKeepsMemoryCanonical : solo.mem.wf = true ∧ ∃ t, step solo = .next t := by
  refine ⟨by decide +kernel, ?_⟩
  obtain ⟨t, h, -⟩ := nextIs_spec (o := step solo) (P := fun _ => true) (by decide +kernel)
  exact ⟨t, h⟩

/-! ### Decoding: words written from the encodings of the manual -/

/-- The head of a word in the U form. -/
def uni : Hd := ⟨0, false, true⟩
/-- A full word from its fields (R134): OPC, PRD, PNG, DST, SA, SB, SC, SHAPE, MOD. -/
def fw (opc prd png dst sa sb sc shape mod : Nat) : Nat :=
  opc * 2 ^ 55 + prd * 2 ^ 51 + png * 2 ^ 50 + dst * 2 ^ 40 + sa * 2 ^ 30 + sb * 2 ^ 20 + sc * 2 ^ 10 + shape * 2 ^ 8 + mod
/-- A slot of a pair word (R143): POP, PPRD, PDST, PSRC, PMOD. -/
def sw (pop prd d s m : Nat) : Nat := pop * 2 ^ 25 + prd * 2 ^ 22 + d * 2 ^ 14 + s * 2 ^ 6 + m
/-- A pair word. -/
def pw (a b : Nat) : Nat := 2 ^ 62 + a * 2 ^ 31 + b
/-- Every word of a list decodes to the instruction beside it. -/
def reads (c : DCtx) (xs : List (Nat × Instr)) : Bool := xs.all fun x => decide (decodeUnit c (BitVec.ofNat 64 x.1) 0 = .ok x.2)
/-- Every unit is refused as said. -/
def traps (c : DCtx) (xs : List (Nat × Nat × DecTrap)) : Bool :=
  xs.all fun x => decide (decodeUnit c (BitVec.ofNat 64 x.1) (BitVec.ofNat 64 x.2.1) = .error x.2.2)

/-- The words that the manual works out: R201, R213, R217 and the ends of spec/08, spec/10, spec/15 and spec/19. -/
theorem test_decode_worked : reads .full [
    (0x1000040000200029, .iadd plain 4 0 (.reg 2) 1 1 1), (0x2980140180702040, .fdot2 plain 20 6 (.reg 7) 8 0),
    (0x2C00020040000012, .cvt plain 2 1 2 2),
    (0x320008010092202A, .ld noGd 8 4 (.idx 9) 1 0 false 1 0x0A none), (0x32800C0084000010, .st noGd 12 2 (.off 64) 0 0 0 0 0x10 none),
    (0x340014018154A066, .atom noGd 20 6 (.idx 21) 2 2 3 0x06 none), (0x3B80040200B04410, .mma 4 8 11 0 false false 17 0 false 0x10),
    (0x0088000000000F00, .bra ⟨1, false⟩ 0 0 (.i20 3)), (0x0300000000001700, .mark 0 (.i20 5)), (0x09000A0100000F00, .spawn 10 4 (.imm 3)),
    (0x0B00070000000300, .csrr 7 (.i20 0)), (0x0C00030140000B00, .nw 3 5 (.imm 2) false false), (0x0280000000000000, .exit noGd),
    (0x0C80060000000000, .nrPeek 6 0), (0x330007018000000B, .sld 7 6 (.off 0) 0 0 false 0 0x0B none), (0x10000801C0000780, .iadd ⟨0, false, true⟩ 8 7 (.imm 1) 0 0 0),
    (0x338008018080000B, .sst 8 6 (.off 8) 0 0 0 0x0B none)] = true := by decide +kernel

/-- Control, synchronisation, system, niches (R329). -/
theorem test_decode_control : reads .full [
    (fw 0x00 15 1 0 0 0 0 0 0, .nop ⟨15, true⟩), (fw 0x01 2 1 0 5 1023 1022 3 1, .bra ⟨2, true⟩ 1 5 (.i20 0xFFFFE)),
    (fw 0x02 0 0 0 0 6 0 0 0, .bri noGd false 6), (fw 0x02 0 0 0 0 6 0 1 0, .bri noGd true 6), (fw 0x03 0 0 1 0 9 0 1 0, .call 1 (.sreg 9)),
    (fw 0x04 0 0 0 63 0 0 0 0, .ret 63), (fw 0x05 1 0 0 0 0 0 0 0, .exit ⟨1, false⟩), (fw 0x06 0 0 0 0 0 5 3 2, .mark 2 (.i20 5)), (fw 0x07 0 0 0 0 0 0 0 0, .merge),
    (fw 0x08 3 0 0 0 0 0 0 0, .brk ⟨3, false⟩), (fw 0x09 3 1 0 0 0 0 0 0, .cont ⟨3, true⟩), (fw 0x0A 0 0 0 0 0 0 0 0, .regang),
    (fw 0x0B 1 0 7 0 9 0 0 0, .join ⟨1, false⟩ 7 (.reg 9)), (fw 0x0C 0 0 0 0 4 0 1 0, .leave noGd (.sreg 4)),
    (fw 0x0D 0 0 8 0 4 11 1 0xD4, .bar noGd 8 (.sreg 4) true 5 1 11), (fw 0x0E 1 0 15 0 0 0 0 0, .elect ⟨1, false⟩ 15),
    (fw 0x0F 0 0 0 0 0 3 3 0, .trapUser noGd (.i20 3)), (fw 0x0F 0 0 0 0 0 3 3 1, .trapBkpt noGd (.i20 3)), (fw 0x10 0 0 0 5 0 0 0 1, .rett 5 true),
    (fw 0x11 0 0 1 6 2 3 1 0, .svc noGd 1 6 (.sreg 2) 3), (fw 0x12 0 0 1 2 3 0 1 0, .spawn 1 2 (.sreg 3)), (fw 0x13 0 0 0 4 0 0 0 0, .mwatch 4),
    (fw 0x14 0 0 4 0 0 100 3 0, .msleep 4 (.imm 100)), (fw 0x15 0 0 0 0 7 0 1 0, .pause (.sreg 7)), (fw 0x16 0 0 4 0 0 0x33 3 0, .csrr 4 (.i20 0x33)),
    (fw 0x17 0 0 0 4 0 0x33 3 0, .csrw 4 (.i20 0x33)), (fw 0x18 0 0 3 8 5 0 1 3, .nw 3 8 (.sreg 5) true true), (fw 0x19 0 0 3 9 0 0 0 0, .nrPeek 3 9),
    (fw 0x19 0 0 3 9 0 0 0 1, .nrTake 3 9), (fw 0x1A 1 0 3 9 0 0 0 0x44, .nred ⟨1, false⟩ 3 9 2 1), (fw 0x1B 0 0 3 0 5 0 1 0x0A, .nctlGather 3 (.sreg 5) 1 2),
    (fw 0x1B 0 0 3 0 0 0 3 0x40, .nctlBcast 3 (.imm 0)), (fw 0x1B 0 0 3 0 0 0 3 0x80, .nctlEmpty 3 (.imm 0))] = true := by decide +kernel
/-- The two opcodes of the armature core alone, and what it reads x registers for (R152, R329). -/
theorem test_decode_armature : reads .armature [(fw 0x1C 0 0 3 0 5 0 0 0, .hsr 3 (.reg 5)), (fw 0x1D 0 0 0 3 0 2 3 0, .hsw 3 (.imm 2)),
    (fw 0x03 0 0 1 0 9 0 0 0, .call 1 (.reg 9)), (fw 0x20 0 0 1 2 3 0 0 0x40, .iadd plain 1 2 (.reg 3) 2 0 0)] = true ∧
    traps .armature [(fw 0x06 0 0 0 0 0 5 3 0, 0, .illOpc), (fw 0x20 0 0 1 2 3 0 1 0, 0, .illEnc), (fw 0x20 0 0 1 2 3 0 0 0x80, 0, .illEnc),
      (fw 0x3A 0 0 1 2 3 0 0 0x80, 0, .illOpc)] = true := by decide +kernel

/-- Integer and bit (R199). -/
theorem test_decode_integer : reads .full [
    (fw 0x20 1 1 3 4 5 0 2 0x33, .iadd ⟨1, true, false⟩ 3 4 (.nic 5) 1 2 3) , (fw 0x21 0 0 3 4 5 0 0 0x17, .isub plain 3 4 (.reg 5) 0 2 7),
    (fw 0x22 0 0 4 5 6 0 0 0x30, .imul plain 4 5 (.reg 6) 1 2), (fw 0x23 0 0 4 5 6 7 0 0x08, .imad plain 4 5 (.reg 6) 7 0 1),
    (fw 0x24 0 0 4 5 6 0 0 0x10, .idiv plain 4 5 (.reg 6) 0 true), (fw 0x25 0 0 4 5 6 0 0 0x20, .imin plain 4 5 (.reg 6) 1),
    (fw 0x26 0 0 4 5 6 0 1 0x00, .imax plain 4 5 (.sreg 6) 0), (fw 0x27 0 0 4 5 0 0 0 0x10, .iabs plain 4 5 0 true),
    (fw 0x28 0 0 5 7 0 0 0 0xC0, .ineg uni 5 7 2 false), (fw 0x29 0 0 15 5 6 0 0 0x34, .icmp plain 15 5 (.reg 6) 1 5),
    (fw 0x2A 0 0 4 5 6 7 0 0x50, .idp4 plain 4 5 (.reg 6) 7 2 true), (fw 0x2B 0 0 5 7 1 0 0 0xDF, .lea uni 5 7 (.reg 1) 2 31),
    (fw 0x2C 0 0 4 5 0 1 3 0, .and plain 4 5 (.imm 1) 0), (fw 0x2D 0 0 5 7 9 0 0 0xC0, .or uni 5 7 (.reg 9) 2), (fw 0x2E 0 0 4 5 8 0 0 0, .xor plain 4 5 (.reg 8) 0),
    (fw 0x2F 0 0 4 5 0 0 0 0, .not plain 4 5 0), (fw 0x30 0 0 4 5 0 31 3 0, .shl plain 4 5 (.imm 31) 0), (fw 0x31 0 0 4 5 0 31 3 0x10, .shr plain 4 5 (.imm 31) 0 true),
    (fw 0x32 0 0 4 5 6 0 1 0, .rot plain 4 5 (.sreg 6) 0), (fw 0x33 0 0 4 5 6 7 0 0x10, .bfe plain 4 5 (.reg 6) 7 0 true),
    (fw 0x34 0 0 4 5 6 7 0 0, .bfi plain 4 5 (.reg 6) 7 0), (fw 0x35 0 0 5 7 0 0 0 0xC0, .bfrev uni 5 7 2), (fw 0x36 0 0 4 5 0 0 0 0x10, .bcnt plain 4 5 0 2),
    (fw 0x37 0 0 4 5 6 7 0 0x70, .sad plain 4 5 (.reg 6) 7 3 true)] = true := by decide +kernel
/-- Moves and predicates (R205 to R208). -/
theorem test_decode_moves : reads .full [
    (fw 0x38 0 0 4 0 6 0 0 0x40, .mov plain 4 (.reg 6) 2), (fw 0x39 0 0 4 0 1023 1023 3 0x10, .movi plain 4 (.i20 0xFFFFF) 1),
    (fw 0x3A 1 0 4 5 6 15 0 0, .sel ⟨1, false⟩ 4 5 (.reg 6) 15), (fw 0x3B 0 0 4 5 0 0 0 0x0F, .movx noGd 4 5 15), (fw 0x3C 0 0 1 2 3 0 0 0x6, .plog noGd 1 2 3 6),
    (fw 0x3D 0 0 4 5 0 0 0 2, .pmov noGd 4 5 2), (fw 0x3E 0 0 4 0 0 0 0 10, .sreg noGd 4 10)] = true := by decide +kernel
/-- Floating point and conversions (R209, R215 to R217). -/
theorem test_decode_float : reads .full [
    (fw 0x40 0 0 4 5 6 0 0 0x08, .fadd plain 4 5 (.reg 6) false 1), (fw 0x41 0 0 4 5 6 0 0 0x60, .fsub plain 4 5 (.reg 6) true 4),
    (fw 0x42 0 0 4 5 6 0 0 0x80, .fmul ⟨0, false, true⟩ 4 5 (.reg 6) false 0), (fw 0x43 0 0 4 5 6 7 0 0, .fma plain 4 5 (.reg 6) 7 false 0),
    (fw 0x44 0 0 4 5 6 0 0 0, .fmin plain 4 5 (.reg 6) false), (fw 0x45 0 0 4 5 6 0 0 0x40, .fmax plain 4 5 (.reg 6) true),
    (fw 0x46 0 0 4 5 6 0 0 0x05, .fcmp plain 4 5 (.reg 6) false 5), (fw 0x47 0 0 4 5 0 0 0 0x10, .frcp plain 4 5 false 2), (fw 0x48 0 0 4 5 0 0 0 0, .frsq plain 4 5 false),
    (fw 0x49 0 0 4 5 0 0 0 0x18, .fsqrt plain 4 5 false 3), (fw 0x4A 0 0 4 5 0 0 0 0, .fexp2 plain 4 5 false), (fw 0x4B 0 0 4 5 0 0 0 0x40, .flog2 plain 4 5 true),
    (fw 0x4C 0 0 4 5 0 0 0 0, .fsin plain 4 5 false), (fw 0x4D 0 0 4 5 0 0 0 0, .fcos plain 4 5 false), (fw 0x4E 0 0 4 5 6 0 0 0, .fdiv plain 4 5 (.reg 6) false 0),
    (fw 0x4F 0 0 4 5 0 0 0 0x08, .frnd plain 4 5 false 1), (fw 0x50 0 0 4 5 0 0 0 0, .fclass plain 4 5 false), (fw 0x51 0 0 4 5 6 0 0 0, .fscale plain 4 5 (.reg 6) false 0),
    (fw 0x52 0 0 4 5 0 0 0 0, .ffrac plain 4 5 false 0), (fw 0x53 0 0 4 5 6 7 0 0x60, .fdot2 plain 4 5 (.reg 6) 7 4),
    (fw 0x58 0 0 4 5 0 0 0 0x68, .cvt plain 4 5 13 0), (fw 0x59 0 0 4 5 6 0 0 0x40, .pack plain 4 5 (.reg 6) 4 0), (fw 0x5A 0 0 4 5 0 0 0 0x33, .unpk plain 4 5 3 3)] = true := by decide +kernel
/-- Lanes (R219 to R223). -/
theorem test_decode_lanes : reads .full [
    (fw 0x5C 1 0 5 2 0 0 0 2, .vote ⟨1, false⟩ 5 2 2), (fw 0x5D 0 0 4 5 0 1 3 0x16, .shfl noGd 4 5 (.imm 1) 5 2), (fw 0x5E 0 0 4 5 6 7 0 0, .prmt noGd 4 5 (.reg 6) 7),
    (fw 0x5F 0 0 4 5 0 0 0 0x28, .redg noGd 4 5 1 1 0), (fw 0x60 0 0 4 5 0 1 0 0x12, .scan noGd 4 5 0 2 2 true), (fw 0x61 0 0 4 5 0 0 0 1, .matchv noGd 4 5 true)] = true := by
  decide +kernel
/-- Memory, objects, copies (R158). -/
theorem test_decode_memory : reads .full [
    (fw 0x64 0 0 8 4 0x3FF 0x231 0 0x2B, .ld noGd 8 4 (.off 0x3FF) 4 3 true 1 0x0B none), (fw 0x65 0 0 8 4 9 0x00C 0 0x10, .st noGd 8 4 (.idx 9) 0 0 4 0 0x10 none),
    (fw 0x66 0 0 8 4 8 0x081 0 0x2B, .sld 8 4 (.off 8) 1 0 true 1 0x0B none), (fw 0x67 0 0 8 4 8 0x080 0 0x4B, .sst 8 4 (.off 8) 1 0 2 0x0B none),
    (fw 0x68 0 0 8 4 8 0x120 0 0x02, .atom noGd 8 4 (.off 8) 2 2 0 0x02 none), (fw 0x69 0 0 8 4 8 0x130 0 0x66, .satom 8 4 (.off 8) 2 3 3 0x06 none),
    (fw 0x6A 0 0 8 4 0 0x180 0 0xB0, .srel 8 4 (.off 0) 3 true 1 true), (fw 0x6B 0 0 8 4 0 0x180 0 0x90, .sacq 8 4 (.off 0) 3 true true),
    (fw 0x6C 0 0 0 0 0 0x180 0 0x80, .fence 3 4), (fw 0x6D 0 0 1 2 3 63 0 0, .wait 1 2 3 63), (fw 0x6E 0 0 0 4 9 0x009 0 0, .prf noGd 4 (.idx 9) true),
    (fw 0x6F 0 0 0 4 8 0x100 0 0, .cmoWb noGd 4 (.off 8) 2), (fw 0x6F 0 0 0 4 8 0x100 0 1, .cmoWbinv noGd 4 (.off 8) 2), (fw 0x6F 0 0 0 4 8 0x080 0 2, .cmoIinv noGd 4 (.off 8) 1),
    (fw 0x70 0 0 0 4 5 0x100 0 0, .dcf 4 5 2), (fw 0x71 0 0 1 4 8 0 0 0, .pclr 1 4 8), (fw 0x72 0 0 1 2 3 0x100 0 0, .cbarWait 1 2 3 2),
    (fw 0x72 0 0 1 2 3 0x100 0 1, .cbarTest 1 2 3 2), (fw 0x72 0 0 0 2 3 0 0 2, .cbarArm 2 3 0), (fw 0x72 0 0 0 2 3 0x100 0 3, .cbarArrive 2 3 2),
    (fw 0x73 0 0 0 8 1 0 0 7, .cpq 8 1 7)] = true := by decide +kernel
/-- Matrix and tile (R224). -/
theorem test_decode_matrix : reads .full [
    (fw 0x74 0 0 1 0 0 64 3 1, .tcfg 1 (.imm 64) true), (fw 0x75 0 0 0 0 0 0 0 0, .trel), (fw 0x76 0 0 0 0 0 0 0 63, .tzero 0 63),
    (fw 0x77 0 0 63 61 8 0x0FF 0 0xAE, .mma 63 61 8 1 true true 31 2 true 0x0E), (fw 0x77 0 0 63 61 8 0x06F 0 0x6E, .mma 63 61 8 0 true true 15 1 true 0x0E),
    (fw 0x78 0 0 3 4 8 0x085 0 0x2D, .tld 3 4 (.off 8) 1 5 true 0x0D), (fw 0x79 0 0 3 4 8 0x085 0 0x8E, .tst 3 4 (.off 8) 1 5 4 0x0E),
    (fw 0x7A 0 0 8 3 0 0 0 0, .tmovTov 8 3), (fw 0x7A 0 0 3 8 0 0 0 1, .tmovFromv 3 8), (fw 0x7A 0 0 3 4 0 0 0 2, .tmovTot 3 4), (fw 0x7B 0 0 1 0 0 0 0 0, .mbat 1),
    (fw 0x7C 0 0 1 0 0 0 0 1, .mwait 1 true (.reg 0)), (fw 0x7C 0 0 1 0 2 0 1 0, .mwait 1 false (.sreg 2)),
    (fw 0x7D 0 0 3 4 2 5 1 0x88, .tscl 3 4 (.sreg 2) 5 true 1)] = true := by decide +kernel
/-- Every pair opcode in slot A, and in slot B a float product of v12 and v13 guarded by p2 (R143, R146). -/
theorem test_decode_pairs : reads .full [
    (pw (sw 0x00 0 0 0 0) (sw 0x1E 2 4 5 1), .pairPnop ⟨0, 0, 0, 0⟩ ⟨.fmulF, 2, 4, 5, 1⟩), (pw (sw 0x01 1 4 5 0) (sw 0x1E 2 4 5 1), .pairIadd ⟨1, 4, 5, 0⟩ ⟨.fmulF, 2, 4, 5, 1⟩),
    (pw (sw 0x02 2 4 5 0) (sw 0x1E 2 4 5 1), .pairIsub ⟨2, 4, 5, 0⟩ ⟨.fmulF, 2, 4, 5, 1⟩), (pw (sw 0x03 3 4 5 0) (sw 0x1E 2 4 5 1), .pairImul ⟨3, 4, 5, 0⟩ ⟨.fmulF, 2, 4, 5, 1⟩),
    (pw (sw 0x04 4 4 5 0) (sw 0x1E 2 4 5 1), .pairIminI ⟨4, 4, 5, 0⟩ ⟨.fmulF, 2, 4, 5, 1⟩), (pw (sw 0x05 5 4 5 0) (sw 0x1E 2 4 5 1), .pairImaxI ⟨5, 4, 5, 0⟩ ⟨.fmulF, 2, 4, 5, 1⟩),
    (pw (sw 0x06 6 4 5 0) (sw 0x1E 2 4 5 1), .pairIminN ⟨6, 4, 5, 0⟩ ⟨.fmulF, 2, 4, 5, 1⟩), (pw (sw 0x07 7 4 5 0) (sw 0x1E 2 4 5 1), .pairImaxN ⟨7, 4, 5, 0⟩ ⟨.fmulF, 2, 4, 5, 1⟩),
    (pw (sw 0x08 0 4 5 0) (sw 0x1E 2 4 5 1), .pairIneg ⟨0, 4, 5, 0⟩ ⟨.fmulF, 2, 4, 5, 1⟩), (pw (sw 0x09 1 4 5 0) (sw 0x1E 2 4 5 1), .pairIabs ⟨1, 4, 5, 0⟩ ⟨.fmulF, 2, 4, 5, 1⟩),
    (pw (sw 0x0A 2 4 5 0) (sw 0x1E 2 4 5 1), .pairAnd ⟨2, 4, 5, 0⟩ ⟨.fmulF, 2, 4, 5, 1⟩), (pw (sw 0x0B 3 4 5 0) (sw 0x1E 2 4 5 1), .pairOr ⟨3, 4, 5, 0⟩ ⟨.fmulF, 2, 4, 5, 1⟩),
    (pw (sw 0x0C 4 4 5 0) (sw 0x1E 2 4 5 1), .pairXor ⟨4, 4, 5, 0⟩ ⟨.fmulF, 2, 4, 5, 1⟩), (pw (sw 0x0D 5 4 5 0) (sw 0x1E 2 4 5 1), .pairNot ⟨5, 4, 5, 0⟩ ⟨.fmulF, 2, 4, 5, 1⟩),
    (pw (sw 0x0E 6 4 5 31) (sw 0x1E 2 4 5 1), .pairShlImm ⟨6, 4, 5, 31⟩ ⟨.fmulF, 2, 4, 5, 1⟩), (pw (sw 0x0F 7 4 5 31) (sw 0x1E 2 4 5 1), .pairShrLImm ⟨7, 4, 5, 31⟩ ⟨.fmulF, 2, 4, 5, 1⟩),
    (pw (sw 0x10 0 4 5 1) (sw 0x1E 2 4 5 1), .pairShrAImm ⟨0, 4, 5, 1⟩ ⟨.fmulF, 2, 4, 5, 1⟩), (pw (sw 0x11 1 4 5 9) (sw 0x1E 2 4 5 1), .pairRotImm ⟨1, 4, 5, 9⟩ ⟨.fmulF, 2, 4, 5, 1⟩),
    (pw (sw 0x12 2 4 5 0) (sw 0x1E 2 4 5 1), .pairShl ⟨2, 4, 5, 0⟩ ⟨.fmulF, 2, 4, 5, 1⟩), (pw (sw 0x13 3 4 5 0) (sw 0x1E 2 4 5 1), .pairShrL ⟨3, 4, 5, 0⟩ ⟨.fmulF, 2, 4, 5, 1⟩),
    (pw (sw 0x14 4 4 5 0) (sw 0x1E 2 4 5 1), .pairShrA ⟨4, 4, 5, 0⟩ ⟨.fmulF, 2, 4, 5, 1⟩), (pw (sw 0x15 5 4 5 0) (sw 0x1E 2 4 5 1), .pairPopc ⟨5, 4, 5, 0⟩ ⟨.fmulF, 2, 4, 5, 1⟩),
    (pw (sw 0x16 6 4 5 0) (sw 0x1E 2 4 5 1), .pairClz ⟨6, 4, 5, 0⟩ ⟨.fmulF, 2, 4, 5, 1⟩), (pw (sw 0x17 7 4 5 0) (sw 0x1E 2 4 5 1), .pairCtz ⟨7, 4, 5, 0⟩ ⟨.fmulF, 2, 4, 5, 1⟩),
    (pw (sw 0x18 0 4 5 0) (sw 0x1E 2 4 5 1), .pairBfrev ⟨0, 4, 5, 0⟩ ⟨.fmulF, 2, 4, 5, 1⟩), (pw (sw 0x19 1 4 5 0) (sw 0x1E 2 4 5 1), .pairMov ⟨1, 4, 5, 0⟩ ⟨.fmulF, 2, 4, 5, 1⟩),
    (pw (sw 0x1A 2 4 5 63) (sw 0x1E 2 4 5 1), .pairMovi ⟨2, 4, 5, 63⟩ ⟨.fmulF, 2, 4, 5, 1⟩), (pw (sw 0x1B 3 4 5 15) (sw 0x1E 2 4 5 1), .pairMovx ⟨3, 4, 5, 15⟩ ⟨.fmulF, 2, 4, 5, 1⟩),
    (pw (sw 0x1C 4 4 5 4) (sw 0x1E 2 4 5 1), .pairFaddF ⟨4, 4, 5, 4⟩ ⟨.fmulF, 2, 4, 5, 1⟩), (pw (sw 0x1D 5 4 5 1) (sw 0x1E 2 4 5 1), .pairFsubF ⟨5, 4, 5, 1⟩ ⟨.fmulF, 2, 4, 5, 1⟩),
    (pw (sw 0x1E 6 4 5 2) (sw 0x1E 2 4 5 1), .pairFmulF ⟨6, 4, 5, 2⟩ ⟨.fmulF, 2, 4, 5, 1⟩), (pw (sw 0x1F 7 4 5 0) (sw 0x1E 2 4 5 1), .pairFminF ⟨7, 4, 5, 0⟩ ⟨.fmulF, 2, 4, 5, 1⟩),
    (pw (sw 0x20 0 4 5 0) (sw 0x1E 2 4 5 1), .pairFmaxF ⟨0, 4, 5, 0⟩ ⟨.fmulF, 2, 4, 5, 1⟩), (pw (sw 0x21 1 4 5 3) (sw 0x1E 2 4 5 1), .pairFaddB ⟨1, 4, 5, 3⟩ ⟨.fmulF, 2, 4, 5, 1⟩),
    (pw (sw 0x22 2 4 5 4) (sw 0x1E 2 4 5 1), .pairFsubB ⟨2, 4, 5, 4⟩ ⟨.fmulF, 2, 4, 5, 1⟩), (pw (sw 0x23 3 4 5 1) (sw 0x1E 2 4 5 1), .pairFmulB ⟨3, 4, 5, 1⟩ ⟨.fmulF, 2, 4, 5, 1⟩),
    (pw (sw 0x24 4 4 5 0) (sw 0x1E 2 4 5 1), .pairFminB ⟨4, 4, 5, 0⟩ ⟨.fmulF, 2, 4, 5, 1⟩), (pw (sw 0x25 5 4 5 0) (sw 0x1E 2 4 5 1), .pairFmaxB ⟨5, 4, 5, 0⟩ ⟨.fmulF, 2, 4, 5, 1⟩),
    (pw (sw 0x26 6 4 5 1) (sw 0x1E 2 4 5 1), .pairPack ⟨6, 4, 5, 1⟩ ⟨.fmulF, 2, 4, 5, 1⟩), (pw (sw 0x27 7 4 5 8) (sw 0x1E 2 4 5 1), .pairUnpk ⟨7, 4, 5, 8⟩ ⟨.fmulF, 2, 4, 5, 1⟩),
    (pw (sw 0x28 0 4 5 1) (sw 0x1E 2 4 5 1), .pairCvtFI ⟨0, 4, 5, 1⟩ ⟨.fmulF, 2, 4, 5, 1⟩), (pw (sw 0x29 1 4 5 2) (sw 0x1E 2 4 5 1), .pairCvtFN ⟨1, 4, 5, 2⟩ ⟨.fmulF, 2, 4, 5, 1⟩),
    (pw (sw 0x2A 2 4 5 3) (sw 0x1E 2 4 5 1), .pairCvtIF ⟨2, 4, 5, 3⟩ ⟨.fmulF, 2, 4, 5, 1⟩), (pw (sw 0x2B 3 4 5 4) (sw 0x1E 2 4 5 1), .pairCvtNF ⟨3, 4, 5, 4⟩ ⟨.fmulF, 2, 4, 5, 1⟩),
    (pw (sw 0x2C 4 4 5 58) (sw 0x1E 2 4 5 1), .pairIcmpI ⟨4, 4, 5, 58⟩ ⟨.fmulF, 2, 4, 5, 1⟩), (pw (sw 0x2D 5 4 5 13) (sw 0x1E 2 4 5 1), .pairIcmpN ⟨5, 4, 5, 13⟩ ⟨.fmulF, 2, 4, 5, 1⟩),
    (pw (sw 0x2E 6 4 5 32) (sw 0x1E 2 4 5 1), .pairFcmpF ⟨6, 4, 5, 32⟩ ⟨.fmulF, 2, 4, 5, 1⟩)] = true := by decide +kernel

/-! ### Prefixes, refused words and ill-formed instructions -/

/-- The prefixes that R149 works out, before the words they modify. -/
theorem test_decode_prefixes : decodeUnit .full 0x8048D159E26AF000 0x1C80020000000310 = .ok (.movi plain 2 (.i48 0x123456789ABC) 1) ∧
    decodeUnit .full 0x8620000000000000 (BitVec.ofNat 64 (fw 0x64 0 0 8 4 9 0x008 0 0x0A)) = .ok (.ld noGd 8 4 (.idx 9) 0 0 false 0 0x0A (some 1)) ∧
    decodeUnit .full 0x8000000000000000 0x1C80010000000360 = .error .illEnc ∧
    decodeUnit .armature 0x8000000000000000 0x1C80010000000360 = .ok (.movi plain 1 (.i48 0) 6) := by decide +kernel

/-- Units that R151 has refused, each for one of its checks. -/
theorem test_decode_refuses : traps .full [
    (0x8800000000000000, 0, .illOpc), (0x8000000000000001, fw 0x39 0 0 2 0 0 0 3 0, .illEnc), (0x8000000000000400, fw 0x00 0 0 0 0 0 0 0 0, .illEnc),
    (0x8620000000000000, fw 0x20 0 0 4 5 6 0 0 0, .illEnc), (0x8000000000000000, 0x8000000000000000, .illEnc), (0x8000000000000400, fw 0x39 0 0 2 0 0 1 3 0, .illEnc),
    (fw 0x05 0 1 0 0 0 0 0 0, 0, .illEnc), (fw 0x01 0 0 0 0 0 5 3 3, 0, .illOpc), (fw 0x07 1 0 0 0 0 0 0 0, 0, .illEnc), (fw 0x3A 0 0 4 5 6 1 0 0x80, 0, .illOpc),
    (fw 0x22 0 0 5 6 7 0 0 0x10, 0, .illEnc), (fw 0x20 0 0 4 5 6 0 0 0x40, 0, .illOpc), (fw 0x1E 0 0 0 0 0 0 0 0, 0, .illOpc), (fw 0x64 0 0 8 4 8 0 0 0x0F, 0, .illOpc),
    (fw 0x18 0 0 67 5 0 2 3 0, 0, .illEnc), (fw 0x1C 0 0 3 0 5 0 0 0, 0, .illOpc)] = true ∧
    traps ⟨false, 32, 8, 8⟩ [(fw 0x20 0 0 31 32 0 0 0 0, 0, .illEnc), (fw 0x7A 0 0 7 8 0 0 0 2, 0, .tileRange), (pw (sw 1 0 16 0 0) 0, 0, .illEnc),
      (pw (sw 0x2C 0 4 5 0x0B) (sw 0x2C 0 4 5 0x08), 0, .illEnc), (pw (sw 0x2C 0 4 5 0x0E) 0, 0, .illOpc), (pw (sw 0 1 0 0 0) 0, 0, .illEnc)] = true := by decide +kernel

/-- A term for each check that well-formedness makes, and the check refuses it. -/
theorem test_wf_available : (Instr.hsr 3 (.reg 5)).wf .full = false ∧ (Instr.hsr 3 (.reg 5)).wf .armature = true ∧ (Instr.mark 0 (.i20 5)).wf .armature = false ∧
    (Instr.vote noGd 1 2 0).wf .armature = false := by decide +kernel
theorem test_wf_codes : (Instr.and plain 4 5 (.reg 6) 1).wf .full = false ∧ (Instr.ld noGd 8 4 (.off 0) 0 5 false 0 0x0A none).wf .full = false ∧
    (Instr.fadd plain 4 5 (.reg 6) false 5).wf .full = false ∧ (Instr.bra noGd 3 0 (.i20 1)).wf .full = false := by decide +kernel
theorem test_wf_registers : (Instr.not plain 32 5 0).wf ⟨false, 32, 0, 8⟩ = false ∧ (Instr.not plain 31 5 0).wf ⟨false, 32, 0, 8⟩ = true ∧
    (Instr.mov plain 5 (.reg 6) 2).wf .full = false ∧ (Instr.ret 64).wf .full = false ∧ (Instr.elect noGd 16).wf .full = false := by decide +kernel
theorem test_wf_guards_and_forms : (Instr.nop ⟨0, true⟩).wf .full = false ∧ (Instr.not ⟨1, false, true⟩ 4 5 0).wf .full = false ∧ (Instr.nop ⟨1, false⟩).wf .armature = false ∧
    (Instr.ld noGd 8 4 (.idx 9) 0 0 false 0 0x0A none).wf .armature = false ∧ (Instr.wait 1 2 3 4).wf .armature = false ∧
    (Instr.imad plain 4 5 (.imm 6) 7 0 0).wf .full = false := by decide +kernel
theorem test_wf_tiles : (Instr.tmovTot 3 64).wf .full = false ∧ (Instr.tzero 1 63).wf .full = false ∧ (Instr.mbat 1).wf .full = true ∧ (Instr.tmovTot 3 8).wf ⟨false, 32, 8, 8⟩ = false := by
  decide +kernel
theorem test_wf_pairs : (Instr.pairIadd ⟨0, 4, 5, 1⟩ ⟨.pnop, 0, 0, 0, 0⟩).wf .full = false ∧ (Instr.pairPnop ⟨1, 0, 0, 0⟩ ⟨.pnop, 0, 0, 0, 0⟩).wf .full = false ∧
    (Instr.pairIcmpI ⟨0, 4, 5, 0x0E⟩ ⟨.pnop, 0, 0, 0, 0⟩).wf .full = false ∧ (Instr.pairIcmpI ⟨0, 4, 5, 0x08⟩ ⟨.icmpN, 0, 4, 5, 0x08⟩).wf .full = false ∧
    (Instr.pairIadd ⟨0, 16, 0, 0⟩ ⟨.pnop, 0, 0, 0, 0⟩).wf ⟨false, 32, 0, 8⟩ = false ∧ (Instr.pairIadd ⟨0, 4, 5, 0⟩ ⟨.pnop, 0, 0, 0, 0⟩).wf .armature = false ∧
    (Instr.pairIadd ⟨0, 4, 5, 0⟩ ⟨.pnop, 0, 0, 0, 0⟩).wf .full = true := by decide +kernel
/-- A step of the hardware is no word. -/
theorem test_wf_events : Instr.issueSelect.wf .full = false ∧ (Instr.dieReset 0).wf .full = false := by decide +kernel
/-- A context that no thread has. -/
theorem test_wf_contexts : (⟨false, 48, 0, 8⟩ : DCtx).ok = false ∧ (⟨false, 32, 65, 8⟩ : DCtx).ok = false ∧ (⟨false, 32, 0, 33⟩ : DCtx).ok = false := by decide +kernel

/-! ### One step of one instruction

The registers before and the results are those of the manual's worked examples, or follow from the rule each test cites. -/

/-- The registers of a step of the word `w` from `r`. -/
def ranFrom (w : Nat) (r : Regs) (P : Thread → Bool) : Bool :=
  nextIs (Machine.step ((State.reset.layFetch false w).onCur fun t => { t with regs := r })) fun t => P t.cur
/-- Every lane. -/
def allL : W32 := 0xFFFFFFFF
/-- Vector registers with a tag, all lanes alike. -/
def vregs (l : List (Nat × BitVec 4 × W32)) : Regs := l.foldl (fun r x => r.wrV allL x.1 allL x.2.1 fun _ => x.2.2) Regs.start
/-- A register of lane 0 and its tag. -/
def hasV (t : Thread) (n : Nat) (tag : BitVec 4) (x : W32) : Bool := t.regs.rdV n 0 == x && t.regs.tag n == tag

/-- The 64-bit sum of R201's example: the low half carries out. -/
theorem test_iadd_carry_out : ranFrom 0x1000040000200029 (vregs [(0, tI32, 0xFFFFFFFF), (2, tI32, 2)])
    (fun t => hasV t 4 tI32 1 && t.regs.rdP 1 0) = true := by decide +kernel
/-- The high half takes the carry in. -/
theorem test_iadd_carry_in : ranFrom 0x1000050040300031 ((vregs [(1, tI32, 1), (3, tI32, 0)]).wrP allL 1 allL fun _ => true)
    (fun t => hasV t 5 tI32 2 && !t.regs.rdP 1 0) = true := by decide +kernel
/-- A divisor of zero gives all ones and raises no flag (R202). -/
theorem test_idiv_zero : ranFrom (0x24 * 2 ^ 55 + 4 * 2 ^ 40 + 2 * 2 ^ 20) (vregs [(0, tI32, 7), (2, tI32, 0)])
    (fun t => hasV t 4 tI32 0xFFFFFFFF && t.ctl.fflags == 0) = true := by decide +kernel
/-- The exact small difference of R213's example, with no flag. -/
theorem test_fdot2_exact : ranFrom 0x2980140180702040 (vregs [(6, tBF, 0x39803F80), (7, tBF, 0x39803F80), (8, tFP32, 0xBF800000)])
    (fun t => hasV t 20 tFP32 0x33800000 && t.ctl.fflags == 0) = true := by decide +kernel
/-- −2.5 rounds down to −3 and raises NX (R215). -/
theorem test_cvt_rounds_down : ranFrom 0x2C00020040000012 (vregs [(1, tFP32, 0xC0200000)])
    (fun t => hasV t 2 tI32 0xFFFFFFFD && t.ctl.fflags == 1) = true := by decide +kernel
/-- 3.0E9 saturates and raises NV (R215). -/
theorem test_cvt_saturates : ranFrom 0x2C00020040000012 (vregs [(1, tFP32, 0x4F32D05E)])
    (fun t => hasV t 2 tI32 0x7FFFFFFF && t.ctl.fflags == 16) = true := by decide +kernel
/-- `vote.ballot.p1 s5, p2` of the lanes' example: lanes 0 to 23, the odd ones true. -/
theorem test_vote_ballot : ranFrom (0x5C * 2 ^ 55 + 2 ^ 51 + 5 * 2 ^ 40 + 2 * 2 ^ 30 + 2)
    ((Regs.start.wrP allL 1 allL fun l => decide (l < 24)).wrP allL 2 allL fun l => l % 2 == 1)
    (fun t => t.regs.rdR 5 == 0xAAAAAA) = true := by decide +kernel

/-! ### Assembly -/

section Assembly
open Sys2Proof.Joryan

/-- The words of a source with one section, as numbers. -/
def wordsOf (src : String) : Option (List Nat) :=
  (assemble src.toList).bind fun o => o.secs.head?.map fun s => (List.range (s.bytes.length / 8)).map fun i => ofBytes ((s.bytes.drop (8 * i)).take 8)

/-- The pair of R157's example, slot A first. -/
theorem test_asm_pair : wordsOf ".section .text.gang, gangcode\niadd v8, v9 || fmul.f32.rtz.p2 v12, v13\n" = some [0x410080A03C810141] := by
  decide +kernel
/-- A register of the other banks in slot A is an error (R157). -/
theorem test_asm_pair_banks : wordsOf ".section .text.gang, gangcode\niadd v12, v9 || pnop\n" = none := by decide +kernel
/-- The `ld` of R160's example, and its kind-1 prefix (R149, R156). -/
theorem test_asm_load : wordsOf ".section .text.gang, gangcode\nld.b32.acq.cl v8, [s4 + v9]\nld.b32.bpm:1 v8, [s4 + v9]\n"
    = some [0x320008010092202A, 0x8620000000000000, 0x320008010090200A] := by decide +kernel
/-- A value that does not fit 20 bits takes a kind-0 prefix (R156). -/
theorem test_asm_wide : wordsOf ".section .text.gang, gangcode\nmovi.b64.u s4, 0x1234_5678_9ABC ; wide\n"
    = some [0x8048D159E26AF000, 0x1C800400000003E0] := by decide +kernel
/-- Operators bind as R408 gives: this is 7 | 12. -/
theorem test_asm_expression : wordsOf ".data\n.dword 1 + 2 * 3 | 3 << 2\n" = some [15] := by decide +kernel

/-- A shorter form of the chapter's worked object: its data and its armature's code. -/
def demoSrc : String :=
  ".data\nlimit: .dword 64, 0\n.kernel demo\n.niche nb\n.armature\nmovi.b64 x1, limit\nnw nb, x1, 1\n.role 0\n.gang 1\nexit\n.end\n"
/-- The words of the worked object, `limit` linked at 0x120000. -/
theorem test_asm_demo : ((assemble demoSrc.toList).bind fun o => o.link ⟨[0x120000, 0x200000, 0x300000], 0, [], []⟩).map
    (fun l => l.map fun x => ofBytes x.2)
    = some [64, 0x8000000048000000 + 0x1C80010000000360 * 2 ^ 64 + 0x0C00000040000700 * 2 ^ 128, 0x0280000000000000] := by decide +kernel
/-- Advancing the pointer before the store breaks the replay contract (R421). -/
theorem test_asm_replay : (assemble (".kernel k\n.role 0\n.gang 1\n.replaysafe\nsld.b64 s7, [s6]\niadd.u s6, s6, 8\nsst.b64 s7, [s6 + 8]\nexit\n.end\n").toList).isNone = true
    ∧ (assemble (".kernel k\n.role 0\n.gang 1\n.replaysafe\nsld.b64 s7, [s6]\nsst.b64 s7, [s6 + 8]\niadd.u s6, s6, 8\nexit\n.end\n").toList).isSome = true := by
  decide +kernel
/-- The diagnosis names the load, the unit that reads and the unit that writes. -/
theorem test_asm_diagnosis : diagnose ".kernel k\n.role 0\n.gang 1\n.replaysafe\nsld.b64 s7, [s6]\niadd.u s6, s6, 8\nexit\n.end\n".toList
    = some ⟨0, 0, 0, 8⟩ := by decide +kernel
/-- What each code section refuses (R410), a label that is too long, and a CR that no LF follows (R407). -/
theorem test_asm_refuses : ([".section .text.arm, armcode\nmerge\n", ".section .text.arm, armcode\nelect p3\n", ".section .text.arm, armcode\ntzero a0\n",
      ".section .text.gang, gangcode\nhsr x1, s2\n", ".data\n" ++ String.ofList (List.replicate 256 'a') ++ ":\n", ".data\n.dword 1\r"].all
      fun t => wordsOf t == none) = true ∧ wordsOf ".data\r\n.dword 1\r\n" = some [1] := by decide +kernel
/-- The file begins as R416 says, and the entries are relocated against the section symbols of `.text.arm` and `.text.gang` (R417, R419). -/
theorem test_asm_file : ((assemble demoSrc.toList).map fun o => ofBytes (o.file.take 20)) = some (0x9D4000010000000000000000 * 2 ^ 64 + 0x00010102464C457F) ∧
    ((assemble demoSrc.toList).map fun o => (o.kerns.flatMap o.noteRels).map fun r => ofBytes ((o.relaBytes r).drop 8))
      = some [2 * 2 ^ 32 + 1, 3 * 2 ^ 32 + 1] := by decide +kernel
/-- Suffixes are printed from the high field to the low one (R12). -/
theorem test_disasm : disasm false [] 0x320008010092202A 0 = some "ld.cl.acq.b32 v8, [s4 + v9]".toList ∧
    disasm false [] 0x410080A03C810141 0 = some "iadd v8, v9 || fmul.f32.p2.rtz v12, v13".toList ∧
    disasm false ["nb".toList] 0x0C80060000000000 0 = some "nr s6, nb".toList ∧
    disasm true [] 0x8048D159E26AF000 0x1C80020000000360 = some "movi.b64 x2, 20015998343868".toList := by decide +kernel
/-- A branch target more than 48 bits of words away, or not a multiple of 8, is a link error (R417). -/
theorem test_link_pcrel : relocValue 4 0x1000 0x1008 0 0 = some 0xFFFFFFFFFFFF ∧ relocValue 4 0x1004 0x1008 0 0 = none := by decide +kernel
end Assembly

end Sys2Proof.Tests
end

section
/-! PROOFS. Division and packed sums (R202, R204). -/

namespace Sys2Proof.Machine

/-! ### One result in each lane -/

/-- A register instruction with one destination, one constant tag and no flag gives its function of the sources' values. -/
theorem exec_gives_lane1 {s s1 : State} {i : Instr} {len : Nat} {g : Gd} {srcs : List (Opd × (BitVec 4 → Bool))} {d : Dst} {t : BitVec 4}
    {f : List Nat → Nat} {v : Nat → Nat} (h : aluForm s i = some (len, g, { srcs, dsts := [d], tag := tagC t, fn := lane1 f }))
    (ha : s.Acts true g) (ht : s.Takes s1 srcs) (hv : ∀ l, f (srcs.map fun p => p.1.val s1 l) = v l) :
    s.Gives s1 i len g [⟨d, fun _ => t, v⟩] := by
  obtain rfl : (fun l => f (srcs.map fun p => p.1.val s1 l)) = v := funext hv
  exact exec_gives h ha ht rfl (List.pairwise_singleton _ _)

/-! ### Division (R202) -/

/-- Cutting to the width forgets the sign that a pattern was read with. -/
@[simp] theorem truncI_readI (signed : Bool) (a w : Nat) : truncI (readI signed a w) w = a % 2 ^ w := by
  have cut : ((a % 2 ^ w : Nat) % (2 ^ w : Nat) : Int).toNat = a % 2 ^ w := by
    rw [← Int.natCast_mod, Int.toNat_natCast, Nat.mod_mod]
  cases signed with
  | false => exact cut
  | true =>
    have under : ((a % 2 ^ w : Nat) - 2 ^ w : Int) % (2 ^ w : Nat) = (a % 2 ^ w : Nat) % (2 ^ w : Nat) := by
      exact_mod_cast Int.sub_emod_right ((a % 2 ^ w : Nat) : Int) ((2 ^ w : Nat) : Int)
    simp only [readI, sextN, truncI, if_true]
    split
    · exact cut
    · rw [under]; exact cut

/-- The one overflowing quotient is cut to the pattern of the dividend. -/
theorem truncI_two_pow_pred {w : Nat} (hw : 0 < w) : truncI (2 ^ (w - 1) : Nat) w = 2 ^ (w - 1) := by
  rw [truncI, ← Int.natCast_mod, Int.toNat_natCast, Nat.mod_eq_of_lt (Nat.pow_lt_pow_right (by omega) (by omega))]

/-- Quotient and remainder with the three corners spelled out. -/
theorem divI_corners (signed rem : Bool) {w : Nat} (hw : 0 < w) (a b : Nat) :
    divI signed rem w a b =
      if readI signed b w = 0 then (if rem then a % 2 ^ w else 2 ^ w - 1)
      else if signed = true ∧ readI signed a w = -(2 ^ (w - 1) : Nat) ∧ readI signed b w = -1 then (if rem then 0 else 2 ^ (w - 1))
      else truncI (if rem then (readI signed a w).tmod (readI signed b w) else (readI signed a w).tdiv (readI signed b w)) w := by
  simp only [divI]
  by_cases hy : readI signed b w = 0
  · simp only [hy, if_true, truncI_readI]
  rw [if_neg hy, if_neg hy]
  by_cases hover : signed = true ∧ readI signed a w = -(2 ^ (w - 1) : Nat) ∧ readI signed b w = -1
  · have ⟨_, hx, hminus⟩ := hover
    rw [if_pos hover, hx, hminus]
    cases rem with
    | false => simpa [Int.tdiv_neg] using truncI_two_pow_pred hw
    | true => simp [truncI]
  · rw [if_neg hover]

theorem itW_pos (it : BitVec 2) : 0 < itW it := by
  unfold itW; split <;> omega

/-! ### Packed elements (R204) -/

theorem rangeFrom_eq_range' (a n : Nat) : rangeFrom a n = List.range' a n := by
  induction n generalizing a with
  | zero => rfl
  | succ n ih => rw [rangeFrom, ih, List.range'_succ]

/-- A fold that adds onto a start value is that value plus the sum. -/
theorem foldl_add_eq_sum {α : Type} (g : α → Int) (xs : List α) (c : Int) : xs.foldl (fun t k => t + g k) c = c + (xs.map g).sum := by
  rw [← List.foldl_map (f := g) (g := (· + ·)), List.foldl_eq_apply_foldr, ← List.sum_eq_foldr]

/-- A PK field reads signed elements under its codes 0 and 2. -/
theorem pk_signed_eq (pk : BitVec 2) : (pk == 0 || pk == 2) = decide (pk = 0 ∨ pk = 2) := by
  simp only [Bool.decide_or, beq_eq_decide]

/-- A PK field selects bytes under its codes 0 and 1. -/
theorem pk_bytes_iff (pk : BitVec 2) : pk.toNat ≤ 1 ↔ pk = 0 ∨ pk = 1 := by
  revert pk; decide

/-- The sum of an elementwise function as R204 writes it, before saturation or the cut. -/
theorem packedSum_eq (dot sat : Bool) (pk : BitVec 2) (a b c : Nat) :
    let signed := decide (pk = 0 ∨ pk = 2)
    let bits := if pk = 0 ∨ pk = 1 then 8 else 16
    let e := fun (k x : Nat) => readI signed (x / 2 ^ (bits * k)) bits
    let r := readI signed c 32 + ((List.range (32 / bits)).map fun k => if dot then e k a * e k b else |e k a - e k b|).sum
    packedSum dot sat pk a b c = truncI (if sat then clampI (rangeI signed 32).1 (rangeI signed 32).2 r else r) 32 := by
  have count : (if pk = 0 ∨ pk = 1 then 4 else 2) = 32 / (if pk = 0 ∨ pk = 1 then 8 else 16) := by split <;> rfl
  simp only [packedSum, packedEl, satI, pk_signed_eq, pk_bytes_iff, count, rangeFrom_eq_range', ← List.range_eq_range', foldl_add_eq_sum,
    Int.natCast_natAbs]

end Sys2Proof.Machine

open Sys2Proof Sys2Proof.Machine

/-- Settles O3: the result is `divI`, whose corners are split once in `divI_corners`. -/
theorem integerDivision : Obligations.IntegerDivision := by
  intro h dst sa sb it rem s s1 w A B x y ha ht
  exact exec_gives_lane1 rfl ha ht fun l => divI_corners (itS it) rem (itW_pos it) (A.val s1 l) (B.val s1 l)

/-- Settles O8: both results are `packedSum`, which folds over the elements the sum of R204. -/
theorem packedSums : Obligations.PackedSums := by
  intro h dst sa sb sc pk sat s s1 signed bits tag A B C e sum fin ha ht
  have htag : (if pk.toNat ≤ 1 then tI8 else tI16) = tag := if_congr (pk_bytes_iff pk) rfl rfl
  rw [← htag] at ht
  exact ⟨exec_gives_lane1 rfl ha ht fun l => packedSum_eq true sat pk (A.val s1 l) (B.val s1 l) (C.val s1 l),
    exec_gives_lane1 rfl ha ht fun l => packedSum_eq false sat pk (A.val s1 l) (B.val s1 l) (C.val s1 l)⟩
end

section
/-! PROOFS. Calls and returns (R334). -/

namespace Sys2Proof.Machine

/-! ### Stops that do not happen, and one that does -/

theorem run_stopIf_false_bind {α : Type} (e : Exc) (k : Unit → M α) (s : State) : (stopIf false e >>= k).run s = (k ()).run s := rfl

theorem run_stopIf_true_bind {α : Type} (e : Exc) (k : Unit → M α) (s : State) : (stopIf true e >>= k).run s = .error ⟨e, s⟩ := rfl

/-- A target that is a multiple of 8 in space 0x0 passes both checks (R331). -/
theorem run_targetM_bind {α : Type} {t : Word} (hspace : spaceOf t.toNat = 0) (halign : t.toNat % 8 = 0) (k : Unit → M α) (s : State) :
    (targetM t >>= k).run s = (k ()).run s := by
  have passes : targetM t = (do stopIf false (.trap cALIGN t.toNat 0); stopIf false (.trap cADDR t.toNat 0)) := by
    simp only [targetM, halign, hspace, bne_self_eq_false]
  rw [passes, bind_assoc, run_stopIf_false_bind, run_stopIf_false_bind]

/-! ### The one path of `call` and `ret` -/

/-- What `call` and `ret` share: a poisoned source parks, the target is checked, then the link is written, if there is one, and the group goes. -/
def transfer (pois : Bool) (t : Word) (link : M Unit) (act : W32) : M Next :=
  if act = 0 then pure .seq
  else do
    stopIf pois (.park 0)
    targetM t
    link
    jumpM t
    pure .set

section
variable {s : State} {len : Nat} {pois : Bool} {t : Word} {link : M Unit}

theorem unit_transfer_idle (hc : s.Clear false noGd) (ha : s.lanes noGd = 0) :
    s.unit len false noGd (transfer pois t link) = s.passed len :=
  State.unit_next hc (by rw [transfer, if_pos ha]; rfl)

theorem unit_transfer_goes {s' : State} (hc : s.Clear false noGd) (ha : s.lanes noGd ≠ 0) (hp : pois = false) (hspace : spaceOf t.toNat = 0)
    (halign : t.toNat % 8 = 0) (hlink : link.run s = .ok ((), s')) :
    s.unit len false noGd (transfer pois t link) = (s'.onSlices fun _ c => { c with pc := t, wait := .none }).passedSet := by
  refine State.unit_set hc ?_
  rw [transfer, if_neg ha, hp, run_stopIf_false_bind, run_targetM_bind hspace halign, StateT.run_bind, hlink]
  rfl

theorem unit_transfer_parks (hc : s.Clear false noGd) (ha : s.lanes noGd ≠ 0) (hp : pois = true) :
    s.unit len false noGd (transfer pois t link) = s.stopped (.park 0) (s.lanes noGd) (s.cur.pcOf s.curGrp) (s.cur.gslices s.curGrp) := by
  have parks : (transfer pois t link (s.lanes noGd)).run s = .error ⟨.park 0, s⟩ := by
    rw [transfer, if_neg ha, hp, run_stopIf_true_bind]
  rw [State.unit_stop hc parks, State.stops_self s (.park 0) _ nofun]

end

/-- Where `call` goes: relative to the unit, or to what its register holds. No well-formed `call` names a niche; there the model takes 0. -/
def callTarget (s : State) : Src → Word
  | .imm v => relTarget (s.cur.pcOf s.curGrp) (.i20 v)
  | .wide v => relTarget (s.cur.pcOf s.curGrp) (.i48 v)
  | .reg n => rVal s n
  | .sreg n => rVal s n
  | .nic _ => 0

theorem exec_call_eq_transfer (dst : BitVec 10) (sb : Src) (s : State) :
    exec (.call dst sb) s = .next (s.unit (srcLen sb) false noGd
      (transfer (ctlPois s sb) (callTarget s sb) (setR dst (s.cur.pcOf s.curGrp + BitVec.ofNat 64 (srcLen sb))))) := by
  have held (n : BitVec 10) : rVal s n = BitVec.ofNat 64 (rVal s n).toNat := by rw [BitVec.ofNat_toNat, BitVec.setWidth_eq]
  cases sb with
  | imm v => rfl
  | wide v => rfl
  | nic n => rfl
  | reg n => rw [callTarget, held]; rfl
  | sreg n => rw [callTarget, held]; rfl

theorem exec_ret_eq_transfer (sa : BitVec 10) (s : State) :
    exec (.ret sa) s = .next (s.unit 8 false noGd (transfer (rPois s sa) (rVal s sa) (pure ()))) := rfl

end Sys2Proof.Machine

open Sys2Proof Sys2Proof.Machine

/-- Settles O20: both are `transfer`, which passes, goes or parks; only `call` has a link to write before it goes. -/
theorem callAndReturn : Obligations.CallAndReturn := by
  intro dst sa sb s pc act len tgt back goes hc
  have htgt : tgt = callTarget s sb := by cases sb <;> rfl
  rw [htgt, exec_call_eq_transfer, exec_ret_eq_transfer]
  refine ⟨fun ha => ?idle, fun ha hp hspace halign => ?call, fun ha hp hspace halign => ?ret, fun ha hp => ?park⟩
  case idle => exact ⟨congrArg _ (unit_transfer_idle hc ha), congrArg _ (unit_transfer_idle hc ha)⟩
  case call => exact congrArg _ (unit_transfer_goes hc ha hp hspace halign rfl)
  case ret => exact congrArg _ (unit_transfer_goes hc ha hp hspace halign rfl)
  case park => exact congrArg _ (unit_transfer_parks hc ha hp)
end
